-- ==== Sys2Proof/Word.lean ====
section
/-! DEFINITION. The word types of the SQ-2048 flow switch module and the plain map that sparse tables are kept in. -/

namespace Sys2Proof

/-- One byte of a frame, a parameter or an addressed memory. -/
abbrev Byte := BitVec 8

/-- A 64-bit word: agent registers, parameter words, the hash state. -/
abbrev W64 := BitVec 64

/-- A 32-bit word: resource codes, action-pipeline operands. -/
abbrev W32 := BitVec 32

/-- A sparse table by key; an unlisted key reads as the default its reader names. -/
abbrev Tab (κ α : Type) := List (κ × α)

end Sys2Proof
end

