-- ==== Sys2Proof/Types.lean ====
section
/-! DEFINITION. The plain data that commands carry: who asks, timetable and microcode images, frames, records.
What a command reads from host memory, and what a frame carries, arrives as its operand. -/

namespace Sys2Proof

/-- The two worlds (00_scope.md, R266). -/
inductive World where
  | secure | nonSecure
  deriving DecidableEq, Repr

/-- Where a command came from: a world's ring (R266) or the in-band virtual ring (R286). -/
inductive Ring where
  | secure | nonSecure | inband
  deriving DecidableEq, Repr

/-- The rings of one function that BAR0 configures (Table 20-3). -/
inductive RingKind where
  | command | reply | trap | time
  deriving DecidableEq, Repr

/-- Operating modes (Table 17-1). -/
inductive Mode where
  | standby | sanitize | boot | calibrate | service | holdover | drain | halt
  deriving DecidableEq, Repr

/-- Life-cycle states (Table 16-3). -/
inductive Lifecycle where
  | manufacture | provisioned | deployed | returned | decommissioned
  deriving DecidableEq, Repr

/-- Status codes (Table 13-7) that a reply carries. -/
inductive Status where
  | ok | pending | badVersion | badOpcode | badLength | badParam | worldViolation | modeNotPermitted
  | lifecycleNotPermitted | tabletHeld | resourceClaimed | busy | tableFull | notFound | exists_ | versionLimit
  | contractInfeasible | timetableMismatch | signatureFail | imageIncompatible | timeout | cancelled | running
  | channelFrozen | hardwareFault
  deriving DecidableEq, Repr

/-- What a command's header (Table 13-1) says of its sender. VERSION, LENGTH, OPCODE and the reserved fields are
judged when the command is fetched (`RawCmd`). -/
structure Hdr where
  ring        : Ring
  seq         : Nat
  tag         : Nat
  unordered   : Bool
  waitPending : Bool
  timeoutUs   : Nat
  deriving DecidableEq, Repr

/-- A command header as the module reads it from a ring slot (Table 13-1). `resvOffset` is the offset of the first reserved
header field or reserved FLAGS bit that is not zero. -/
structure RawCmd where
  version    : Nat
  opcode     : Nat
  length     : Nat
  indirect   : Bool
  resvOffset : Option Nat
  hdr        : Hdr
  deriving DecidableEq, Repr

/-- What the module reads at the head of a world's command ring: the 32 bytes of its first slot that a header takes (R269, Table 13-1). -/
structure FetchedSlot where
  world : World
  bytes : List Byte
  deriving DecidableEq, Repr

/-- An error detail (Table 13-4). -/
inductive Detail where
  | param (offset : Nat)
  | holder (source opcode seq tag : Nat)
  | entry (value : Nat)
  | aggregate (agg : Nat)
  | orbit (headway orbit : Nat)
  | stage (word stage : Nat)
  deriving DecidableEq, Repr

/-- Causes of a link transition (R402). -/
inductive LinkCause where
  | outside | portAdmin | laneRecal | laneLoss | portMap | modeDark | sliceHalt
  deriving DecidableEq, Repr

/-- What a faceplate indicator shows (Table 19-8). -/
inductive Light where
  | off | green | greenFlash | amber | amberFlash | blue
  deriving DecidableEq, Repr

/-! ### Timetable image (Tables 1-6 to 1-23) -/

/-- One non-zero count of a RESERVE section (Table 1-12): pattern headway, block, ingress, egress, cells. -/
structure ResvCount where
  x : Nat
  k : Nat
  i : Nat
  j : Nat
  n : Nat
  deriving DecidableEq, Repr

/-- RESERVE section (Table 1-12); an unlisted count is 0. -/
structure Reserve where
  p      : Nat
  counts : List ResvCount
  deriving DecidableEq, Repr

/-- METER record (Table 1-13). -/
structure MeterRec where
  slice : Nat
  meter : Nat
  agg   : Nat
  param : BitVec 64
  deriving DecidableEq, Repr

/-- QMAP aggregate record (Table 1-14). -/
structure QAgg where
  agg       : Nat
  cls       : Nat
  equeue    : Nat
  ncAction  : Nat
  flowState : Bool
  crossHop  : Bool
  mcast     : Bool
  egress    : Nat
  kL        : Nat
  kA        : Nat
  prec      : Nat
  deriving DecidableEq, Repr

/-- QMAP class entry (Table 1-15). -/
structure QClass where
  slice : Nat
  entry : Nat
  agg   : Nat
  meter : Nat
  value : BitVec 384
  mask  : BitVec 384
  deriving DecidableEq, Repr

/-- QMAP guaranteed egress meter record (Table 1-16). -/
structure QEgm where
  port  : Nat
  queue : Nat
  param : BitVec 64
  deriving DecidableEq, Repr

/-- QMAP section. -/
structure QMap where
  aggs    : List QAgg
  classes : List QClass
  egms    : List QEgm
  deriving DecidableEq, Repr

/-- HBMCAL channel entry (Table 1-17). -/
structure CalEnt where
  flow    : Nat
  siding  : Nat
  maint   : Nat
  refresh : Nat
  spare   : Nat
  deriving DecidableEq, Repr

/-- SPARE record of one slice (Table 1-18). -/
structure SpareRec where
  pivot  : BitVec 256
  bucket : BitVec 256
  rule   : BitVec 256
  deriving DecidableEq, Repr

/-- One DEMAND term: a demand code of Table 1-19 and an amount. -/
structure DemTerm where
  res    : BitVec 32
  amount : Nat
  deriving DecidableEq, Repr

/-- The DEMAND block of one aggregate. -/
structure DemBlock where
  agg   : Nat
  terms : List DemTerm
  deriving DecidableEq, Repr

/-- A fallback variant (Table 1-20); an absent replacement keeps the base section. -/
structure Variant where
  loss    : List (BitVec 32)
  reserve : Option Reserve
  qmap    : Option QMap
  hbmcal  : Option (List CalEnt)
  deriving DecidableEq, Repr

/-- ELASTIC record of one queue (Table 1-21). -/
structure ElasticRec where
  ageLimit : Nat
  k        : Int
  defer    : Nat
  weight   : Nat
  spill    : Nat
  deriving DecidableEq, Repr

/-- CODE entry (Table 1-22): kind 1 parser, 2 action, 3 agent; slices as a mask; the image's digest. -/
structure CodeEnt where
  kind   : Nat
  slices : BitVec 32
  digest : Nat
  deriving DecidableEq, Repr

/-- FEATURES section (Table 1-23). PTP_TX_MAX of an unlisted port is 0. -/
structure Features where
  b      : Nat
  stash  : Nat
  gib    : Nat
  prot   : BitVec 1024
  ptpMax : List (Nat × Nat)
  deriving DecidableEq, Repr

/-- A section of an image by the content of its type (Table 1-7). -/
inductive Section where
  | unused
  | reserve (r : Reserve)
  | meter (rs : List MeterRec)
  | qmap (q : QMap)
  | hbmcal (es : List CalEnt)
  | spare (rs : List SpareRec)
  | demand (bs : List DemBlock)
  | variant (vs : List Variant)
  | elastic (rs : List ElasticRec)
  | code (es : List CodeEnt)
  | features (f : Features)
  | unknown (type : Nat)
  deriving DecidableEq, Repr

/-- A directory entry with its section. `sound` says of the section's bytes what its content cannot: it begins where it may,
lies within its stated length and LENGTH, its counts agree with its length, its reserved bytes are 0 (R41). -/
structure DirEnt where
  body  : Section
  sound : Bool
  deriving DecidableEq, Repr

/-- One entry of a port map (Table 2-2): a lane, its width code and, at a port's lowest lane, the maximum frame
length. An unlisted lane is dark. -/
structure MapEnt where
  lane   : Nat
  code   : Nat
  maxLen : Nat
  deriving DecidableEq, Repr

/-- A timetable image as TT_LOAD reads it from its bytes (Tables 1-6, 1-7). `intact` says that LENGTH and IMAGE_DIGEST are those of
the bytes and that the header's reserved bytes are 0. Digests are numbers, the first byte most significant. -/
structure TtImage where
  magic        : Nat
  format       : Nat
  stepping     : Nat
  version      : Nat
  length       : Nat
  aggCount     : Nat
  variantCount : Nat
  guardNs      : Nat
  portDigest   : Nat
  digest       : Nat
  intact       : Bool
  dir          : List DirEnt
  deriving DecidableEq, Repr

/-! ### Code images -/

/-- A signer set (R333): the Dvorhel key set or an owner-key slot. -/
inductive Signer where
  | dvorhel | owner (slot : Nat)
  deriving DecidableEq, Repr

/-- What verifying both signatures of an image or token yields under its signer set (R153, R333). -/
structure Sig where
  signer  : Signer
  ecdsaOk : Bool
  mldsaOk : Bool
  deriving DecidableEq, Repr

/-- A segment of a key profile (06, Control stores): an operand selector of Table 6-5 or the constant 127, and its
width in bits. -/
structure Seg where
  sel   : Nat
  imm   : Nat
  width : Nat
  deriving DecidableEq, Repr

/-- An edit operation (06, Control stores). -/
inductive EditOp where
  | tagPush (vid : Nat) | tagPop | labelPush (label : Nat) | labelPop | labelSwap (label : Nat)
  | macRewrite | ttlDec | addrRewrite
  deriving DecidableEq, Repr

/-- What an exception policy or a cause asks for (R142). -/
inductive ExcAction where
  | mark | trap | drop
  deriving DecidableEq, Repr

/-- A parser or action image (R133, R140, R153). `stores` says whether its store sizes are those of Table 6-1. -/
structure UcodeImage where
  isAction : Bool
  stepping : Nat
  storesOk : Bool
  sig      : Sig
  digest   : Nat
  pwords   : List (Nat × BitVec 256)
  awords   : List (Nat × BitVec 512)
  entries  : List Nat
  profiles : List (Nat × List Seg)
  edits    : List (Nat × List EditOp)
  policy   : List (Nat × ExcAction)
  deriving DecidableEq, Repr

/-- A thread's role entry (Table 14-2). -/
structure Role where
  enable     : Bool
  highPrio   : Bool
  entry      : Nat
  trapVector : Nat
  dlValid    : Bool
  dlVector   : Nat
  typeMask   : BitVec 32
  deriving DecidableEq, Repr

/-- An agent image (R290, R291, R334). -/
structure AgentImage where
  sig    : Sig
  digest : Nat
  words  : List (Nat × BitVec 256)
  roles  : List Role
  deriving DecidableEq, Repr

/-- A firmware image (R332, R400): version word, security version, signatures. -/
structure FwImage where
  sig     : Sig
  version : Nat
  svn     : Nat
  deriving DecidableEq, Repr

/-- A token for LIFECYCLE_SET or DEBUG_AUTH (R325, R335): what its signatures cover, and whether they verify. -/
structure Token where
  sig       : Sig
  challenge : Nat
  deriving DecidableEq, Repr

/-! ### Frames and records -/

/-- The SecTAG of an arriving frame (R249, R253). -/
structure SecTag where
  sci : Nat
  an  : Nat
  pn  : Nat
  deriving DecidableEq, Repr

/-- A fragment of a preemptable frame as its wire brings it (R200): the bits between the end of the fragment before it and its
first byte, its frame bytes, and whether the MAC merge sublayer of IEEE 802.3br accepts it (its delimiter and fragment count
continue the frame, its mCRC is right; log entry 113). -/
structure RxFrag where
  gap  : Nat
  len  : Nat
  ok   : Bool
  deriving DecidableEq, Repr

/-- A frame at an ingress MAC (R61). `len` is the frame length with FCS; `bytes` are its bytes before the FCS, from the
destination address, deciphered and without a SecTAG (R252). `bitOff` is the first bit's eighth of a cycle (R233).
`frags` lists the fragments of a preempted frame (R200); a frame received whole has none.
`symRuns` lists the runs of errored FEC symbols met with it (lane, length) and `codewords` the corrected-symbol count
of each codeword, 16 for an uncorrectable one (R56). -/
structure RxFrame where
  port        : Nat
  len         : Nat
  bytes       : List Byte
  preemptable : Bool
  bitOff      : Nat
  fcsErr      : Bool
  fecErr      : Bool
  truncated   : Bool
  frags       : List RxFrag
  secTag      : Option SecTag
  icvOk       : Bool
  symRuns     : List (Nat × Nat)
  codewords   : List Nat
  deriving DecidableEq, Repr

/-- A frame of EtherType 0x88B5 (R285): the secure channel it arrived on, whether it passed the checks of Table 12-3, its source
address, and its bytes after the EtherType. -/
structure InbandFrame where
  port      : Nat
  channel   : Option Nat
  checksOk  : Bool
  src       : BitVec 48
  payload   : List Byte
  deriving DecidableEq, Repr

/-- The second half of an extended record (Table 5-4). -/
structure FlowExt where
  xaddr       : BitVec 128
  xport       : Nat
  xside       : Bool
  xv6         : Bool
  pairIndex   : BitVec 32
  firstSeen   : Nat
  minLen      : Nat
  maxLen      : Nat
  tcpOr       : BitVec 8
  dscp        : Nat
  exportOrbit : Nat
  agentData   : BitVec 64
  deriving DecidableEq, Repr

/-- A flow record (Tables 5-2, 5-3); VALID is the record's presence in a store. -/
structure FlowRec where
  key         : BitVec 304
  domain      : Nat
  port        : Nat
  action      : Nat
  orient      : Bool
  paired      : Bool
  pairPending : Bool
  static      : Bool
  zone        : Nat
  wrap        : Bool
  user        : BitVec 6
  lastSeen    : Nat
  pkts        : Nat
  bytes       : Nat
  ext         : Option FlowExt
  deriving DecidableEq, Repr

/-- Next-hop entry (Table 6-7). -/
structure NextHop where
  target   : Nat
  isLag    : Bool
  dmac     : BitVec 48
  srcProf  : Nat
  vid      : Nat
  label    : Option Nat
  deriving DecidableEq, Repr

/-- Results of a cell's passage (R162). -/
inductive CellFault where
  | crc | late
  deriving DecidableEq, Repr

/-- The arrays a step acts on (Tables 4-1 and 6-7, R171). -/
inductive Arr where
  | pivot | route | rule | action | nextHop | ecmp | lag | mcast
  deriving DecidableEq, Repr

/-- Functions of a TIME_IO pin (Table 11-4). Times are in units of 2^-16 ns. -/
inductive TioFn where
  | capture (rising falling : Bool)
  | periodic (period phase width : Nat)
  | oneShot (time width : Nat)
  deriving DecidableEq, Repr

/-- Frequency sources (Table 11-1). -/
inductive FreqSrc where
  | synceA | synceB | ptp | refIn | internal
  deriving DecidableEq, Repr

/-- Port MACsec policy (Table 12-2). -/
inductive TxProtect where
  | off | integrity | confidential
  deriving DecidableEq, Repr
inductive RxValidate where
  | disabled | check | strict
  deriving DecidableEq, Repr
structure SecPolicy where
  txProtect  : TxProtect
  includeSci : Bool
  confOffset : Nat
  rxValidate : RxValidate
  replay     : Nat
  deriving DecidableEq, Repr

/-- Cipher suites (Table 12-1). -/
inductive Suite where
  | gcm128 | gcm256 | xpn128 | xpn256
  deriving DecidableEq, Repr

/-- A secure association as it is installed (R259, Table 12-6). -/
structure SaParams where
  suite  : Suite
  key    : List Byte
  ssci   : BitVec 32
  salt   : BitVec 96
  nextPn : Nat
  deriving DecidableEq, Repr

/-- Lookaside modes (Table 12-4). -/
inductive LaMode where
  | ecb | cbc | ctr | gcm | cmac
  deriving DecidableEq, Repr

/-- Address orders (Table 10-2). -/
inductive HbmOrder where
  | rowBankCol | bankRowCol | hashed
  deriving DecidableEq, Repr

/-- Objects that carry a world attribute WORLD_ASSIGN sets (Table 16-1). -/
inductive WObj where
  | thread | segment | channel | counterBlock | timeIo | laContext | hbmRegion | resRegion
  deriving DecidableEq, Repr

/-- Kinds of tablet domain (R345). -/
inductive Domain where
  | slice (n : Nat) | stack (n : Nat) | engine (n : Nat) | cartridge (n : Nat) | timetable | firmware
  deriving DecidableEq, Repr

/-- Classes of service-log record (Table 18-4). -/
inductive LogClass where
  | environment | optics | memory | use | service | security | notes
  deriving DecidableEq, Repr

/-- Requested life-cycle authority (Table 16-4): a token, the serial number repeated, or neither. -/
inductive LcAuth where
  | none | token (t : Token) | serial (s : List Byte)
  deriving DecidableEq, Repr

/-- Scopes of a debug grant (R335). -/
inductive DebugScope where
  | nonSecure | secure | both
  deriving DecidableEq, Repr

/-- PMU_CONFIG's control word for one counter (Table 18-2). -/
structure PmcSet where
  counter : Nat
  word    : BitVec 64
  deriving DecidableEq, Repr

end Sys2Proof
end

