-- ==== Sys2Proof/Syntax.lean ====
section
/-! DEFINITION. The commands of the block: one constructor for each row of the opcode table, with the operands its rule names.
Protocol commands carry the header of Table 13-1 (`Hdr`); data they read from host memory is an operand. -/

namespace Sys2Proof

/-- One command of the block. -/
inductive Instr where
  /-- R11. The module begins an orbit on the cycle its time servo places on a whole millisecond of network time, and applies every change placed at that boundary. -/
  | orbitBoundary
  /-- R13. At every headway boundary each per-headway quota is granted afresh and unused quota is lost. -/
  | headwayBoundary
  /-- R168. At the first cycle of a stage-one block each ingress slice reports its elastic VOQ counts to the signal box. -/
  | blockBoundary
  /-- R38. 50 µs before the target orbit the commit becomes irrevocable and is re-validated against present resources, code images and losses. -/
  | ttCommitIrrevocable
  /-- R33. Copies a timetable image into the staged bank and validates it. -/
  | ttLoad (h : Hdr) (img : List Byte)
  /-- R34. Schedules the staged image to become active at an orbit boundary and returns PENDING. -/
  | ttCommit (h : Hdr) (version : Nat) (target : Nat)
  /-- R36. Cancels a pending commit before its irrevocable point. -/
  | ttAbort (h : Hdr) (version : Nat)
  /-- R34. Returns active and staged versions, active variant, ALIGN_INVALID and pending target orbit. -/
  | ttStatus (h : Hdr)
  /-- R31. Returns entries of the shed table. -/
  | ttShedRead (h : Hdr) (first : Nat) (count : Nat)
  /-- R24. Returns the per-aggregate ACCEPTED, DEMOTED, REFUSED_NONCONFORMING and LATE counters. -/
  | ttAggRead (h : Hdr) (first : Nat) (count : Nat)
  /-- R61. A frame arrives at an ingress MAC and passes the front end: parse, hash, class search, meter charge, version stamp and header-slot window. -/
  | frameReceive (f : RxFrame)
  /-- R136. The action stages run and the decision resolves egress port, queue and edit descriptor at cycle 36 or 356. -/
  | forwardingDecision (fid : Nat) (faults : List Nat)
  /-- R218. Bucket data is delivered at exactly cycle 352 of its lookup, including any pending write-back. -/
  | hbmBucketReadReturn (fid : Nat) (corrected : Bool)
  /-- R218. A lookup's write-back applies its increments, LAST_SEEN and USER flags to the record as it then stands. -/
  | hbmWriteBack (fid : Nat)
  /-- R148. A frame's tail status becomes known and a bad frame is dropped, discarded or tail-marked. -/
  | frameTailStatus (fid : Nat)
  /-- R164. A cell is injected into the fabric in a reserved or granted slot of its slice pair. -/
  | cellInject (slice : Nat) (lane : Nat)
  /-- R161. The egress resequencer releases a cell 96 cycles after its injection. -/
  | cellRelease (slice : Nat) (fault : Option CellFault)
  /-- R196. A port's egress scheduler selects an express, resumed or elastic frame in a cycle in which it may select. -/
  | egressSelect (port : Nat)
  /-- R186. A siding read returns its cell to the pool 288 cycles after issue and the prefetcher appends it on die. -/
  | sidingReadReturn (slice : Nat) (corrected : Bool)
  /-- R207. At each sample period every elastic queue adds one sample to its depth and delay histograms. -/
  | histSample (slice : Nat)
  /-- R88. A reserved update slot at cycle 0, 64, 128 or 192 of a headway runs the next repair, queued step or replenishment. -/
  | updateSlot (slice : Nat)
  /-- R93. The scrub port finds a row in error and repairs it from the shadow copy. -/
  | arrayRepaired (slice : Nat) (arr : Arr) (row : Nat) (uncorrectable : Bool)
  /-- R156. The control-store scrub corrects a word or rewrites an uncorrectable word from the verified copy. -/
  | ucodeScrubRewrite (slice : Nat) (word : Nat) (uncorrectable : Bool)
  /-- R121. A learn or pair request reaches its home slice 64 cycles after it was sent. -/
  | learnRequestArrive (slice : Nat)
  /-- R123. A pair confirmation or refusal reaches the first home slice, which completes or removes its half. -/
  | pairAnswer (slice : Nat)
  /-- R127. A pair age reaches the partner's home slice, which removes both halves or replies that the pair is live. -/
  | pairAge (slice : Nat)
  /-- R128. A pair delete reaches the partner's home slice and removes the other half, or is discarded if the key does not match. -/
  | pairDelete (slice : Nat)
  /-- R125. A home agent's sweep removes records idle beyond their zone limit once per sweep period. -/
  | ageingSweep (slice : Nat)
  /-- R222. A row's activation count reaches the threshold and a targeted refresh of its neighbours is queued. -/
  | rowActivationTrigger (channel : Nat) (bank : Nat) (row : Nat)
  /-- R225. A channel meets an uncorrectable data error or parity error, freezes and records its diagnosis. -/
  | hbmFreeze (channel : Nat) (cause : Nat) (cmd : Nat) (window : Nat) (beat : Nat) (address : Nat) (syndrome : Nat)
  /-- R402. A port's link goes down for any cause and the event and counter are raised. -/
  | linkDown (port : Nat)
  /-- R402. A port's link comes up after training, retraining or the far end's return. -/
  | linkUp (port : Nat)
  /-- R55. The engine self-test finds a lane failed; the lane is lost and its port goes down or halves. -/
  | laneLost (lane : Nat)
  /-- R51. A cartridge fails or is pulled without handover and its partner takes over the light. -/
  | cartFault (cart : Nat) (absent : Bool)
  /-- R408. The 802.3br verify process of a port succeeds or fails. -/
  | preemptVerifyDone (port : Nat) (ok : Bool)
  /-- R230. The selected frequency source fails and the next enabled healthy source takes over. -/
  | timeSrcChange (src : FreqSrc) (healthy : Bool)
  /-- R391. REF_IN leaves its frequency range for 1 ms or shows no edge for 1 µs and is declared unhealthy. -/
  | refInUnhealthy
  /-- R243. The loss timeout expires with no accepted sample, or every PTP and SyncE source fails, and the module enters HOLDOVER. -/
  | holdoverEntry
  /-- R240. 50 µs before the step boundary a pending step can no longer be aborted. -/
  | timeStepIrrevocable
  /-- R245. A PERIODIC pin or PPS_OUT drives an edge where the time counter meets its period and phase. -/
  | timeIoPeriodicEdge (pin : Nat)
  /-- R245. A ONE_SHOT pin fires its pulse at its time, or in the first cycle after a step that skipped it. -/
  | timeIoOneShot (pin : Nat)
  /-- R246. An edge on a capture pin or PPS_IN is timestamped into the capture queue or dropped when it is full. -/
  | timeIoCapture (pin : Nat) (rising : Bool) (eighth : Nat)
  /-- R400. Returns the 64-byte identity record. -/
  | moduleInfo (h : Hdr)
  /-- R288. Returns the bytes supplied. -/
  | qcpEcho (h : Hdr) (data : List Byte)
  /-- R281. Cancels the earliest matching command on the caller's ring if it has not started. -/
  | qcpCancel (h : Hdr) (seq : Nat) (tag : Nat)
  /-- R284. Binds a port as the in-band management port. -/
  | qcpInbandSet (h : Hdr) (port : Nat) (world : World) (channel : Nat) (queue : Nat) (enable : Bool)
  /-- R288. Returns the caller's world's QCP statistics. -/
  | qcpStats (h : Hdr) (clear : Bool)
  /-- R269. The module fetches a command whose slots lie before the tail when fewer than 4,096 are in execution. -/
  | commandFetch (c : FetchedSlot)
  /-- R280. TIMEOUT_US expires before the commit point and the command is cancelled with TIMEOUT. -/
  | commandTimeout (ring : Ring) (seq : Nat) (tag : Nat)
  /-- R279. A queued reply is written when the reply ring has room for all of its slots. -/
  | replyWrite (ring : Ring)
  /-- R285. A frame of EtherType 0x88B5 on the bound port is executed as a command or dropped. -/
  | inbandCommand (f : InbandFrame)
  /-- R344. Returns the mode status word. -/
  | modeStatus (h : Hdr)
  /-- R338. Requests a transition to CALIBRATE, SERVICE, DRAIN or HALT. -/
  | modeSet (h : Hdr) (target : Mode) (holdMs : Nat)
  /-- R346. Lists the holders of each tablet domain. -/
  | tabletStatus (h : Hdr) (first : Domain) (count : Nat)
  /-- R338. Resets the module through SANITIZE. -/
  | moduleReset (h : Hdr)
  /-- R339. Every lit lane has been calibrated and MODE_SET CALIBRATE completes with OK. -/
  | calibrationDone (failed : List Nat)
  /-- R343. At the first orbit boundary after HOLD_MS the ingress closes and queued frames drain. -/
  | drainEmptying
  /-- R343. When every queue is empty or the in-flight time has passed, frames left are discarded, lanes go dark and DRAIN replies OK. -/
  | drainDark
  /-- R343. The key store and volatile state are wiped and POWER_OFF begins. -/
  | drainWipeDone
  /-- R375. The internal rails fall below 5 V, clear-to-remove lights and the mode becomes STANDBY. -/
  | powerOffDone
  /-- R342. A fault stops a slice, which darkens its lanes and becomes a lost resource. -/
  | sliceHalt (slice : Nat)
  /-- R342. Loss of the core clock or a stopped signal box puts the module in HALT. -/
  | moduleFaultHalt
  /-- R330. On-die zeroing completes and the module enters BOOT, or stays in SANITIZE on a read-back failure. -/
  | sanitizeDone (readBackOk : Bool)
  /-- R330. HBM zeroing and read-back complete and the module may leave BOOT. -/
  | hbmZeroingDone (failed : List Nat)
  /-- R45. Applies or stages a complete port map. -/
  | portMapSet (h : Hdr) (map : List MapEnt)
  /-- R45. Returns the active or staged port map. -/
  | portMapGet (h : Hdr) (staged : Bool)
  /-- R46. Sets a port up or down and sets HALVE. -/
  | portAdmin (h : Hdr) (port : Nat) (up : Bool) (halve : Bool)
  /-- R402. Returns link state, last transition cause, width and lost lanes of ports. -/
  | portStatus (h : Hdr) (first : Nat) (count : Nat)
  /-- R60. Returns and optionally clears a port's counters. -/
  | portCounters (h : Hdr) (port : Nat) (clear : Bool)
  /-- R56. Returns adaptation state, BER estimate and error histograms of lanes. -/
  | laneStatus (h : Hdr) (first : Nat) (count : Nat)
  /-- R54. Recalibrates one lane in full, taking its port down. -/
  | laneRecal (h : Hdr) (lane : Nat) (force : Bool)
  /-- R54. The recalibrated port is back up and LANE_RECAL completes with OK. -/
  | laneRecalDone (lane : Nat)
  /-- R57. Sets a port's FEC-degrade activate and clear thresholds and window. -/
  | fecThreshSet (h : Hdr) (port : Nat) (activate : Nat) (clearAt : Nat) (window : Nat)
  /-- R50. Takes both tablets of a pair and ramps the cartridge to zero and its partner to full. -/
  | cartHandover (h : Hdr) (cart : Nat)
  /-- R50. The 400 ms ramp ends, the bay indicator lights blue and CART_HANDOVER completes. -/
  | cartHandoverDone (cart : Nat)
  /-- R50. Self-tests a cartridge and ramps the pair back to equal shares. -/
  | cartRestore (h : Hdr) (cart : Nat) (selfTestOk : Bool)
  /-- R51. The restore ramp ends or the self-test fails and CART_RESTORE completes, releasing the tablets. -/
  | cartRestoreDone (cart : Nat) (ok : Bool)
  /-- R50. Returns presence, share, bias, temperature and fault of each cartridge. -/
  | cartStatus (h : Hdr)
  /-- R70. Sets INNER hashing for an ingress port from the next headway boundary. -/
  | portParseSet (h : Hdr) (port : Nat) (inner : Bool)
  /-- R65. Returns a port's parse-outcome counters. -/
  | parseCounters (h : Hdr) (port : Nat) (clear : Bool)
  /-- R71. Sets the hash salt in BOOT before the first commit. -/
  | hashSaltSet (h : Hdr) (salt : W64)
  /-- R71. Returns the hash of a supplied 40-byte block. -/
  | hashProbe (h : Hdr) (block : List Byte)
  /-- R80. Opens the next version and copies the current plane into it. -/
  | ruleVersionOpen (h : Hdr)
  /-- R82. Makes the open version current at a headway boundary once its writes are done. -/
  | ruleVersionCommit (h : Hdr) (v : Nat)
  /-- R80. Discards the open version and clears its plane. -/
  | ruleVersionDiscard (h : Hdr) (v : Nat)
  /-- R80. The discarded plane is clear on every array and the version becomes FREE. -/
  | ruleVersionDiscardDone
  /-- R83. Retires a retained version whose in-flight time has passed and clears its plane. -/
  | ruleVersionRetire (h : Hdr) (u : Nat)
  /-- R84. Returns current, open and retained versions and the in-flight time. -/
  | ruleVersionStatus (h : Hdr)
  /-- R107. Adds a rule entry to the open version in the slices named. -/
  | ruleAdd (h : Hdr) (v : Nat) (slices : W32) (part : Nat) (idx : Nat) (wide : Bool) (prio : Nat) (action : Nat) (value : BitVec 960) (mask : BitVec 960)
  /-- R107. Removes a rule entry from the open version. -/
  | ruleRemove (h : Hdr) (v : Nat) (slices : W32) (idx : Nat)
  /-- R107. Adds a new rule entry and removes the old one in the open version. -/
  | ruleChange (h : Hdr) (v : Nat) (slices : W32) (part : Nat) (idx : Nat) (old : Nat) (wide : Bool) (prio : Nat) (action : Nat) (value : BitVec 960) (mask : BitVec 960)
  /-- R105. Queues a masked search of a live version and returns the result word. -/
  | ruleSearch (h : Hdr) (v : Nat) (slice : Nat) (part : Nat) (wide : Bool) (key : BitVec 960)
  /-- R106. Returns matching entries of a version in ascending index order from a cursor. -/
  | ruleIter (h : Hdr) (v : Nat) (slice : Nat) (part : Nat) (wide : Bool) (key : BitVec 960) (smask : BitVec 960) (cursor : Nat) (count : Nat)
  /-- R107. Returns the value, mask and control of a rule row. -/
  | ruleRead (h : Hdr) (slice : Nat) (idx : Nat)
  /-- R104. Sets the rule-array partitions and their worlds. -/
  | rulePartitionSet (h : Hdr) (parts : List (Nat × World))
  /-- R107. Returns a slice's step-queue and array counters. -/
  | arrayStatus (h : Hdr) (slice : Nat)
  /-- R91. Enables or disables slot stealing for slices. -/
  | arrayStealSet (h : Hdr) (slices : W32) (enable : Bool)
  /-- R409. Adds an action table entry in the open version. -/
  | actionAdd (h : Hdr) (v : Nat) (slices : W32) (idx : Nat) (data : BitVec 48)
  /-- R409. Removes an action table entry from the open version. -/
  | actionRemove (h : Hdr) (v : Nat) (slices : W32) (idx : Nat)
  /-- R409. Adds a next-hop entry in the open version. -/
  | nexthopAdd (h : Hdr) (v : Nat) (slices : W32) (idx : Nat) (nh : NextHop)
  /-- R409. Removes a next-hop entry from the open version. -/
  | nexthopRemove (h : Hdr) (v : Nat) (slices : W32) (idx : Nat)
  /-- R409. Adds an ECMP group in the open version. -/
  | ecmpAdd (h : Hdr) (v : Nat) (slices : W32) (group : Nat) (members : List Nat)
  /-- R409. Removes an ECMP group from the open version. -/
  | ecmpRemove (h : Hdr) (v : Nat) (slices : W32) (group : Nat)
  /-- R409. Adds a LAG to every slice in the open version. -/
  | lagAdd (h : Hdr) (v : Nat) (lag : Nat) (ports : List Nat)
  /-- R409. Removes a LAG from every slice in the open version. -/
  | lagRemove (h : Hdr) (v : Nat) (lag : Nat)
  /-- R143. Returns a slice's exception counters, TRAP_DISCARD and UCODE_CORRECTED. -/
  | excCounters (h : Hdr) (slice : Nat) (clear : Bool)
  /-- R171. Adds a multicast group with a new replication list in the open version. -/
  | mcastAdd (h : Hdr) (v : Nat) (group : Nat) (dests : List (Nat × Nat))
  /-- R178. Removes a multicast group from the open version. -/
  | mcastRemove (h : Hdr) (v : Nat) (group : Nat)
  /-- R177. Returns a slice's fabric counters. -/
  | fabricCounters (h : Hdr) (slice : Nat) (clear : Bool)
  /-- R178. Returns a slice's reserved sub-boxes in a block and placed blocks in use. -/
  | fabricStatus (h : Hdr) (slice : Nat) (block : Nat)
  /-- R95. Adds a route to the open version, inserting pivots and covers as needed. -/
  | routeAdd (h : Hdr) (v : Nat) (table : Nat) (v6 : Bool) (pfx : BitVec 128) (len : Nat) (result : BitVec 24)
  /-- R95. Removes a route from the open version and resets the covers it held. -/
  | routeRemove (h : Hdr) (v : Nat) (table : Nat) (v6 : Bool) (pfx : BitVec 128) (len : Nat)
  /-- R107. Changes a route's result in the open version. -/
  | routeChange (h : Hdr) (v : Nat) (table : Nat) (v6 : Bool) (pfx : BitVec 128) (len : Nat) (result : BitVec 24)
  /-- R406. Queues a two-step route lookup of a live version on the lowest live slice. -/
  | routeLookup (h : Hdr) (v : Nat) (table : Nat) (v6 : Bool) (addr : BitVec 128)
  /-- R101. Returns route memory use, H and ROUTE_FULL_REFUSED. -/
  | routeStatus (h : Hdr)
  /-- R97. Sets the pivot hole spacing H. -/
  | routeHoleSet (h : Hdr) (hole : Nat)
  /-- R129. Returns the flow index and record for a key. -/
  | flowSearch (h : Hdr) (domain : Nat) (key : BitVec 304)
  /-- R129. Walks flow records matching a value and mask from a cursor. -/
  | flowNext (h : Hdr) (cursor : BitVec 32) (value : BitVec 356) (mask : BitVec 356) (count : Nat)
  /-- R128. Removes on every home slice the non-STATIC records learned on a port. -/
  | flowFlushPort (h : Hdr) (port : Nat) (domains : BitVec 256)
  /-- R128. Every slice has finished the flush and the command completes with the records removed. -/
  | flowFlushDone (port : Nat)
  /-- R129. Places a record through the home agent. -/
  | flowInsert (h : Hdr) (r : FlowRec) (resident : Bool)
  /-- R129. Deletes a record, and both halves of a pair. -/
  | flowDelete (h : Hdr) (index : BitVec 32) (domain : Nat) (key : BitVec 304)
  /-- R125. Sets a zone's idle limit. -/
  | flowZoneSet (h : Hdr) (zone : Nat) (limit : Nat)
  /-- R125. Sets the ageing sweep period. -/
  | flowSweepSet (h : Hdr) (period : Nat)
  /-- R120. Sets a port's learn limit per orbit. -/
  | flowLearnLimit (h : Hdr) (port : Nat) (limit : Nat)
  /-- R129. Returns B, stash size, records by store and highest stash use. -/
  | flowStatus (h : Hdr) (slice : Nat)
  /-- R130. Returns a slice's flow counters. -/
  | flowCounters (h : Hdr) (slice : Nat) (clear : Bool)
  /-- R153. Verifies a parser or action image and writes it to the shadow banks. -/
  | ucodeLoad (h : Hdr) (action : Bool) (slices : W32) (img : UcodeImage)
  /-- R153. Every named shadow bank is written and UCODE_LOAD completes. -/
  | ucodeLoadDone
  /-- R154. Makes named shadow banks active at the next headway boundary. -/
  | ucodeSwap (h : Hdr) (parser : Bool) (action : Bool) (slices : W32)
  /-- R409. Returns digests of active and shadow images and any held old bank. -/
  | ucodeStatus (h : Hdr) (slice : Nat)
  /-- R206. Writes an elastic queue's meter parameters, effective at the next headway boundary. -/
  | queueShaperSet (h : Hdr) (port : Nat) (queue : Nat) (word : BitVec 64)
  /-- R206. Returns a queue's meter word, credit and any waiting word. -/
  | queueShaperGet (h : Hdr) (port : Nat) (queue : Nat)
  /-- R197. Sets an elastic queue's DRR weight from the next headway boundary. -/
  | queueWeightSet (h : Hdr) (port : Nat) (queue : Nat) (weight : Nat)
  /-- R408. Enables or disables preemption and verify on a port. -/
  | preemptSet (h : Hdr) (port : Nat) (enable : Bool) (verify : Bool)
  /-- R408. Returns each port's preemption and verify state. -/
  | preemptStatus (h : Hdr) (first : Nat) (count : Nat)
  /-- R207. Sets the histogram sample period of slices. -/
  | histConfig (h : Hdr) (slices : W32) (n : Nat)
  /-- R210. Returns and optionally clears a queue's histograms. -/
  | histRead (h : Hdr) (port : Nat) (queue : Nat) (clear : Bool)
  /-- R209. Returns and clears the apogee words of Q0–Q3 of a port. -/
  | apogeeRead (h : Hdr) (port : Nat)
  /-- R211. Returns a port's queue and preemption counters. -/
  | queueCounters (h : Hdr) (port : Nat) (clear : Bool)
  /-- R193. Returns a slice's carves, free cells and siding state. -/
  | bufStatus (h : Hdr) (slice : Nat) (port : Nat)
  /-- R193. Returns a slice's or port's buffer counters. -/
  | bufCounters (h : Hdr) (isPort : Bool) (n : Nat) (clear : Bool)
  /-- R229. Returns channel states, region layout and channel counters. -/
  | hbmStatus (h : Hdr) (first : Nat) (count : Nat)
  /-- R216. Sets the address order of regions and zeroes them again. -/
  | hbmOrderSet (h : Hdr) (regions : BitVec 256) (order : HbmOrder)
  /-- R216. The regions are rezeroed under the new order and the command completes. -/
  | hbmOrderSetDone
  /-- R229. Returns a frozen channel's diagnosis record. -/
  | hbmFreezeRead (h : Hdr) (channel : Nat)
  /-- R228. Retrains a frozen channel's interface. -/
  | retrainAndResume (h : Hdr) (channel : Nat)
  /-- R228. The retrain succeeds or fails and the channel rejoins the calendar or stays frozen. -/
  | retrainDone (channel : Nat) (ok : Bool)
  /-- R228. Retires a frozen channel permanently. -/
  | retire (h : Hdr) (channel : Nat)
  /-- R224. Returns a channel's ECC correction counters. -/
  | hbmEccRead (h : Hdr) (channel : Nat) (first : Nat) (count : Nat)
  /-- R222. Sets the row-disturbance activation threshold. -/
  | hbmRdThreshSet (h : Hdr) (threshold : Nat)
  /-- R247. Returns time source, offset, alignment, persistent offset and pending step. -/
  | timeStatus (h : Hdr)
  /-- R230. Selects the enabled frequency sources and SyncE ports. -/
  | timeSrcSet (h : Hdr) (srcs : List FreqSrc) (portA : Nat) (portB : Nat)
  /-- R239. Submits an offset sample that the servo accepts or refuses as a jump. -/
  | timeSample (h : Hdr) (offset : Int)
  /-- R239. Sets the jump threshold. -/
  | timeJumpSet (h : Hdr) (threshold : Nat)
  /-- R240. Schedules a time step at an orbit boundary. -/
  | timeAcceptStep (h : Hdr) (delta : Option Int) (target : Nat)
  /-- R240. Cancels a pending step before its irrevocable point. -/
  | timeStepAbort (h : Hdr)
  /-- R243. Sets the loss timeout and holdover drift models. -/
  | timeHoldoverSet (h : Hdr) (lossMs : Nat) (fRef : Nat) (aRef : Nat) (fInt : Nat) (aInt : Nat)
  /-- R236. Places a frame in Q0 of a port for transmission with its departure time. -/
  | ptpTx (h : Hdr) (port : Nat) (frame : List Byte) (oneStep : Bool) (tsOffset : Nat) (udp6Adj : Bool)
  /-- R246. Claims and configures a TIME_IO pin. -/
  | timeIoSet (h : Hdr) (pin : Nat) (fn : TioFn)
  /-- R246. Frees a TIME_IO pin held by the caller. -/
  | timeIoRelease (h : Hdr) (pin : Nat)
  /-- R246. Returns the queued captures of a capture pin or PPS_IN. -/
  | timeIoRead (h : Hdr) (pin : Nat)
  /-- R234. Returns the time counter, orbit number and headway index latched in one cycle. -/
  | timeRead (h : Hdr)
  /-- R250. Sets a port's MACsec policy. -/
  | macsecPortSet (h : Hdr) (port : Nat) (policy : SecPolicy)
  /-- R249. Adds a transmit or receive secure channel. -/
  | macsecScAdd (h : Hdr) (port : Nat) (tx : Bool) (sci : Nat)
  /-- R265. Removes a secure channel. -/
  | macsecScRemove (h : Hdr) (channel : Nat)
  /-- R259. Installs an SA in a free AN of a channel. -/
  | macsecSaInstall (h : Hdr) (channel : Nat) (an : Nat) (sa : SaParams)
  /-- R259. Makes an installed SA the encoding SA from the next headway boundary. -/
  | macsecSaSelect (h : Hdr) (channel : Nat) (an : Nat)
  /-- R259. Removes an SA that is not the encoding SA. -/
  | macsecSaRemove (h : Hdr) (channel : Nat) (an : Nat)
  /-- R258. Sets a transmit channel's soft and hard PN thresholds. -/
  | macsecPnLimitsSet (h : Hdr) (channel : Nat) (soft : Nat) (hard : Nat)
  /-- R265. Returns a port's MACsec policy, channels and SA states. -/
  | macsecStatus (h : Hdr) (port : Nat)
  /-- R265. Returns a port's MACsec counters. -/
  | macsecCounters (h : Hdr) (port : Nat) (clear : Bool)
  /-- R251. Sends an EAPOL frame on the uncontrolled port. -/
  | macsecUnctrlTx (h : Hdr) (port : Nat) (frame : List Byte)
  /-- R260. Claims a lookaside context and sets its mode, key and IV. -/
  | laOpen (h : Hdr) (ctx : Nat) (mode : LaMode) (decrypt : Bool) (key : List Byte) (iv : BitVec 128)
  /-- R262. Processes data or AAD through a context and returns whole blocks. -/
  | laUpdate (h : Hdr) (ctx : Nat) (aad : Bool) (data : List Byte)
  /-- R261. Finishes a context's operation with padding, tag or MAC. -/
  | laFinal (h : Hdr) (ctx : Nat) (tag : BitVec 128)
  /-- R263. Returns a context's state blob, wrapped for the secure world. -/
  | laSave (h : Hdr) (ctx : Nat)
  /-- R263. Loads a state blob into a claimed context. -/
  | laRestore (h : Hdr) (ctx : Nat) (blob : List Byte)
  /-- R260. Frees a lookaside context held by the caller. -/
  | laClose (h : Hdr) (ctx : Nat)
  /-- R320. Assigns world attributes to objects in BOOT before the lock. -/
  | worldAssign (h : Hdr) (kind : WObj) (first : Nat) (count : Nat) (world : World)
  /-- R321. Freezes every world attribute until reset. -/
  | worldLock (h : Hdr)
  /-- R336. Returns worlds of objects, the locked flag and violation counts. -/
  | worldStatus (h : Hdr) (kind : WObj) (first : Nat) (count : Nat)
  /-- R327. Writes an entry of the key store. -/
  | keyStoreWrite (h : Hdr) (entry : Nat) (data : List Byte)
  /-- R327. Zeroes the key store. -/
  | keyStoreZero (h : Hdr)
  /-- R325. Requests a life-cycle transition, which fuses the new state and resets the module. -/
  | lifecycleSet (h : Hdr) (target : Lifecycle) (auth : LcAuth)
  /-- R333. Fuses an owner key into a free slot. -/
  | ownerKeyEnroll (h : Hdr) (ecdsa : Nat) (mldsa : Nat)
  /-- R333. Burns an owner-key slot's revoke fuse. -/
  | ownerKeyRevoke (h : Hdr) (slot : Nat)
  /-- R325. Returns a new 32-byte challenge for tokens. -/
  | authChallenge (h : Hdr)
  /-- R335. Grants debug authorisation for a scope on a valid token. -/
  | debugAuth (h : Hdr) (scope : DebugScope) (token : Token)
  /-- R335. Revokes a debug grant. -/
  | debugRevoke (h : Hdr) (scope : DebugScope)
  /-- R328. Signs a nonce with the running measurements under the identity key. -/
  | moduleAttest (h : Hdr) (nonce : List Byte)
  /-- R336. Writes a firmware image to the idle slot. -/
  | fwImageWrite (h : Hdr) (slotB : Bool) (img : FwImage)
  /-- R332. Raises the fused anti-rollback counter to the running image's security version. -/
  | fwImageCommitSvn (h : Hdr)
  /-- R334. Verifies an agent image and writes it to the staging bank of named agents. -/
  | agentImageLoad (h : Hdr) (slices : W32) (img : AgentImage)
  /-- R348. Restarts the service processor into the idle firmware slot. -/
  | fwSwitch (h : Hdr) (slotB : Bool)
  /-- R348. The new firmware replies OK, or the ROM restores the previous image and the command completes with IMAGE_INCOMPATIBLE. -/
  | fwSwitchDone (selfCheckOk : Bool)
  /-- R311. Returns an agent's thread and task states. -/
  | agentStatus (h : Hdr) (slice : Nat)
  /-- R310. Resets an agent into its active image. -/
  | agentReset (h : Hdr) (slice : Nat)
  /-- R310. The enabled threads start at ENTRY and AGENT_RESET completes. -/
  | agentResetDone (slice : Nat)
  /-- R312. Returns an agent's counters. -/
  | agentCounters (h : Hdr) (slice : Nat) (clear : Bool)
  /-- R311. Creates an IDLE task descriptor. -/
  | taskCreate (h : Hdr) (slice : Nat) (type : Nat) (prio : Nat) (autoFree : Bool) (args : List W64)
  /-- R305. Appends an IDLE task to the ready list of its priority. -/
  | taskReady (h : Hdr) (slice : Nat) (task : Nat)
  /-- R307. Cancels a ready or prefetched task. -/
  | taskCancel (h : Hdr) (slice : Nat) (task : Nat)
  /-- R311. Returns a task descriptor. -/
  | taskRead (h : Hdr) (slice : Nat) (task : Nat)
  /-- R311. Frees an IDLE task descriptor. -/
  | taskFree (h : Hdr) (slice : Nat) (task : Nat)
  /-- R308. Returns an agent's dispatch trace. -/
  | traceRead (h : Hdr) (slice : Nat)
  /-- R309. Enables or disables streaming of an agent's trace to a host ring. -/
  | traceStream (h : Hdr) (slice : Nat) (addr : Nat) (entries : Nat) (enable : Bool)
  /-- R302. Stops an agent thread after its current word. -/
  | dbgHalt (h : Hdr) (slice : Nat) (thread : Nat)
  /-- R311. Resumes a debug-halted thread. -/
  | dbgResume (h : Hdr) (slice : Nat) (thread : Nat)
  /-- R311. Executes one word of a debug-halted thread. -/
  | dbgStep (h : Hdr) (slice : Nat) (thread : Nat)
  /-- R311. Returns a thread's registers, timer, save areas and staged message. -/
  | dbgRead (h : Hdr) (slice : Nat) (thread : Nat)
  /-- R311. Writes a debug-halted thread's PC, FLAGS and registers. -/
  | dbgWrite (h : Hdr) (slice : Nat) (thread : Nat) (pc : Nat) (flags : BitVec 16) (xs : List W64)
  /-- R302. Discards a halted thread's staged message and releases the channel. -/
  | abortMessage (h : Hdr) (slice : Nat) (thread : Nat)
  /-- R293. An agent NOP microword issues. -/
  | agentNop (slice : Nat)
  /-- R293. An agent ALU microword issues. -/
  | agentAlu (slice : Nat)
  /-- R293. An agent MEM microword reads or writes data memory, resident rows or the occupancy map. -/
  | agentMem (slice : Nat)
  /-- R300. An agent SEND stages or commits a message word on a channel, or stalls. -/
  | agentSend (slice : Nat)
  /-- R301. An agent RECV copies the oldest committed message into registers, or stalls. -/
  | agentRecv (slice : Nat)
  /-- R296. An agent WAIT begins waiting on a condition with a bound. -/
  | agentWait (slice : Nat)
  /-- R296. A wait or stall ends on its condition or the timer, or reaches its bound and takes the DEADLINE trap. -/
  | agentWaitEnd (slice : Nat) (thread : Nat)
  /-- R295. An agent TIMER word arms or disarms the thread's compare. -/
  | agentTimer (slice : Nat)
  /-- R295. The agent cycle counter meets a thread's compare and T is set. -/
  | agentTimerFire (slice : Nat) (thread : Nat)
  /-- R306. TASK TAKE moves the slot's task to RUNNING or stalls. -/
  | agentTaskTake (slice : Nat)
  /-- R306. TASK DONE returns the running task to IDLE or FREE. -/
  | agentTaskDone (slice : Nat)
  /-- R305. Microcode TASK READY makes a task ready. -/
  | agentTaskReady (slice : Nat)
  /-- R307. Microcode TASK CANCEL cancels a task. -/
  | agentTaskCancel (slice : Nat)
  /-- R305. At the end of a cycle the dispatcher prefetches a ready task into each empty thread slot. -/
  | taskPrefetch (slice : Nat)
  /-- R298. A TRAP word or a trap cause saves the thread's state and enters its trap routine, or halts the agent at depth 3. -/
  | agentTrap (slice : Nat)
  /-- R299. RESUME restores the saved state and lowers the trap depth. -/
  | agentResume (slice : Nat)
  /-- R293. An agent HBM word places a request in the maintenance window. -/
  | agentHbm (slice : Nat)
  /-- R293. An agent RING word reads the learn ring or writes the export ring, or stalls. -/
  | agentRing (slice : Nat)
  /-- R293. An agent FLAG word sets or clears an agent flag. -/
  | agentFlag (slice : Nat)
  /-- R292. An agent HALT word stops its thread. -/
  | agentHaltWord (slice : Nat)
  /-- R303. After 16 deadlocked cycles T0 is trapped with DEADLOCK or the agent halts. -/
  | agentDeadlock (slice : Nat)
  /-- R294. The agent control-store scrub corrects a word or rewrites an uncorrectable one. -/
  | agentUcodeScrub (slice : Nat) (word : Nat) (uncorrectable : Bool)
  /-- R309. A dispatch trace entry is copied to the host trace ring or dropped when it is full. -/
  | traceStreamEntry (slice : Nat)
  /-- R355. Writes counter control words and optionally zeroes the counters. -/
  | pmuConfig (h : Hdr) (block : Nat) (words : List PmcSet) (zero : Bool)
  /-- R363. Returns counters or the snapshot set, optionally clearing them. -/
  | pmuRead (h : Hdr) (blocks : BitVec 46) (snapshot : Bool) (clear : Bool)
  /-- R356. Latches CYCLE and every PMC of named blocks at the next headway boundary. -/
  | pmuSnapshot (h : Hdr) (blocks : BitVec 46)
  /-- R358. Enables or disables the user counter page. -/
  | pmuUserSet (h : Hdr) (enable : Bool)
  /-- R363. Returns service-log space, record counts and wear. -/
  | logStatus (h : Hdr)
  /-- R363. Returns service-log records of a class. -/
  | logRead (h : Hdr) (cls : LogClass) (first : Nat) (count : Nat)
  /-- R362. Adds a note of 1–32 bytes to the service log. -/
  | logAnnotate (h : Hdr) (note : List Byte)
  /-- R360. On the hour of network time the summary classes are committed to flash. -/
  | logHourlyCommit
  /-- R316. A read of EVC_CLAIM claims the highest eligible source and pushes its priority. -/
  | evcClaim (sp : Bool)
  /-- R317. A write to EVC_EOI pops the target's priority stack. -/
  | evcEoi (sp : Bool)
  /-- R315. A write to EVC_PENDING sets or clears edge pending bits within the writer's allowed bits. -/
  | evcPendingWrite (sp : Bool) (n : Nat) (value : W32)
  /-- R316. The host target's request line rises or stays asserted at an EOI and an MSI-X message is sent. -/
  | msixMessage
  /-- R386. A read of TIME_LO latches the counter, orbit number and headway position for the function. -/
  | timeLoRead (w : World)
  /-- R384. A host write of the command ring's tail index. -/
  | commandDoorbell (w : World) (tail : Nat)
  /-- R384. A host write of a reply, trap or time ring's head, accepted only if it does not pass the producer. -/
  | ringHeadWrite (w : World) (kind : RingKind) (head : Nat)
  /-- R383. Setting ENABLE starts a ring or leaves it disabled with CFG_ERR for an invalid size. -/
  | ringEnable (w : World) (kind : RingKind)
  /-- R267. Clearing ENABLE stops fetching and resets the indices once the ring is IDLE. -/
  | ringDisable (w : World) (kind : RingKind)
  /-- R267. A write of a ring's base or size, ignored with CFG_ERR unless the ring is disabled and IDLE. -/
  | ringConfigWrite (w : World) (kind : RingKind) (base : Nat) (log2Size : Nat)
  /-- R385. A host write of a trace stream's head index. -/
  | traceHeadWrite (w : World) (slice : Nat) (head : Nat)
  /-- R381. A read of BAR_ACCESS_ERR returns and clears the count. -/
  | barAccessErrRead (w : World)
  /-- R381. A BAR0 access of wrong size or alignment reads 0, has no effect and is counted. -/
  | barAccessFault (w : World)
  /-- R9. A write to a register without a row of its own takes effect at the end of its cycle. -/
  | registerWrite (w : World) (offset : Nat) (value : W32)
  /-- R366. PERST# low clears ENABLE on every ring and discards replies and notification entries. -/
  | perst
  /-- R372. STBY_3V3 makes contact and the management controller starts. -/
  | stbyContact
  /-- R369. The management controller answers on the bus within 200 ms of standby contact. -/
  | mmcReady
  /-- R372. PRSNT_L goes low as the module is fully seated. -/
  | moduleSeated
  /-- R372. PWR_EN is acted on and soft-start begins, unless coolant is out of range. -/
  | pwrEnRise
  /-- R372. The main rails reach regulation, PWR_GOOD rises and SANITIZE and PCIe training begin. -/
  | pwrGood
  /-- R373. The rails are not in regulation 20 ms after soft-start and POWER_FAULT is latched. -/
  | softStartFail
  /-- R368. PWR_EN lowered outside STANDBY before DRAIN's wipe is treated as loss of main power. -/
  | pwrEnFall
  /-- R365. A falling edge of MOD_RESET_L resets the module through SANITIZE. -/
  | modReset
  /-- R331. PRSNT_L de-asserts or main power is lost before DRAIN's wipe and the module zeroes its keys from hold-up energy. -/
  | surpriseRemoval (prsnt : Bool)
  /-- R331. Main power returns during hold-up and the module resets through SANITIZE. -/
  | mainPowerReturn
  /-- R368. VMAIN_54V falls to 40–48 V and INPUT_LOW is latched. -/
  | inputLow
  /-- R368. Input above 60 V isolates the main input within 10 µs and counts as loss of main power. -/
  | powerFault
  /-- R368. STBY_3V3 below 3.0 V with main power on is treated as loss of main power. -/
  | stbyLow
  /-- R374. Opening the ejector latch asserts EJECT_L and ATTN_L. -/
  | ejectLatchOpen
  /-- R374. Closing the ejector latch clears EJECT. -/
  | ejectLatchClose
  /-- R379. Coolant outside its limits for 1 s latches COOLANT_WARN. -/
  | coolantWarn
  /-- R379. Main power is refused for out-of-range coolant and retried once coolant is back for 1 s. -/
  | coolantFault
  /-- R379. The coupler-cavity leak sensor is wet and LEAK is latched. -/
  | leak
  /-- R379. A junction reaches 105 °C and THERMAL_WARN is latched. -/
  | thermalWarn
  /-- R379. A junction reaches 115 °C and the main input is isolated. -/
  | thermalTrip
  /-- R370. Returns the management controller status word. -/
  | mmcStatusRead
  /-- R370. Clears latched alarms of the status word with ones. -/
  | mmcStatusWrite (value : W32)
  /-- R371. Returns ordering code, serial number, stepping and life-cycle state. -/
  | mmcIdentity
  /-- R371. Returns input, coolant and junction sensor readings. -/
  | mmcSensors
  /-- R371. Returns one service-log record over the management bus. -/
  | mmcLogRead (cls : LogClass) (index : Nat)
  /-- R371. Writes recovery image data to a firmware slot when no image passes. -/
  | mmcRecoveryWrite (slotB : Bool) (offset : Nat) (data : List Byte)
  /-- R371. Has the ROM verify both slots and boot when no image passes. -/
  | mmcRecoveryBoot
  /-- R336. The firmware image is written to the idle slot and FW_IMAGE_WRITE completes with OK after its PENDING reply, releasing the firmware tablet. -/
  | fwImageWriteDone
  /-- R334. Every named agent staging bank is written and AGENT_IMAGE_LOAD completes with OK, releasing its slice tablets. -/
  | agentImageLoadDone
  /-- R338. After a surprise removal or main-power loss the hold-up energy runs out and the module leaves its mode for STANDBY. -/
  | holdUpExhausted
  /-- R375. STBY_3V3 is removed in STANDBY, the management controller stops and clear-to-remove goes dark. -/
  | standbyPowerRemoved
  /-- R376. PRSNT_L de-asserts after DRAIN's wipe or in STANDBY, PRESENT clears and POWER_OFF continues without surprise removal. -/
  | prsntLRise
  /-- R365. MOD_RESET_L returns high and a module held in SANITIZE after zeroing proceeds to BOOT. -/
  | modResetLRise
  /-- R366. PERST# returns high, reply and notification discarding stops and the rings await reconfiguration. -/
  | perstRise
  /-- R316. Host software unmasks MSI-X vector 0 and a message held pending while it was masked is sent. -/
  | msixVectorUnmask
  /-- R369. The management-bus controller runs ENTDAA and the management controller takes a dynamic I3C address. -/
  | entdaa
  /-- R391. REF_IN returns within its frequency range with edges present and is healthy again, available as source and holdover reference. -/
  | refInHealthy
  /-- R51. A cartridge is fitted into an empty bay and reports present, ending the absence condition of its CART_FAULT source. -/
  | cartInsert (cart : Nat)
  /-- R50. A handed-over cartridge is pulled from its bay and reports absent without a fault. -/
  | cartRemove (cart : Nat)
  deriving DecidableEq, Repr

end Sys2Proof
end

