-- ==== Sys2Proof/Decode.lean ====
section
/-! DEFINITION. Commands that a word spells by the bits of the opcode table. No row of the table gives bits: commands come from
rings, pins, wires and timers, so no word spells one. -/

namespace Sys2Proof

/-- The command a table word spells: none, since the table gives no row any bits. -/
def decodeTableWord (nbits w : Nat) : Option Instr :=
  match nbits, w with
  | _, _ => none

end Sys2Proof
end

