-- ==== Sys2Proof/Config.lean ====
section
/-! DEFINITION. What the manual leaves open: free values, drawn from opaque constants that no proof can see through.
Each is applied to the operands it depends on, or to a counter of State for a fresh value each time. -/

namespace Sys2Proof.Config

/-- A salt the service processor draws when none was set (R71). -/
opaque drawnSalt : Nat → W64

/-- A challenge AUTH_CHALLENGE returns (R325). -/
opaque challenge : Nat → Nat

/-- What a sensor of the management controller reads (Table 19-4): sensor number, draw. -/
opaque sensor : Nat → Nat → Nat

/-- Laser bias and temperature of a cartridge (CART_STATUS): cartridge, quantity, draw. -/
opaque laser : Nat → Nat → Nat → Nat

/-- The adaptation state of a lane (LANE_STATUS): lane, draw. -/
opaque adaptation : Nat → Nat → Nat

/-- The servo's estimated offset, in 2^-16 ns, from its last accepted samples (11, The servo and jump refusal). -/
opaque servoEstimate : List Int → Nat

/-- What an agent ALU word computes (R293 names SUBOP, no table gives its codes): SUBOP, SRCA, SRCB, IMM. -/
opaque aluResult : Nat → W64 → W64 → W64 → W64

/-- The flags Z, N, C, V an agent ALU word leaves: SUBOP, SRCA, SRCB, IMM. -/
opaque aluFlags : Nat → W64 → W64 → W64 → BitVec 4

/-- Which access each SUBOP of a MEM word asks (R293): 0 read data, 1 write data, 2 read row, 3 write row, 4 read occupancy, 5
write occupancy. Every access has a SUBOP; which one is open. -/
opaque memCodes : Equiv.Perm (Fin 64)

def memKind (subop : Nat) : Nat := (memCodes (Fin.ofNat 64 subop)).val

/-- The condition number a COND code stands for (R293): 0 never, else 1 + flag or agent-flag bit. -/
opaque condBit : Nat → Nat

/-- What a TIMER word's SUBOP asks: true arms, false disarms (R295). -/
opaque timerArms : Nat → Bool

/-- What an HBM word's SUBOP asks (R293). -/
opaque hbmIsWrite : Nat → Bool

/-- Whether a RING word's SUBOP reads the learn ring or writes the export ring (R293). -/
opaque ringReads : Nat → Bool

/-- Whether a FLAG word's SUBOP sets or clears (R293). -/
opaque flagSets : Nat → Bool

/-- Which task operation each SUBOP of a TASK word asks: 0 TAKE, 1 DONE, 2 READY, 3 CANCEL (R305-R307). Every operation has a
SUBOP; which one is open. -/
opaque taskCodes : Equiv.Perm (Fin 64)

def taskOp (subop : Nat) : Nat := (taskCodes (Fin.ofNat 64 subop)).val

/-- The address a MEM word forms (R293 does not say how): SRCA, IMM. -/
opaque memAddr : W64 → W64 → Nat

/-- The resident row an address names, and what writing a word there makes of the record in the row. -/
opaque rowOfAddr : Nat → Nat
opaque rowWrite : Option FlowRec → Nat → W64 → Option FlowRec

/-- What an access to a row or the occupancy map transfers: slice, address, draw. -/
opaque rowWord : Nat → Nat → Nat → W64

/-- The channel and the channel offset that an address of a maintenance request names (R293 does not say how). -/
opaque hbmPlace : Nat → Nat × Nat

/-- The HBM region it lies in (Table 10-1). -/
def hbmRegion (addr : Nat) : Nat := (hbmPlace addr).2 / 2 ^ 21

/-- Whether a maintenance read needed a correction (R224), by channel and draw. -/
opaque readCorrected : Nat → Nat → Bool

/-- The word an HBM maintenance request returns: slice, address, draw. -/
opaque hbmWord : Nat → Nat → Nat → W64

/-- The device wrapping key of an epoch, drawn afresh at every reset (R263, R264). -/
opaque wrapKey : Nat → BitVec 256

/-- A byte of a frame as the edit stage leaves it: the frame's bytes, the operations, next hop, rewrite, VID and TTL decrement of its
descriptor, and the byte's place. The manual names the operations and not what they write (log entry 46). -/
opaque editByte : List Byte → List EditOp → Option NextHop → Option FlowExt → Nat → Bool → Nat → Byte

/-- The signature of MODULE_ATTEST (R328) over what it covers. -/
opaque attest : List Nat → Nat

/-- The bytes of a port configuration over which PORT_DIGEST is taken (Table 1-6): its lit lanes with their codes and largest
frames. -/
opaque portBytes : List (Nat × Nat × Nat) → List Byte

/-- The SHA-384 digest of a firmware image that MODULE_ATTEST's signature covers, and the identity key's certificate chain (R328). -/
opaque fwDigest : FwImage → Nat
opaque certChain : Nat

/-- The rewrite fields a learn request of an extended record carries (R120; no rule says where they come from), by draw:
none where the record does not rewrite, else address, port, side and IPv6. -/
opaque learnRewrite : Nat → Option (BitVec 128 × Nat × Bool × Bool)

/-- Whether a record of a retrained channel fails its check (R131): flow index, draw. -/
opaque eccFails : Nat → Nat → Bool

/-- Whether the source of a key's learning direction has the larger port (R123; a record holds its ports sorted). -/
opaque sourcePortHigh : BitVec 304 → Bool

/-- Which of the two zeros of ones' complement a checksum repair writes (R236): true 0xFFFF. -/
opaque udp6Zero : List Byte → Bool

/-- What a reserved bit or an undefined field reads as (R8), by draw. -/
opaque undefinedRead : Nat → Nat

/-- The wear level of the service log's flash (LOG_STATUS), by draw. -/
opaque wear : Nat → Nat

/-- What an action-pipeline operand selector reads where its lookup missed or was not made (Table 6-5 states no value):
selector, frame. -/
opaque missOperand : Nat → Nat → W32

/-- What the metadata words M0–M15 and the scratch fields S0–S2 hold before a word writes them: frame, number. -/
opaque metadata : Nat → Nat → W32
opaque scratch : Nat → Nat → W32

/-- The image a firmware slot holds after recovery writes of (offset, data) over what it held (Table 19-4). -/
opaque recovered : Option FwImage → List (Nat × List Byte) → Option FwImage

/-- The bytes of the unused part of a trap-ring entry (R283), by draw. -/
opaque trapPad : Nat → Nat

/-- The module's serial number (R400), 12 characters. -/
opaque serialChar : Fin 12 → Byte

def serial : List Byte := (List.finRange 12).map serialChar

end Sys2Proof.Config
end

