-- ==== Sys2Proof/Machine/State.lean ====
section
/-! DEFINITION. The state of the module: everything the manual gives it, as plain data, and its value right after reset
(the moment SANITIZE is left for BOOT). Sparse tables list what differs from the default their readers name. -/

namespace Sys2Proof.Machine

/-- Why a step could stop. No command of this block stops it: the manual answers every case with a reply, a count or
a drop, so no constructor is needed beyond the one that says so; nothing raises it (safe). -/
inductive Fault where
  /-- Never raised. Safe. -/
  | none
  deriving DecidableEq, Repr

/-- Why a command could be refused by the model. -/
inductive Refusal where
  /-- The command of this mnemonic has no meaning in the model yet. Raised by exec's arms only. Safe. -/
  | notModelled (mnemonic : String)
  deriving DecidableEq, Repr

/-! ### Counters and replies -/

/-- The counters the chapters name. Each is kept per one or two indices (slice, port, queue, aggregate, channel). -/
inductive Ctr where
  -- per aggregate (R24, R78, R191, R407)
  | accepted | demoted | refusedNc | lateAgg | guarSlotMiss | guarBufDrop | guarNoResvDrop
  -- per port (Table 2-5, 17-1, R65, 8-2, 9-7, 12)
  | rxFrames | rxOctets | rxFcsErr | rxUndersize | rxOversize | rxFecErr | txFrames | txOctets | txTailMarked
  | headerSlotDrop | portDownDiscard | latePort | linkDownCount | modeDiscard
  | parseTrunc | parseLimit | ipMalformed | ipv4CsumErr
  | stagingDrop | learnRefusedPort
  | preemptions | txFragments | rxPreemptFrames | rxFragErr | preemptVerifyFail
  | rxUntagged | rxUnknownSci | rxNotUsingSa | rxLate | rxNotValid | rxOk | txProtected | txSaExhaustedDrop
  | codewordHist
  -- per lane (R56)
  | symErrors | burstHist
  -- per port and queue (8-2, 9-7, 9-5)
  | threshDrop | sidingFullDrop | spilledFrames | spilledCells | ageDiscard
  | txqFrames | txqOctets | shaperHeld | shaperClamp
  | histCells | histPkts | histDelay
  -- per slice (4, 5, 6, 7, 8)
  | updateSteal | arrayCorrected | arrayRepaired | updateBacklogMax | stepsRun
  | flowHitOnDie | flowHitHbm | flowMiss | flowDeferred | flowDeferQuota | flowDeferWindow | flowDeferChannel
  | learnDedup | learnExists | learnAccepted | learnRefusedQuota | learnRefusedResident | learnRefusedChannel
  | learnRefusedStash | learnRefusedFlush | learnRingFull | pairRefused | aged | flushed | stashUseMax
  | exc | trapDiscard | ucodeCorrected
  | cellsInjected | cellsReleased | resvIdle | grantIdle | fabricCellErr | fabricLateCell | fabricCellLost
  | fabricUnderrun | fabricFrameDiscard | mcastCopyDrop | voqDepthMax
  | sidingBusyDrop | sidingChannelDiscard | sidingFlushed | fullBlocks | poolUseMax | stagingUseMax | sidingUseMax
  -- per channel (10)
  | hbmTrr | hbmWbAbandoned | eccCorrections
  -- per agent (R312)
  | agentIssued | agentIdleCycles | agentTraps | agentDeadlocks | agentHalts | agentUcodeCorrected | tasksDone
  | cancelRefused | traceDrop | exportDiscard
  -- per world, ring or module
  | cmdsFetched | qcpTimeouts | qcpReplyStall | execMax | trapRingDrop | timeRingDrop | inbandRefused | inbandOverflow
  | pcieResetDiscard | worldViolations | jumpRefused | captureOvf | laUnwrapFail | routeFullRefused | drainDiscard
  | drainModeDiscard | msixSent | barAccessErr | logOverwritten | headerSlots | flowOps | sidingTransfers | elasticGrants
  | flowOpsIssued | resetsByCause
  deriving DecidableEq, Repr

/-- One named result of a reply, in the order of its chapter's table: values of `width` bytes each. -/
structure RField where
  name  : String
  width : Nat
  vals  : List Nat
  deriving DecidableEq, Repr

/-- A reply (Tables 13-3, 13-4) with its results. `deferred` is the fetch cycle of a deferred command whose final reply it is. -/
structure Reply where
  status  : Status
  hdr     : Hdr
  opcode  : Nat
  elapsed : Nat
  detail  : Option Detail
  results : List RField
  inb     : Option (Nat × BitVec 48)
  deferred : Option Nat
  deriving DecidableEq, Repr

/-- States of a command in execution (Table 13-5). -/
inductive CmdState where
  | fetched | started | pending
  deriving DecidableEq, Repr

/-- A command in execution: fetched, with no final reply yet (R278). `paused` counts the cycles of blackouts since its
fetch, in which its timeout does not advance (R282); `inb` is the session and source address of an in-band command. -/
structure ExecEnt where
  hdr     : Hdr
  opcode  : Nat
  st      : CmdState
  fetched : Nat
  paused  : Nat
  inb     : Option (Nat × BitVec 48)
  deriving DecidableEq, Repr

/-- A ring's registers (Table 20-4); `lap` is the number of wraps, which PHASE follows (R268). -/
structure RingSt where
  base   : Nat
  log2   : Nat
  enable : Bool
  cfgErr : Bool
  dbErr  : Bool
  prod   : Nat
  cons   : Nat
  lap    : Nat
  deriving DecidableEq, Repr

/-- An entry the module wrote to the trap ring (R145). -/
structure TrapCopy where
  cause    : Nat
  code     : Nat
  port     : Nat
  slice    : Nat
  version  : Nat
  orbit    : Nat
  headway  : Nat
  window   : List Byte
  pad      : Nat
  deriving DecidableEq, Repr

/-- An entry of the time ring (Table 11-3); `pad` draws its reserved bits. -/
structure TimeRec where
  rxTs : Int
  port : Nat
  code : Nat
  pad  : Nat
  deriving DecidableEq, Repr

/-- The in-band binding (R284). -/
structure InbandBind where
  port    : Nat
  world   : World
  channel : Nat
  queue   : Nat
  deriving DecidableEq, Repr

/-- The command protocol's state (chapter 13). `written` holds the replies written, each with its first slot's PHASE (R268) and the
draw of its undefined bits. -/
structure QcpSt where
  rings    : Tab (World × RingKind) RingSt
  exec     : List ExecEnt
  waiting  : Tab Ring (List Reply)
  written  : List (Ring × Bool × Reply × Nat)
  traps    : List TrapCopy
  times    : List TimeRec
  inband   : Option InbandBind
  blackout : Option Nat
  deriving DecidableEq, Repr

/-! ### Time -/

/-- Where the module stands in its ticks (Table 1-1) and its time counter (Table 11-2, here in units of 2^-16 ns). -/
structure TimeSt where
  now       : Nat
  orbit     : Nat
  headway   : Nat
  hwStart   : Nat
  hwLen     : Nat
  hwCount   : Nat
  orbCount  : Nat
  blkCount  : Nat
  tc        : Nat
  deriving DecidableEq, Repr

/-- A TIME_ACCEPT_STEP that waits for its boundary (R240); the step in core cycles, its remainder in 2^-16 ns. -/
structure PendingStep where
  hdr         : Hdr
  cycles      : Int
  rem         : Int
  target      : Nat
  irrevocable : Bool
  deriving DecidableEq, Repr

/-- A TIME_IO pin, PPS_IN (4) or PPS_OUT (5): its function, holder and captures (R245, R246). `lastEdge` is its last edge and `fallAt`
the end of the pulse it drives, both in eighths of a core cycle; `level` is what it drives. -/
structure PinSt where
  fn       : Option TioFn
  holder   : Option Hdr
  captures : List Nat
  fired    : Bool
  lastEdge : Option Nat
  edges    : Nat
  skipped  : Bool
  level    : Bool
  fallAt   : Option Nat
  deriving DecidableEq, Repr

/-- The time servo and what surrounds it (chapter 11). Offsets are in 2^-16 ns. `pinsNx` are the pins released or configured in this
cycle, as they stand from its end (R246). -/
structure ClockSt where
  samples    : List Int
  estimate   : Nat
  jt         : Nat
  run        : Nat
  first      : Int
  runSamples : List Int
  persist    : Option Int
  jumpFlag   : Bool
  consec     : Nat
  lastAccept : Nat
  lossCycles : Nat
  holdEntry  : Nat
  e0         : Nat
  fRef       : Nat
  aRef       : Nat
  fInt       : Nat
  aInt       : Nat
  slewRem    : Int
  step       : Option PendingStep
  stepHold   : Nat
  alignValid : Bool
  enabled    : List FreqSrc
  source     : FreqSrc
  portA      : Nat
  portB      : Nat
  unhealthy  : List FreqSrc
  pins       : Tab Nat PinSt
  pinsNx     : Tab Nat PinSt
  latches    : Tab World (List Nat)
  ptpPending : Nat
  deriving DecidableEq, Repr

/-! ### Timetable -/

/-- A TT_COMMIT that waits for its boundary (R34-R37). -/
structure PendingCommit where
  hdr         : Hdr
  version     : Nat
  target      : Nat
  irrevocable : Bool
  fixed       : List Nat
  deriving DecidableEq, Repr

/-- A shed-table entry (Table 1-9); reason 1 STRANDED, 2 SHED_FIT, 3 FALLBACK. -/
structure ShedEnt where
  agg    : Nat
  prec   : Nat
  reason : Nat
  orbit  : Nat
  loss   : BitVec 32
  deriving DecidableEq, Repr

/-- A class-array entry (R72). -/
structure ClassRow where
  value : BitVec 384
  mask  : BitVec 384
  agg   : Nat
  meter : Nat
  deriving DecidableEq, Repr

/-- An ingress meter: its parameter word (Table 3-7), CREDIT (Table 3-8), and the counted headway up to whose boundary it has
been refilled (R75). -/
structure MeterSt where
  param  : BitVec 64
  credit : Nat
  upto   : Nat
  deriving DecidableEq, Repr

/-- A reserved sub-box of a placed block (R166): ingress, egress, sub-box. -/
structure Resv where
  i : Nat
  j : Nat
  c : Nat
  deriving DecidableEq, Repr

/-- The timetable banks and what the active one has put in force (chapter 1). -/
structure TtSt where
  active    : Option TtImage
  staged    : Option TtImage
  variant   : Option Nat
  commit    : Option PendingCommit
  committed : Bool
  lost      : List (BitVec 32)
  lostNow   : List (BitVec 32 × Nat)
  shed      : List ShedEnt
  aggs      : List QAgg
  classes   : Tab (Nat × Nat) ClassRow
  meters    : Tab (Nat × Nat) MeterSt
  placed    : List (List Resv)
  period    : Nat
  nPlaced   : Nat
  stagCarve : Tab Nat Nat
  poolCarve : Tab (Nat × Nat) Nat
  deriving DecidableEq, Repr

/-! ### Ports, lanes, cartridges -/

/-- States of the 802.3br verify process (R408). -/
inductive Verify where
  | disabled | initial | verifying | succeeded | failed
  deriving DecidableEq, Repr

/-- What a port's wire carries: frame, first bit's position (bits since cycle 0 at the port's rate), bytes of this
fragment, bytes of the frame sent in earlier fragments, whether it may be preempted, and whether its end carries the inverted
CRC (R150, R152, R199). -/
structure WireSt where
  fid   : Nat
  start : Nat
  bytes : Nat
  prior : Nat
  pre   : Bool
  queue : Nat
  marked : Bool
  deriving DecidableEq, Repr

/-- A port (chapters 2, 3, 9, 12). Ports not listed are dark. `upFrom` is the cycle from which its lanes' carrying is still to be
counted (R57). -/
structure PortSt where
  width    : Nat
  maxLen   : Nat
  admin    : Bool
  link     : Bool
  cause    : LinkCause
  halve    : Bool
  opWidth  : Nat
  opLow    : Nat
  degrade  : Bool
  fecAct   : Nat
  fecClr   : Nat
  fecWin   : Nat
  inner    : Bool
  innerNx  : Option Bool
  preEn    : Bool
  verify   : Bool
  vstate   : Verify
  preOn    : Bool
  preNx    : Option (Bool × Bool)
  pol      : SecPolicy
  polNx    : Option SecPolicy
  learnLim : Nat
  learns   : Nat
  wireFree : Nat
  wire     : Option WireSt
  held     : Option WireSt
  cur      : Nat
  selAt    : Nat
  ptpSent  : Nat
  upFrom   : Nat
  deriving DecidableEq, Repr

/-- A lane: lost (R55), uncalibrated, its symbol errors of this orbit, the cycles of it in which it carried bits, its estimate and how
long that stayed above or below the port's thresholds (R57). -/
structure LaneSt where
  lost   : Bool
  errs   : Nat
  cycles : Nat
  ber    : Nat
  above  : Nat
  below  : Nat
  calOk  : Bool
  deriving DecidableEq, Repr

/-- A laser cartridge (R49-R51). `share` is the share of its engines' light, per cent. -/
structure CartSt where
  present  : Bool
  share    : Nat
  fault    : Bool
  handed   : Bool
  held     : Bool
  ramping  : Option (Hdr × Bool × Bool)
  deriving DecidableEq, Repr

structure PortsSt where
  map       : List MapEnt
  staged    : Option (List MapEnt)
  ports     : Tab Nat PortSt
  lanes     : Tab Nat LaneSt
  carts     : Tab Nat CartSt
  engDown   : List Nat
  recals    : List (Nat × Hdr)
  deriving DecidableEq, Repr

/-! ### Versions and arrays -/

/-- A retained version: when it stopped being current, in counted orbits, and the largest bound of any timetable active
since, in headways (R83). -/
structure Retained where
  v        : Nat
  switched : Nat
  stopped  : Nat
  maxHw    : Nat
  deriving DecidableEq, Repr

/-- Rule versions. `left` counts, for a commit that waits, the steps of each slice's queue it still waits for (R82). -/
structure VerSt where
  current  : Nat
  switched : Nat
  opened   : Option Nat
  commit   : Option (Nat × Hdr)
  left     : Tab Nat Nat
  discard  : Option (Nat × Hdr)
  retained : List Retained
  clearing : List Nat
  deriving DecidableEq, Repr

/-- What a row of an array holds (Tables 4-3, 4-4, 4-7, 6-7, R171). A cover is a result and its length. -/
inductive Body where
  | pivot (table : Nat) (v6 : Bool) (addr : BitVec 128) (len bucket : Nat) (covers : List (Option (BitVec 24 × Nat)))
  | route (v6 : Bool) (addr : BitVec 128) (len : Nat) (result : BitVec 24)
  | rule (value mask : BitVec 480) (wide : Bool) (prio action : Nat)
  | action (data : BitVec 48)
  | nextHop (nh : NextHop)
  | ecmp (members : List Nat)
  | lag (ports : List Nat)
  | mcast (slices : BitVec 32) (list : List (Nat × Nat)) (index : Nat)
  | empty
  deriving DecidableEq, Repr

/-- A row: VALID, its 4-bit plane mask (R80), its content. -/
structure Row where
  valid  : Bool
  planes : BitVec 4
  body   : Body
  deriving DecidableEq, Repr

/-- What an update step does to its row (Table 4-2), and the plane copy and clear of R80 and R83, which act in the last of
their headway's slots in one array; `planeWork` is a slot before it. -/
inductive StepOp where
  | invalidate | write (b : Body) (planes : BitVec 4) | validate | planeSet (p : Nat) | planeClear (p : Nat)
  | coverSet (p : Nat) (c : Option (BitVec 24 × Nat))
  | search (h : Hdr) (last : Bool)
  | planeCopy (src dst : Nat) | planeClearAll (p : Nat) | planeWork (first clear : Bool)
  deriving DecidableEq, Repr

structure Step where
  arr : Arr
  row : Nat
  op  : StepOp
  deriving DecidableEq, Repr

/-- A search command whose steps wait in a step queue (R406). -/
inductive Query where
  | rule (part : Nat) (wide : Bool) (key : BitVec 960)
  | iter (part : Nat) (wide : Bool) (key smask : BitVec 960) (cursor count : Nat)
  | route (table : Nat) (v6 : Bool) (addr : BitVec 128)
  deriving DecidableEq, Repr

/-- A search command in progress: the matches found so far, or the pivot row the first step found. -/
structure QueryEnt where
  hdr   : Hdr
  slice : Nat
  v     : Nat
  q     : Query
  found : List Nat
  deriving DecidableEq, Repr

/-- The arrays of every slice as they stand (`live`) and as the service processor's shadow copy holds them with every
queued step applied (R92, R93), and the step queues. `lastSlot` is twice the cycle of a slice's last update slot, plus the slots of that
cycle run; `used` are the search slots that headers take in this cycle (R91); `repl` is a slice's replenishment move under way: source
row, free row and the steps of it that have run (R90, R97). -/
structure ArrSt where
  live     : Tab (Nat × Arr × Nat) Row
  shadow   : Tab (Nat × Arr × Nat) Row
  queues   : Tab Nat (List Step)
  repairs  : Tab Nat (List Step)
  noSteal  : List Nat
  parts    : List (Nat × World)
  hole     : Nat
  queries  : List QueryEnt
  lastSlot : Tab Nat Nat
  used     : List (Nat × Arr)
  repl     : Tab Nat (Nat × Nat × Nat)
  deriving DecidableEq, Repr

/-! ### Flow store -/

/-- A flow key: DOMAIN with KEY_BLOCK (R121). -/
structure FlowKey where
  domain : Nat
  block  : BitVec 304
  deriving DecidableEq, Repr

/-- Messages of the learn ring (R121, R123, R124, R127, R128); `live` is the reply that a pair is live. -/
inductive LearnMsg where
  | learn (r : FlowRec) (resident pairs : Bool)
  | pair (r : FlowRec) (partner : BitVec 32) (pkey : FlowKey)
  | answer (key : FlowKey) (partner : BitVec 32) (index : Option (BitVec 32))
  | age (key : FlowKey) (index : BitVec 32) (asker : BitVec 32) (askKey : FlowKey)
  | delete (key : FlowKey) (index : BitVec 32)
  | live (key : FlowKey) (index : BitVec 32)
  deriving DecidableEq, Repr

structure RingMsg where
  due : Nat
  src : Nat
  dst : Nat
  msg : LearnMsg
  deriving DecidableEq, Repr

/-- A flush in progress (R128): the slices that have not finished, and those that have not begun. -/
structure Flush where
  hdr     : Hdr
  port    : Nat
  domains : BitVec 256
  left    : List Nat
  todo    : List Nat
  removed : Nat
  deriving DecidableEq, Repr

/-- A write-back that waits (R218): the record's place and key, the packet's length, orbit and words. -/
structure WriteBack where
  fid     : Nat
  index   : BitVec 32
  key     : FlowKey
  orbit   : Nat
  len     : Nat
  user    : Option (BitVec 6)
  ext     : Bool
  tcp     : BitVec 8
  dscp    : Nat
  deriving DecidableEq, Repr

/-- A home slice's walk over its buckets (R125, R128): an ageing sweep, or its part of the flush of a command; by channel, the bucket
from which on it has still to read. -/
structure Scan where
  slice : Nat
  flush : Option Hdr
  next  : Tab Nat Nat
  deriving DecidableEq, Repr

/-- What a maintenance write does to a record of the HBM store (R219): completes a pair's half, or removes the record. -/
inductive MaintOp where
  | confirm (partner : BitVec 32)
  | remove (count : Option Ctr) (pair : Bool)
  deriving DecidableEq, Repr

/-- A write that waits for its channel's maintenance window (R219): the record's place and key, the flush or the command it is
part of. -/
structure MaintWrite where
  index : BitVec 32
  key   : FlowKey
  op    : MaintOp
  flush : Option Hdr
  hdr   : Option Hdr
  deriving DecidableEq, Repr

/-- A FLOW_SEARCH or FLOW_NEXT that waits for bucket reads (R219): the key searched, or where the walk goes on and what it
has found. -/
inductive Walk where
  | search (h : Hdr) (slice bucket : Nat) (key : FlowKey)
  | next (h : Hdr) (cursor : BitVec 32) (value mask : BitVec 356) (count : Nat) (found : List (BitVec 32 × FlowRec))
  deriving DecidableEq, Repr

/-- The flow store. `inserts` are the places of `wbuf` that FLOW_INSERT wrote. -/
structure FlowSt where
  b        : Nat
  stash    : Nat
  resident : Tab (Nat × Nat) FlowRec
  hbm      : Tab (Nat × Nat) FlowRec
  wbuf     : List (Nat × Nat)
  usedOps  : Tab Nat Nat
  winOps   : Tab Nat Nat
  filter   : Tab Nat (List (Nat × FlowKey))
  sent     : Tab Nat Nat
  ring     : List RingMsg
  arrived  : Tab Nat (List RingMsg)
  fresh    : List (BitVec 32 × Nat)
  zones    : Tab Nat Nat
  sweep    : Nat
  swept    : Tab Nat Nat
  flushes  : List Flush
  wbs      : List WriteBack
  msgSent  : Tab Nat Nat
  inserts  : List (Nat × Nat)
  scans    : List Scan
  writes   : List MaintWrite
  walks    : List Walk
  deriving DecidableEq, Repr

/-! ### Microcode -/

/-- The control stores of a slice (R133), the counted headways at which its old banks
were swapped out (R155), and the words of the active and old banks that hold an uncorrectable error (R156). -/
structure UcSlice where
  pAct  : Option UcodeImage
  pShad : Option UcodeImage
  pOld  : Option UcodeImage
  aAct  : Option UcodeImage
  aShad : Option UcodeImage
  aOld  : Option UcodeImage
  pOldHw : Nat
  aOldHw : Nat
  pBad   : List Nat
  aBad   : List Nat
  pOldBad : List Nat
  aOldBad : List Nat
  deriving DecidableEq, Repr

structure UcLoad where
  hdr    : Hdr
  action : Bool
  slices : List Nat
  img    : UcodeImage
  deriving DecidableEq, Repr

structure UcSwap where
  hdr    : Hdr
  parser : Bool
  action : Bool
  slices : List Nat
  deriving DecidableEq, Repr

structure UcodeSt where
  slices : Tab Nat UcSlice
  load   : List UcLoad
  swap   : Option UcSwap
  deriving DecidableEq, Repr

/-! ### Frames -/

/-- The parse result (Table 3-3) and what the hash and the PTP insertion need beside it. `l2` is L2_ONLY where a parser word wrote
FLAGS, `icmp` an ICMP header's type and code (Table 3-2), `ecc` that a word of the frame's parse was in error (R142). -/
structure Parse where
  vid     : Nat
  pcp     : Nat
  label   : Nat
  tc      : Nat
  hasMpls : Bool
  lastLbl : Nat
  entropy : Option Nat
  sa      : BitVec 128
  da      : BitVec 128
  hasIp   : Bool
  v6      : Bool
  proto   : Nat
  dscp    : Nat
  sport   : Nat
  dport   : Nat
  tcp     : BitVec 8
  frag    : Bool
  tunnel  : Bool
  inner   : Bool
  etype   : Nat
  trunc   : Bool
  limit   : Bool
  badIp   : Bool
  csum    : Bool
  ttl     : Nat
  smac    : BitVec 48
  dmac    : BitVec 48
  s0      : Nat
  s1      : Nat
  s2      : Nat
  entry   : Nat
  l2      : Option Bool
  icmp    : Nat
  vni     : Option Nat
  ecc     : Bool
  deriving DecidableEq, Repr

/-- The forwarding decision (Table 6-7) as its words wrote it. -/
structure Dec where
  kind  : Nat
  index : Nat
  queue : Nat
  edit  : Nat
  ttl   : Bool
  xlate : Bool
  code  : Nat
  deriving DecidableEq, Repr

/-- What a pivot search hands its bucket search (R94): the family and address looked up, the bucket, the pivot's covers. -/
structure PivotHit where
  v6     : Bool
  addr   : BitVec 128
  bucket : Nat
  covers : List (Option (BitVec 24 × Nat))
  deriving DecidableEq, Repr

/-- A header's working state in the action stages (R136-R139). `faults` are the hardware's faults its words are to meet (R142),
`pivot` what its pivot search found for its bucket search (R94), `bucket` the record that its
bucket read found as it was issued (R127). -/
structure Act where
  m      : List W32
  p      : BitVec 32
  word   : Nat
  rs0    : Option (BitVec 32 × Nat)
  rs1    : Option (BitVec 32 × Nat)
  route  : Option (BitVec 24 × Nat)
  reading : Bool
  flKind : Nat
  flDom  : Nat
  learn  : Option (Bool × Nat × Nat)
  user   : Option (BitVec 6)
  hit    : Option (FlowRec × BitVec 32 × Bool)
  defer  : Bool
  act    : Option (BitVec 48)
  dec    : Option Dec
  causes : List Nat
  atSel  : Nat
  faults : List Nat
  pivot  : Option PivotHit
  bucket : Option (FlowRec × BitVec 32)
  deriving DecidableEq, Repr

/-- Where a frame is. -/
inductive Stage where
  | front | lookup | voq | fabric | released | queued | siding | wire | held
  deriving DecidableEq, Repr

/-- A frame in the module, or one copy of it. Cycles are core cycles, `hw` is the arrival headway in counted headways;
`win` is the length of its parse window (R62, R252), `entryHit` is the aggregate and meter its class search found, `slot` the cycle of its header slot and `slotIx` the slot's place
in that cycle; `frags` are the gaps and lengths of its fragments (R200); `charged` counts its egress cells, `stag` its staging
cells, `sent` its cells back from the siding, `got` its cells released at the egress (R164); `edits` the operations of its edit template; `orig` is the frame a multicast copy
was made of. -/
structure Frame where
  fid      : Nat
  port     : Nat
  ref      : Nat
  hw       : Nat
  orbit    : Nat
  len      : Nat
  frags    : List (Nat × Nat)
  bytes    : List Byte
  preempt  : Bool
  bad      : Bool
  macBad   : Bool
  icv      : Bool
  lost     : Bool
  tailKnown : Bool
  rxTs     : Int
  pr       : Parse
  win      : Nat
  hash     : BitVec 32
  entryHit : Option (Nat × Nat)
  agg      : Option Nat
  cls      : Option Nat
  demoted  : Bool
  queue    : Nat
  deadline : Option Nat
  version  : Nat
  slot     : Option Nat
  slotIx   : Nat
  stage    : Stage
  act      : Act
  dcycle   : Nat
  egress   : Nat
  edit     : Nat
  edits    : List EditOp
  outLen   : Nat
  nh       : Option NextHop
  store    : Bool
  zcycle   : Option Nat
  elig     : Option Nat
  tcycle   : Option Nat
  mcast    : Option (BitVec 32 × Nat)
  vid      : Nat
  xlate    : Option FlowExt
  dttl     : Bool
  ptp      : Option (Hdr × Bool × Nat × Bool)
  eapol    : Bool
  unctrl   : Bool
  charged  : Nat
  sent     : Nat
  got      : Nat
  stag     : Nat
  orig     : Option Nat
  an       : Option SecTag
  deriving DecidableEq, Repr

/-! ### Fabric -/

/-- A cell (R160, Table 7-2): its frame, position, marks, its ingress port, the payload bytes used, and its passage. -/
structure Cell where
  fid   : Nat
  seq   : Nat
  head  : Bool
  last  : Bool
  guar  : Bool
  bad   : Bool
  src   : Nat
  dst   : Nat
  inj   : Nat
  lane  : Nat
  via   : Nat
  mcast : Bool
  inPort : Nat
  fill  : Nat
  deriving DecidableEq, Repr

/-- A cell in a virtual output queue (R163): ready once its data is complete. -/
structure VCell where
  fid    : Nat
  seq    : Nat
  head   : Bool
  last   : Bool
  ready  : Nat
  entered : Nat
  left   : BitVec 32
  deriving DecidableEq, Repr

/-- A grant of the signal box (R169): ingress, sub-box, egress slices served; multicast or unicast. -/
structure Grant where
  i     : Nat
  c     : Nat
  dests : List Nat
  mcast : Bool
  deriving DecidableEq, Repr

/-- The fabric (chapter 7): the signal box's pointers by lane and slice, the grants of the present block and of the next, the
virtual output queues, the cells in flight, the released body cells of trains whose head is still to come and the frames
of which a cell was lost (both by frame and slice), the cycle after each ingress lane's last injection, halted slices and slices that report FULL. -/
structure FabSt where
  gp      : Tab (Nat × Nat) Nat
  ap      : Tab (Nat × Nat) Nat
  grants  : List Grant
  next    : List Grant
  voqG    : Tab (Nat × Nat) (List VCell)
  voqE    : Tab (Nat × Nat) (List VCell)
  voqM    : Tab Nat (List VCell)
  transit : List Cell
  trains  : Tab (Nat × Nat) Nat
  broken  : List (Nat × Nat)
  injAt   : Tab (Nat × Nat) Nat
  halted  : List Nat
  full    : List Nat
  deriving DecidableEq, Repr

/-! ### Buffers, queues -/

/-- Cell memory of a slice (R179-R183), in cells. -/
structure BufSt where
  landing : Nat
  stagG   : Nat
  stagE   : Nat
  poolE   : Nat
  pend    : Nat
  sideUse : Nat
  deriving DecidableEq, Repr

/-- An egress queue (R183, R194-R206): frames on die, frames in the siding, cells on die and in the siding, scheduling, meter. Deficits and
weights are in sixteenths of a packet; CREDIT is the 40-bit register of Table 9-3 as an integer, kept as of
the start of cycle `creditAt`; `heldAt` is whether the queue held a frame at the start of that cycle, where that has changed since (R205).
`sideSeq` numbers the frames sent to the siding (R187). -/
structure QueueSt where
  items    : List Nat
  side     : List Nat
  d        : Nat
  s        : Nat
  spilling : Bool
  deficit  : Nat
  weight   : Nat
  weightNx : Option Nat
  word     : BitVec 64
  wordNx   : Option (BitVec 64)
  credit   : Int
  creditAt : Nat
  heldAt   : Option Bool
  sideSeq  : Nat
  deriving DecidableEq, Repr

/-- An apogee word's fields (Table 9-6). -/
structure Apogee where
  cells : Nat
  pkts  : Nat
  delay : Nat
  deriving DecidableEq, Repr

/-- A siding cell (R187) with its tag (the queue's frame sequence number `seq`, `pos`, `last`, the arrival headway `hw`, the address
of the queue's next stripe `next`), and what it waits for. -/
structure SideCell where
  fid    : Nat
  seq    : Nat
  pos    : Nat
  last   : Bool
  hw     : Nat
  next   : Option Nat
  port   : Nat
  queue  : Nat
  chan   : Nat
  stripe : Nat
  lost   : Bool
  wrote  : Bool
  readAt : Option Nat
  deriving DecidableEq, Repr

/-- The stripe a queue fills (R187): its number, the positions still open in it, and the stripe the queue takes next. -/
structure StripeSt where
  stripe : Nat
  left   : List Nat
  next   : Option Nat
  deriving DecidableEq, Repr

/-- A slice's siding: its cells, and the stripe each queue fills. -/
structure SideSt where
  cells   : List SideCell
  stripes : Tab (Nat × Nat) StripeSt
  deriving DecidableEq, Repr

/-- What a port's wire carried: a frame or fragment, where its first bit stood (bits since cycle 0 at the port's rate), its
length, the bytes of earlier fragments, whether it was ended with the inverted CRC, the whole frame's bytes before its FCS as sent
(edited, with an inserted time, protected), and what its descriptor named: the template, the next hop, the rewrite, the VID a
multicast copy takes, and whether TTL or hop limit is decremented. -/
structure TxRec where
  fid    : Nat
  port   : Nat
  queue  : Nat
  first  : Nat
  len    : Nat
  prior  : Nat
  marked : Bool
  bytes  : List Byte
  edit   : Nat
  nh     : Option NextHop
  xlate  : Option FlowExt
  vid    : Nat
  ttl    : Bool
  deriving DecidableEq, Repr

/-- The egress. `freed` counts, by slice, the elastic pool cells freed in this cycle (R183); `released` are the frames and copies
released in this cycle with their cells, in release order (R184); `samples` and `delays` are what this cycle adds to histograms and to
apogee delays (R210). -/
structure EgrSt where
  bufs    : Tab Nat BufSt
  queues  : Tab (Nat × Nat) QueueSt
  apogees : Tab (Nat × Nat) Apogee
  histN   : Tab Nat Nat
  histAt  : Tab Nat Nat
  sides   : Tab Nat SideSt
  gib     : Nat
  sent    : List TxRec
  freed   : Tab Nat Nat
  released : List (Nat × Nat)
  samples : List (Ctr × Nat × Nat)
  delays  : List ((Nat × Nat) × Nat)
  deriving DecidableEq, Repr

/-! ### HBM -/

inductive ChState where
  | active | frozen | retraining | retired
  deriving DecidableEq, Repr

/-- Freeze diagnosis record (Table 10-4). -/
structure Diag where
  cause    : Nat
  cmd      : Nat
  window   : Nat
  beat     : Nat
  address  : Nat
  orbit    : Nat
  headway  : Nat
  syndrome : Nat
  deriving DecidableEq, Repr

/-- A row's activation count (R222). -/
structure ActCount where
  bank  : Nat
  row   : Nat
  count : Nat
  deriving DecidableEq, Repr

structure ChanSt where
  st      : ChState
  diag    : Option Diag
  acts    : List ActCount
  trq     : List (Nat × Nat)
  retrain : Option Hdr
  deriving DecidableEq, Repr

/-- The HBM beside its stored records and cells; `words` holds the words of general regions, zero where unlisted; `ordering` the
order changes that wait (R216), `recover` the next bucket of each recovery sweep (R131, R219), `refresh` the headway's place in the
refresh window (R221), `busyR` and `busyW` the channels whose maintenance read or write this headway is used (R217). -/
structure HbmSt where
  chans    : Tab Nat ChanSt
  orders   : Tab Nat HbmOrder
  ordering : List (Hdr × List Nat × HbmOrder)
  thresh   : Nat
  threshNx : Option Nat
  rejoin   : List Nat
  words    : Tab Nat W64
  recover  : Tab Nat Nat
  refresh  : Nat
  busyR    : List Nat
  busyW    : List Nat
  deriving DecidableEq, Repr

/-! ### Link security -/

/-- A secure association in place (R249, R258). -/
structure SaSt where
  p       : SaParams
  next    : Nat
  softUp  : Bool
  done    : Bool
  deriving DecidableEq, Repr

/-- A secure channel (R249): its port, direction, SCI, associations, encoding AN, thresholds. -/
structure ScSt where
  port  : Nat
  tx    : Bool
  sci   : Nat
  sas   : Tab Nat SaSt
  enc   : Option Nat
  encNx : Option Nat
  soft  : Option Nat
  hard  : Option Nat
  deriving DecidableEq, Repr

/-- A lookaside context (R260-R263). -/
structure LaCtx where
  holder   : Ring
  hdr      : Hdr
  mode     : LaMode
  decrypt  : Bool
  key      : List Byte
  aadBytes : Nat
  text     : Nat
  chain    : BitVec 128
  ghash    : BitVec 128
  part     : List Byte
  prev     : Option (BitVec 128)
  deriving DecidableEq, Repr

structure SecSt where
  chans  : Tab Nat ScSt
  la     : Tab Nat LaCtx
  epoch  : Nat
  deriving DecidableEq, Repr

/-! ### Agents -/

/-- What a thread waits for (R296, R297): the condition, its bound and the cycle the wait began. -/
structure WaitSt where
  cond  : Nat
  chan  : Nat
  flag  : Nat
  bound : Nat
  since : Nat
  stall : Bool
  deriving DecidableEq, Repr

/-- A save area (Table 14-5). -/
structure SaveArea where
  pc    : Nat
  cause : Nat
  depth : Nat
  flags : BitVec 16
  cycle : Nat
  info  : Nat
  timer : Option Nat
  xs    : List W64
  scratch : List W64
  deriving DecidableEq, Repr

/-- A request in the HBM maintenance window (R293): a write with its word, or a read with its register; its address. -/
structure HbmReq where
  write : Bool
  addr  : Nat
  data  : W64
  dst   : Nat
  deriving DecidableEq, Repr

/-- A thread (Table 14-1); `freeFrom` is the first cycle in which it may issue again. -/
structure Thread where
  enabled : Bool
  pc      : Nat
  flags   : BitVec 16
  xs      : List W64
  timer   : Option Nat
  slot    : Option Nat
  running : Option Nat
  wait    : Option WaitSt
  halted  : Bool
  dbg     : Bool
  depth   : Nat
  saves   : List SaveArea
  staged  : Option (Nat × Nat × List W64)
  aborted : Option Nat
  hbmDone : Bool
  hbmBusy : Option HbmReq
  freeFrom : Nat
  deriving DecidableEq, Repr

inductive TaskState where
  | free | idle | ready | prefetched | running
  deriving DecidableEq, Repr

/-- A task descriptor (Table 14-7); `cancelAt` is the cycle after its last cancel, `readyBy` the command that last made it ready. -/
structure Task where
  type     : Nat
  prio     : Nat
  st       : TaskState
  autoFree : Bool
  restart  : Bool
  thread   : Nat
  gen      : Nat
  args     : List W64
  world    : World
  readyAt  : Nat
  cancelAt : Nat
  readyBy  : Option Hdr
  deriving DecidableEq, Repr

/-- A dispatch trace entry (Table 14-9). -/
structure TraceEnt where
  cycle : Nat
  event : Nat
  host  : Bool
  thread : Nat
  task  : Nat
  prio  : Nat
  type  : Nat
  orbit : Nat
  deriving DecidableEq, Repr

/-- A table agent (Table 14-1). Its data memory is a list of cells with strictly rising addresses and no zero byte. `reset` is a
reset in progress with the command that asked for it (none where a commit did); `sPend` and `sOut` are the trace entries still
to be streamed and those written to the host's ring, each with the draw of its undefined bits; `issuedAt` is the cycle after its last issue; `occ` holds words written
to the occupancy map; a channel's committed messages stand with the cycle of their commit. -/
structure AgentSt where
  image   : Option AgentImage
  staged  : Option AgentImage
  threads : Tab Nat Thread
  mem     : List Host.Cell
  aflags  : BitVec 8
  chans   : Tab Nat (List (Nat × List W64))
  exports : List W64
  tasks   : Tab Nat Task
  lists   : Tab Nat (List Nat)
  trace   : List TraceEnt
  base    : Nat
  last    : Nat
  dead    : Nat
  halted  : Option Nat
  reset   : Option (Option Hdr)
  badWords : List Nat
  stream  : Option (Hdr × Nat × Nat)
  sTail   : Nat
  sHead   : Nat
  sPend   : List TraceEnt
  sOut    : List (TraceEnt × Nat)
  issuedAt : Nat
  occ     : Tab Nat W64
  deriving DecidableEq, Repr

structure AgentImgLoad where
  hdr    : Hdr
  slices : List Nat
  img    : AgentImage
  deriving DecidableEq, Repr

/-! ### Event controller, worlds, modes, log, management controller -/

/-- The event controller. `setNow` are the edge sources that occurred in this cycle; their pending bits are set at its end, after every
clear (R10). -/
structure EvcSt where
  pend     : List Nat
  setNow   : List Nat
  enable   : Tab (Bool × Nat) W32
  prio     : Tab Nat W32
  stk      : Tab Bool (List Nat)
  ovf      : List Bool
  eoiEmpty : List Bool
  masked   : Bool
  held     : Bool
  line     : Bool
  msixAddr : Nat
  msixData : Nat
  sent     : Nat
  answer   : Tab Bool Nat
  barRead  : Tab World Nat
  deriving DecidableEq, Repr

structure OwnerKey where
  ecdsa   : Nat
  mldsa   : Nat
  revoked : Bool
  deriving DecidableEq, Repr

structure WorldSt where
  attrs     : Tab (WObj × Nat) World
  locked    : Bool
  lifecycle : Lifecycle
  owners    : Tab Nat OwnerKey
  svnFused  : Nat
  idGone    : Bool
  keys      : Tab Nat (List Byte)
  challenge : Option Nat
  dbgNs     : Bool
  dbgS      : Bool
  fwA       : Option FwImage
  fwB       : Option FwImage
  runB      : Bool
  markB     : Bool
  fwWrite   : Option (Hdr × Bool × FwImage)
  fwSwitch  : Option (Hdr × Bool)
  agentLoad : List AgentImgLoad
  salt      : Option W64
  deriving DecidableEq, Repr

/-- Phases of DRAIN (Table 17-3). -/
inductive DrainPhase where
  | none | hold | emptying | dark | wipe | powerOff
  deriving DecidableEq, Repr

/-- Activities that hold tablets (Table 17-5), and the module's own hold (R51). -/
inductive Activity where
  | rv | ag | ul | al | ar | hb | lr | ch | tc | ts | fw | fs | cr | module
  deriving DecidableEq, Repr

structure Tablet where
  dom    : Domain
  act    : Activity
  source : Nat
  opcode : Nat
  seq    : Nat
  tag    : Nat
  deriving DecidableEq, Repr

/-- `emptySeen`: at the end of the cycle before, nothing waited any more in DRAIN's EMPTYING phase (Table 17-3). -/
structure ModeSt where
  mode      : Mode
  phase     : DrainPhase
  drain     : Option Hdr
  holdUntil : Nat
  emptyAt   : Nat
  emptyMax  : Nat
  emptySeen : Bool
  calib     : Option Hdr
  service   : Option Hdr
  zeroed    : Bool
  resetReq  : Bool
  resetHeld : Bool
  tablets   : List Tablet
  drainFrom : Mode
  deriving DecidableEq, Repr

/-- Performance counters (R353–R358); `base` is the cycle in which CYCLE began (R352). For the end of this cycle, `now` holds the
occurrences that a PMC counts (block, code, qualifier, number), `occ` the PMCs whose occupancy exceeded their threshold at its start,
`cfg` what PMU_CONFIG writes (R355; the flag is ZERO), `userNx` what PMU_USER_SET sets. -/
structure PmuSt where
  ctl    : Tab (Nat × Nat) (BitVec 64)
  pmc    : Tab (Nat × Nat) Nat
  snap   : Tab (Nat × Nat) Nat
  snapAt : Tab Nat Nat
  wait   : List (Hdr × List Nat)
  user   : Bool
  base   : Nat
  now    : List (Nat × Nat × Nat × Nat)
  occ    : List (Nat × Nat)
  cfg    : List ((Nat × Nat) × BitVec 64 × Bool)
  userNx : Option Bool
  deriving DecidableEq, Repr

structure LogRec where
  cls   : LogClass
  kind  : String
  world : Option World
  orbit : Nat
  vals  : List Nat
  deriving DecidableEq, Repr

/-- The service log. `accum` holds what the lifetime counters gained since the last commit, `life` what they stand at in flash
(R224, R359, R360). -/
structure LogSt where
  recs     : List LogRec
  buffered : List LogRec
  summary  : Tab (LogClass × String) Nat
  sums     : List LogRec
  commitAt : Nat
  noteAt   : Tab World Nat
  accum    : Tab (Ctr × Nat × Nat) Nat
  life     : Tab (Ctr × Nat × Nat) Nat
  deriving DecidableEq, Repr

/-- The management controller and the rear connector's pins (chapter 19); `lowAt` is the cycle in which PWR_EN fell, while it is low. -/
structure MmcSt where
  running   : Bool
  ready     : Bool
  seated    : Bool
  eject     : Bool
  pwrEn     : Bool
  pwrGood   : Bool
  clear     : Bool
  sanFault  : Bool
  noImage   : Bool
  latched   : BitVec 8
  resetLow  : Bool
  perst     : Bool
  softStart : Bool
  needFall  : Bool
  lowAt     : Option Nat
  holdUp    : Bool
  coolBad   : Bool
  address   : Option Nat
  output    : List (List Nat)
  recovery  : List (Bool × Nat × List Byte)
  mainOk    : Bool
  deriving DecidableEq, Repr

/-- What waits for the end of the cycle in which it came: a write to a register (R9), what yields to another happening of the cycle (a
timeout, a TAKE, a wait's bound, R10), and the dispatcher's visit (R305). -/
inductive Late where
  | evcEoi (sp : Bool)
  | evcPending (sp : Bool) (n : Nat) (value : W32)
  | unmask
  | doorbell (w : World) (tail : Nat)
  | ringHead (w : World) (kind : RingKind) (head : Nat)
  | ringEnable (w : World) (kind : RingKind)
  | ringDisable (w : World) (kind : RingKind)
  | ringConfig (w : World) (kind : RingKind) (base log2Size : Nat)
  | traceHead (w : World) (slice head : Nat)
  | register (w : World) (offset : Nat) (value : W32)
  | timeout (ring : Ring) (seq tag : Nat)
  | take (slice : Nat)
  | prefetch (slice : Nat)
  | waitEnd (slice thread : Nat)
  deriving DecidableEq, Repr

/-! ### The whole -/

/-- The state. `late` is what takes effect at the end of this cycle (R9, R10), in order of arrival; `ran` are the parts of this cycle's work
that are done, by number. -/
structure State where
  pending : List Instr
  fresh   : Nat
  nextFid : Nat
  time    : TimeSt
  clock   : ClockSt
  tt      : TtSt
  ports   : PortsSt
  ver     : VerSt
  arr     : ArrSt
  flow    : FlowSt
  ucode   : UcodeSt
  frames  : List Frame
  trapHw  : Tab Nat Nat
  fab     : FabSt
  egr     : EgrSt
  hbm     : HbmSt
  sec     : SecSt
  qcp     : QcpSt
  agents  : Tab Nat AgentSt
  evc     : EvcSt
  world   : WorldSt
  mode    : ModeSt
  pmu     : PmuSt
  log     : LogSt
  mmc     : MmcSt
  ctrs    : Tab (Ctr × Nat × Nat) Nat
  late    : List Late
  ran     : List Nat
  deriving DecidableEq, Repr

/-! ### Values at reset -/

/-- A ring's registers at reset (Table 20-4). -/
def RingSt.init : RingSt := ⟨0, 0, false, false, false, 0, 0, 0⟩

/-- MACsec policy defaults (Table 12-2). -/
def SecPolicy.init : SecPolicy := ⟨.off, true, 0, .disabled, 0⟩

/-- A port as a newly applied map creates it (R45, R55, R57, R120, R196, R201). -/
def PortSt.init (low width maxLen : Nat) : PortSt where
  width := width
  maxLen := maxLen
  admin := true
  link := false
  cause := .portMap
  halve := false
  opWidth := width
  opLow := low
  degrade := false
  fecAct := 100000000
  fecClr := 50000000
  fecWin := 16
  inner := false
  innerNx := none
  preEn := true
  verify := true
  vstate := .initial
  preOn := false
  preNx := none
  pol := SecPolicy.init
  polNx := none
  learnLim := 400000
  learns := 0
  wireFree := 0
  wire := none
  held := none
  cur := 15
  selAt := 0
  ptpSent := 0
  upFrom := 0

def LaneSt.init : LaneSt := ⟨false, 0, 0, 0, 0, 0, false⟩

/-- A cartridge in normal operation: fitted, half the light of its engines (R49, R398). -/
def CartSt.init : CartSt := ⟨true, 50, false, false, false, none⟩

/-- A queue at reset; its meter word has LO = 1 (Table 9-2) and is disabled. -/
def QueueSt.init : QueueSt where
  items := []
  side := []
  d := 0
  s := 0
  spilling := false
  deficit := 0
  weight := 16
  weightNx := none
  word := BitVec.ofNat 64 (2 ^ 39)
  wordNx := none
  credit := 0
  creditAt := 0
  heldAt := none
  sideSeq := 0

def Parse.init : Parse where
  vid := 0
  pcp := 0
  label := 0
  tc := 0
  hasMpls := false
  lastLbl := 0
  entropy := none
  sa := 0
  da := 0
  hasIp := false
  v6 := false
  proto := 0
  dscp := 0
  sport := 0
  dport := 0
  tcp := 0
  frag := false
  tunnel := false
  inner := false
  etype := 0
  trunc := false
  limit := false
  badIp := false
  csum := false
  ttl := 0
  smac := 0
  dmac := 0
  s0 := 0
  s1 := 0
  s2 := 0
  entry := 0
  l2 := none
  icmp := 0
  vni := none
  ecc := false

def Act.init : Act where
  m := List.replicate 16 0
  p := 0
  word := 0
  rs0 := none
  rs1 := none
  route := none
  reading := false
  flKind := 0
  flDom := 0
  learn := none
  user := none
  hit := none
  defer := false
  act := none
  dec := none
  causes := []
  atSel := 0
  faults := []
  pivot := none
  bucket := none

/-- A frame that has just passed a MAC, or one that a command supplies; its other fields are the stages' to fill in. -/
def Frame.init (fid port len : Nat) (bytes : List Byte) : Frame where
  fid := fid
  port := port
  ref := 0
  hw := 0
  orbit := 0
  len := len
  frags := []
  bytes := bytes
  preempt := false
  bad := false
  macBad := false
  icv := true
  lost := false
  tailKnown := false
  rxTs := 0
  pr := Parse.init
  win := 0
  hash := 0
  entryHit := none
  agg := none
  cls := none
  demoted := false
  queue := 4
  deadline := none
  version := 0
  slot := none
  slotIx := 0
  stage := .front
  act := Act.init
  dcycle := 0
  egress := 0
  edit := 0
  edits := []
  outLen := len
  nh := none
  store := false
  zcycle := none
  elig := none
  tcycle := none
  mcast := none
  vid := 0
  xlate := none
  dttl := false
  ptp := none
  eapol := false
  unctrl := false
  charged := 0
  sent := 0
  got := 0
  stag := 0
  orig := none
  an := none

def BufSt.init : BufSt := ⟨0, 0, 0, 0, 0, 0⟩
def Apogee.init : Apogee := ⟨0, 0, 0⟩
def SideSt.init : SideSt := ⟨[], []⟩
def ChanSt.init : ChanSt := ⟨.active, none, [], [], none⟩
def UcSlice.init : UcSlice := ⟨none, none, none, none, none, none, 0, 0, [], [], [], []⟩
def Row.init : Row := ⟨false, 0, .empty⟩
def PinSt.init : PinSt := ⟨none, none, [], false, none, 0, false, false, none⟩

def Thread.init : Thread where
  enabled := false
  pc := 0
  flags := 0
  xs := List.replicate 16 0
  timer := none
  slot := none
  running := none
  wait := none
  halted := false
  dbg := false
  depth := 0
  saves := []
  staged := none
  aborted := none
  hbmDone := false
  hbmBusy := none
  freeFrom := 0

def Task.init : Task := ⟨0, 0, .free, false, false, 0, 0, [0, 0, 0], .nonSecure, 0, 0, none⟩

/-- An agent after SANITIZE zeroed its stores (Table 16-5): no image, no enabled thread. -/
def AgentSt.init : AgentSt where
  image := none
  staged := none
  threads := []
  mem := []
  aflags := 0
  chans := []
  exports := []
  tasks := []
  lists := []
  trace := []
  base := 0
  last := 0
  dead := 0
  halted := none
  reset := none
  badWords := []
  stream := none
  sTail := 0
  sHead := 0
  sPend := []
  sOut := []
  issuedAt := 0
  occ := []

/-- The firmware image a shipped module holds in both slots (R398); its versions are the model's (log entry 5). -/
def FwImage.shipped : FwImage := ⟨⟨.dvorhel, true, true⟩, 0x01000000, 0⟩

def TimeSt.init : TimeSt := ⟨0, 0, 0, 0, 256, 0, 0, 0, 0⟩

/-- The servo at reset. DESIGN CHOICE (log entry 105): before a first sample alignment is invalid and the estimate 0. -/
def ClockSt.init : ClockSt where
  samples := []
  estimate := 0
  jt := 65536000
  run := 0
  first := 0
  runSamples := []
  persist := none
  jumpFlag := false
  consec := 0
  lastAccept := 0
  lossCycles := 1600000000
  holdEntry := 0
  e0 := 0
  fRef := 1
  aRef := 0
  fInt := 4600
  aInt := 0
  slewRem := 0
  step := none
  stepHold := 0
  alignValid := false
  enabled := [.internal]
  source := .internal
  portA := 0
  portB := 0
  unhealthy := []
  pins := []
  pinsNx := []
  latches := []
  ptpPending := 0

def TtSt.init : TtSt where
  active := none
  staged := none
  variant := none
  commit := none
  committed := false
  lost := []
  lostNow := []
  shed := []
  aggs := []
  classes := []
  meters := []
  placed := []
  period := 1
  nPlaced := 0
  stagCarve := []
  poolCarve := []

def PortsSt.init : PortsSt := ⟨[], none, [], [], [], [], []⟩
def VerSt.init : VerSt := ⟨0, 0, none, none, [], none, [], []⟩

/-- The arrays empty, stealing enabled, one non-secure partition (R104), H = 64 (R97). -/
def ArrSt.init : ArrSt := ⟨[], [], [], [], [], [(0, .nonSecure)], 64, [], [], [], []⟩

def FlowSt.init : FlowSt where
  b := 2097152
  stash := 4096
  resident := []
  hbm := []
  wbuf := []
  usedOps := []
  winOps := []
  filter := []
  sent := []
  ring := []
  arrived := []
  fresh := []
  zones := []
  sweep := 1024
  swept := []
  flushes := []
  wbs := []
  msgSent := []
  inserts := []
  scans := []
  writes := []
  walks := []

def UcodeSt.init : UcodeSt := ⟨[], [], none⟩
def FabSt.init : FabSt := ⟨[], [], [], [], [], [], [], [], [], [], [], [], []⟩
def EgrSt.init : EgrSt := ⟨[], [], [], [], [], [], 0, [], [], [], [], []⟩
def HbmSt.init : HbmSt := ⟨[], [], [], 1024, none, [], [], [], 0, [], []⟩
def SecSt.init : SecSt := ⟨[], [], 0⟩
def QcpSt.init : QcpSt := ⟨[], [], [], [], [], [], none, none⟩
/-- Event controller registers at reset (Table 15-2); the MSI-X vector is masked, as PCIe leaves it. -/
def EvcSt.init : EvcSt := ⟨[], [], [], [], [], [], [], true, false, false, 0, 0, 0, [], []⟩
def PmuSt.init : PmuSt := ⟨[], [], [], [], [], false, 0, [], [], [], none⟩
def LogSt.init : LogSt := ⟨[], [], [], [], 0, [], [], []⟩

def WorldSt.init : WorldSt where
  attrs := []
  locked := false
  lifecycle := .provisioned
  owners := []
  svnFused := 0
  idGone := false
  keys := []
  challenge := none
  dbgNs := false
  dbgS := false
  fwA := some FwImage.shipped
  fwB := some FwImage.shipped
  runB := false
  markB := false
  fwWrite := none
  fwSwitch := none
  agentLoad := []
  salt := none

def ModeSt.init : ModeSt where
  mode := .boot
  phase := .none
  drain := none
  holdUntil := 0
  emptyAt := 0
  emptyMax := 0
  emptySeen := false
  calib := none
  service := none
  zeroed := false
  resetReq := false
  resetHeld := false
  tablets := []
  drainFrom := .boot

/-- The controller and pins of a module in BOOT: seated, powered, READY (R372). -/
def MmcSt.init : MmcSt where
  running := true
  ready := true
  seated := true
  eject := false
  pwrEn := true
  pwrGood := true
  clear := false
  sanFault := false
  noImage := false
  latched := 0
  resetLow := false
  perst := false
  softStart := false
  needFall := false
  lowAt := none
  holdUp := false
  coolBad := false
  address := none
  output := []
  recovery := []
  mainOk := true

/-- The module right after reset: SANITIZE has ended and BOOT has begun (00_scope.md, R330); HBM zeroing still runs. -/
def State.reset : State where
  pending := []
  fresh := 0
  nextFid := 0
  time := TimeSt.init
  clock := ClockSt.init
  tt := TtSt.init
  ports := PortsSt.init
  ver := VerSt.init
  arr := ArrSt.init
  flow := FlowSt.init
  ucode := UcodeSt.init
  frames := []
  trapHw := []
  fab := FabSt.init
  egr := EgrSt.init
  hbm := HbmSt.init
  sec := SecSt.init
  qcp := QcpSt.init
  agents := []
  evc := EvcSt.init
  world := WorldSt.init
  mode := ModeSt.init
  pmu := PmuSt.init
  log := LogSt.init
  mmc := MmcSt.init
  ctrs := []
  late := []
  ran := []

end Sys2Proof.Machine
end

