-- ==== Sys2Proof/Machine/Ops.lean ====
section
/-! DEFINITION. Operations every family shares: sparse tables, counters, event raising, log records, performance
counters, time positions, numbering. -/

namespace Sys2Proof.Machine

/-! ### Sparse tables -/

/-- The value of a key; `d` where the table lists none. -/
def tget {κ α : Type} [DecidableEq κ] (t : Tab κ α) (k : κ) (d : α) : α :=
  match t with
  | [] => d
  | (k', v) :: r => if k' = k then v else tget r k d

/-- Sets a key's value, in place where it is listed. -/
def tset {κ α : Type} [DecidableEq κ] (t : Tab κ α) (k : κ) (v : α) : Tab κ α :=
  match t with
  | [] => [(k, v)]
  | (k', w) :: r => if k' = k then (k, v) :: r else (k', w) :: tset r k v

/-- The value of a key, where the table lists one. -/
def tfind {κ α : Type} [DecidableEq κ] (t : Tab κ α) (k : κ) : Option α :=
  match t with
  | [] => none
  | (k', v) :: r => if k' = k then some v else tfind r k

/-- Removes a key. -/
def tdel {κ α : Type} [DecidableEq κ] (t : Tab κ α) (k : κ) : Tab κ α :=
  t.filter (fun e => e.1 ≠ k)

/-- Adds an element that is not yet there. -/
def insertNew {α : Type} [DecidableEq α] (x : α) (l : List α) : List α :=
  if x ∈ l then l else l ++ [x]

/-- Inserts into a list that an order sorts, after its equals. -/
def insertBy {α : Type} (le : α → α → Bool) (x : α) : List α → List α
  | [] => [x]
  | y :: ys => if le y x then y :: insertBy le x ys else x :: y :: ys

/-- A stable sort. -/
def sortBy {α : Type} (le : α → α → Bool) (l : List α) : List α := l.foldl (fun acc x => insertBy le x acc) []

/-! ### Numbering (R4, Table 0-4) -/

def sliceOfLane (lane : Nat) : Nat := lane / 32
def engineOfLane (lane : Nat) : Nat := lane / 16
def sliceOfEngine (e : Nat) : Nat := e / 2
def primaryCart (e : Nat) : Nat := e / 8
def secondaryCart (e : Nat) : Nat := 8 + e / 8
def partnerCart (c : Nat) : Nat := if c < 8 then c + 8 else c - 8
def stackOfChannel (c : Nat) : Nat := c / 32
def allSlices : List Nat := List.range 32

/-- The slices a 32-bit mask names, ascending. -/
def slicesOf (m : W32) : List Nat := allSlices.filter (fun i => m.getLsbD i)

/-- The numbers an `n`-bit mask names, ascending. -/
def bitsOf {n : Nat} (m : BitVec n) : List Nat := (List.range n).filter (fun i => m.getLsbD i)

/-- A field of a word: `len` bits from bit `lo`. -/
def field {n : Nat} (w : BitVec n) (lo len : Nat) : Nat := (w.toNat / 2 ^ lo) % 2 ^ len

/-! ### Counters -/

def ctr (s : State) (c : Ctr) (i j : Nat) : Nat := tget s.ctrs (c, i, j) 0

def bumpBy (c : Ctr) (i j n : Nat) (s : State) : State :=
  { s with ctrs := tset s.ctrs (c, i, j) (ctr s c i j + n) }

def bump (c : Ctr) (i j : Nat) (s : State) : State := bumpBy c i j 1 s

def clearCtr (c : Ctr) (i j : Nat) (s : State) : State := { s with ctrs := tset s.ctrs (c, i, j) 0 }

/-- Raises a running maximum. -/
def maxCtr (c : Ctr) (i j v : Nat) (s : State) : State :=
  { s with ctrs := tset s.ctrs (c, i, j) (max (ctr s c i j) v) }

/-! ### Performance counters (R353, Tables 18-2, 18-3) -/

/-- A PMC's value wraps modulo 2^48 and then sets OVF. -/
def pmcAdvance (ctl : BitVec 64) (v n : Nat) : BitVec 64 × Nat :=
  if v + n < 2 ^ 48 then (ctl, v + n) else (ctl ||| BitVec.ofNat 64 (2 ^ 12), (v + n) % 2 ^ 48)

/-- Whether a control word counts an event code under a qualifier: EN set, OCC as the code's kind asks, EVENT equal,
and ALL set or QUAL equal. -/
def pmcMatches (ctl : BitVec 64) (code qual : Nat) : Bool :=
  ctl.getLsbD 10 && (ctl.getLsbD 11 == decide (code % 256 ≥ 128)) && field ctl 0 10 == code &&
    (ctl.getLsbD 30 || field ctl 16 14 == qual)

/-- Adds to one PMC. -/
def pmcAdd (key : Nat × Nat) (n : Nat) (s : State) : State :=
  let (c', v') := pmcAdvance (tget s.pmu.ctl key 0) (tget s.pmu.pmc key 0) n
  { s with pmu := { s.pmu with ctl := tset s.pmu.ctl key c', pmc := tset s.pmu.pmc key v' } }

/-- The PMCs of a block that count an occurrence. -/
def pmcsOf (s : State) (block code qual : Nat) : List Nat :=
  (List.range 8).filter (fun i => pmcMatches (tget s.pmu.ctl (block, i) 0) code qual)

/-- An event occurs `n` times in a block: where a PMC counts it, it is added at the cycle's end (R353). -/
def pmcCount (block code qual n : Nat) (s : State) : State :=
  if (pmcsOf s block code qual).isEmpty then s
  else { s with pmu := { s.pmu with now := s.pmu.now ++ [(block, code, qual, n)] } }

/-! ### Events (R313) -/

/-- An edge source occurs: its pending bit is set from the end of the cycle on. -/
def raise (src : Nat) (s : State) : State := { s with evc := { s.evc with setNow := insertNew src s.evc.setNow } }

/-- The state after a free value's draw. -/
def drawn (s : State) : State := { s with fresh := s.fresh + 1 }

/-- A free value's draw: the counter that makes each draw fresh (log entry 4). -/
def draw (s : State) : Nat × State := (s.fresh, drawn s)

/-- A number of draws. -/
def draws (n : Nat) (s : State) : State := { s with fresh := s.fresh + n }

/-- A word whose bits, lowest first, are given. -/
def bitWord (l : List Bool) : Nat := l.foldr (fun b n => b.toNat + 2 * n) 0

/-- A register's or record's value with its undefined bits free (R8): `mask` marks them, `n` is the draw. -/
def withUndefined (v mask n : Nat) : Nat := v + (Config.undefinedRead n &&& mask)

/-- A number in `n` bytes, little-endian (R6). -/
def leNum (n v : Nat) : List Byte := (List.range n).map (fun i => BitVec.ofNat 8 (v / 256 ^ i))

/-- The mask of the bits from `lo` to `hi`. -/
def bitsMask (hi lo : Nat) : Nat := 2 ^ (hi + 1) - 2 ^ lo

/-! ### The service log (R359, R360, R348) -/

/-- Writes a record to the event area, which holds 1,048,576; the oldest is overwritten (R361). -/
def logKeep (r : LogRec) (s : State) : State :=
  if s.log.recs.length ≥ 1048576 then
    bump .logOverwritten 0 0 { s with log := { s.log with recs := s.log.recs.drop 1 ++ [r] } }
  else { s with log := { s.log with recs := s.log.recs ++ [r] } }

/-- Adds a record; during a firmware switch's blackout it is buffered. -/
def logAdd (cls : LogClass) (kind : String) (world : Option World) (vals : List Nat) (s : State) : State :=
  let r : LogRec := ⟨cls, kind, world, s.time.orbit, vals⟩
  if s.qcp.blackout.isSome then { s with log := { s.log with buffered := s.log.buffered ++ [r] } }
  else logKeep r s

/-- Accumulates a summary quantity (R360). -/
def logSum (cls : LogClass) (what : String) (n : Nat) (s : State) : State :=
  { s with log := { s.log with summary := tset s.log.summary (cls, what) (tget s.log.summary (cls, what) 0 + n) } }

/-- Adds to what the service log accumulates over the module's life (R56, R224, Table 18-4). -/
def lifeAdd (c : Ctr) (i j n : Nat) (s : State) : State :=
  { s with log := { s.log with accum := tset s.log.accum (c, i, j) (tget s.log.accum (c, i, j) 0 + n) } }

/-- Counts in a counter that the service log accumulates too. -/
def bumpLife (c : Ctr) (i j n : Nat) (s : State) : State := lifeAdd c i j n (bumpBy c i j n s)

/-! ### Time -/

/-- The position of a cycle in its headway. -/
def hwPos (s : State) : Nat := s.time.now - s.time.hwStart

/-- Cycles from now to the first cycle of orbit `t` on the present grid (R11, R13). -/
def cyclesToOrbit (s : State) (t : Nat) : Nat :=
  (s.time.hwStart + s.time.hwLen + (6249 - s.time.headway) * 256 + (t - s.time.orbit - 1) * 1600000) - s.time.now

/-- Counted headways since reset: the headway in which a happening lies, whatever steps the clock took. -/
def hwNow (s : State) : Nat := s.time.hwCount

/-- A command acts within one cycle: its meaning moves neither the clock nor the queue of waiting commands (R276; log entry 2). -/
def within (s : State) (o : Host.Outcome State Fault Refusal) : Host.Outcome State Fault Refusal :=
  match o with
  | .next t => .next { t with pending := s.pending, time := s.time }
  | .fault r => .fault r
  | .refused r => .refused r

/-- A register write takes effect at the end of its cycle (R9). -/
def deferWrite (c : Late) (s : State) : State := { s with late := s.late ++ [c] }

/-- A part of the cycle's work that is done once. -/
def once (n : Nat) (f : State → State) (s : State) : State :=
  if s.ran.contains n then s else f { s with ran := n :: s.ran }

/-! ### Parts -/

def portOf (s : State) (p : Nat) : Option PortSt := tfind s.ports.ports p
def setPort (p : Nat) (ps : PortSt) (s : State) : State :=
  { s with ports := { s.ports with ports := tset s.ports.ports p ps } }
def updPort (p : Nat) (f : PortSt → PortSt) (s : State) : State :=
  match portOf s p with
  | some ps => setPort p (f ps) s
  | none => s

def laneOf (s : State) (l : Nat) : LaneSt := tget s.ports.lanes l LaneSt.init
def setLane (l : Nat) (v : LaneSt) (s : State) : State :=
  { s with ports := { s.ports with lanes := tset s.ports.lanes l v } }

def cartOf (s : State) (c : Nat) : CartSt := tget s.ports.carts c CartSt.init
def setCart (c : Nat) (v : CartSt) (s : State) : State :=
  { s with ports := { s.ports with carts := tset s.ports.carts c v } }

def bufOf (s : State) (k : Nat) : BufSt := tget s.egr.bufs k BufSt.init
def updBuf (k : Nat) (f : BufSt → BufSt) (s : State) : State :=
  { s with egr := { s.egr with bufs := tset s.egr.bufs k (f (bufOf s k)) } }

/-- Elastic pool cells of a slice that become free in this cycle; they count as free from the next (R183). -/
def noteFreed (k n : Nat) (s : State) : State :=
  { s with egr := { s.egr with freed := tset s.egr.freed k (tget s.egr.freed k 0 + n) } }

def queueOf (s : State) (p q : Nat) : QueueSt := tget s.egr.queues (p, q) QueueSt.init
def updQueue (p q : Nat) (f : QueueSt → QueueSt) (s : State) : State :=
  { s with egr := { s.egr with queues := tset s.egr.queues (p, q) (f (queueOf s p q)) } }

def sideOf (s : State) (k : Nat) : SideSt := tget s.egr.sides k SideSt.init
def updSide (k : Nat) (f : SideSt → SideSt) (s : State) : State :=
  { s with egr := { s.egr with sides := tset s.egr.sides k (f (sideOf s k)) } }

def chanOf (s : State) (c : Nat) : ChanSt := tget s.hbm.chans c ChanSt.init
def updChan (c : Nat) (f : ChanSt → ChanSt) (s : State) : State :=
  { s with hbm := { s.hbm with chans := tset s.hbm.chans c (f (chanOf s c)) } }

def agentOf (s : State) (k : Nat) : AgentSt := tget s.agents k AgentSt.init
def updAgent (k : Nat) (f : AgentSt → AgentSt) (s : State) : State :=
  { s with agents := tset s.agents k (f (agentOf s k)) }

def threadOf (a : AgentSt) (t : Nat) : Thread := tget a.threads t Thread.init
def updThread (k t : Nat) (f : Thread → Thread) (s : State) : State :=
  updAgent k (fun a => { a with threads := tset a.threads t (f (threadOf a t)) }) s

def ucOf (s : State) (k : Nat) : UcSlice := tget s.ucode.slices k UcSlice.init
def updUc (k : Nat) (f : UcSlice → UcSlice) (s : State) : State :=
  { s with ucode := { s.ucode with slices := tset s.ucode.slices k (f (ucOf s k)) } }

def pinOf (s : State) (p : Nat) : PinSt := tget s.clock.pins p PinSt.init
def updPin (p : Nat) (f : PinSt → PinSt) (s : State) : State :=
  { s with clock := { s.clock with pins := tset s.clock.pins p (f (pinOf s p)) } }

def ringOf (s : State) (w : World) (k : RingKind) : RingSt := tget s.qcp.rings (w, k) RingSt.init
def updRing (w : World) (k : RingKind) (f : RingSt → RingSt) (s : State) : State :=
  { s with qcp := { s.qcp with rings := tset s.qcp.rings (w, k) (f (ringOf s w k)) } }

def frameOf (s : State) (fid : Nat) : Option Frame := s.frames.find? (fun f => f.fid = fid)
def setFrame (f : Frame) (s : State) : State :=
  { s with frames := s.frames.map (fun g => if g.fid = f.fid then f else g) }
def dropFrame (fid : Nat) (s : State) : State := { s with frames := s.frames.filter (fun g => g.fid ≠ fid) }

/-- The slice a port lies in. -/
def sliceOfPort (p : Nat) : Nat := p / 32

/-- The world an object's attribute gives it; non-secure unless assigned (Table 16-1). -/
def worldOf (s : State) (k : WObj) (n : Nat) : World := tget s.world.attrs (k, n) .nonSecure

/-- Slices halted until the next reset (R342). -/
def sliceHalted (s : State) (k : Nat) : Bool := s.fab.halted.contains k

/-- Live slices, ascending. -/
def liveSlices (s : State) : List Nat := allSlices.filter (fun k => !sliceHalted s k)

/-! ### Modes (Table 17-1) -/

/-- Modes in which frames are forwarded: SERVICE, HOLDOVER and the open phases of DRAIN; none on hold-up energy (R331). -/
def forwarding (s : State) : Bool :=
  !s.mmc.holdUp && match s.mode.mode with
  | .service | .holdover => true
  | .drain => s.mode.phase == .hold || s.mode.phase == .emptying
  | _ => false

/-- Modes in which an ingress MAC admits frames (R343 closes it at EMPTYING). -/
def ingressOpen (s : State) : Bool :=
  !s.mmc.holdUp && match s.mode.mode with
  | .service | .holdover => true
  | .drain => s.mode.phase == .hold
  | _ => false

/-- DRAIN with its ingress closed (R341). -/
def drainClosed (s : State) : Bool :=
  s.mode.mode == .drain && !(s.mode.phase == .hold || s.mode.phase == .none)

/-- A change of mode raises MODE_CHANGE (R337). -/
def enterMode (m : Mode) (s : State) : State := raise 1488 { s with mode := { s.mode with mode := m } }

end Sys2Proof.Machine
end

