-- ==== Sys2Proof/Machine/Protocol.lean ====
section
/-! DEFINITION. How a protocol command runs (chapter 13): fetch, order, the checks of Table 13-2, its one reply or PENDING
and final reply, and the tablets it takes (chapter 17). Every protocol row's meaning is one use of `qcp`. -/

namespace Sys2Proof.Machine

/-- The World column of a command table (R273). `owned none` names no existing object and passes step 5. -/
inductive WRule where
  | secure | nonSecure | both
  | owned (w : Option World)
  deriving DecidableEq, Repr

/-- What an opcode's row says of it: code, world rule, whether R341 counts it among the commands that change nothing,
whether its parameters name host memory (R286), and whether the mode and the life-cycle state permit it now. -/
structure Op where
  code   : Nat
  world  : WRule := .both
  reads  : Bool := false
  host   : Bool := false
  modeOk : Bool := true
  lifeOk : Bool := true
  deriving DecidableEq, Repr

/-- What step 8 and the command's effect come to. -/
inductive Out where
  /-- Refused with no effect. -/
  | refuse (st : Status) (d : Option Detail)
  /-- Committed with its results; the state is the effect's. -/
  | done (rs : List RField) (s : State)
  /-- Committed with PENDING (R276). -/
  | pend (s : State)
  /-- Started; its commit point comes later. -/
  | start (s : State)
  /-- Ended with a status other than OK and an effect its rule states. -/
  | reply (st : Status) (d : Option Detail) (rs : List RField) (s : State)
  deriving DecidableEq, Repr

/-- A BAD_PARAM refusal naming the parameter at a byte offset of the command. -/
def badParam (off : Nat) : Out := .refuse .badParam (some (.param off))

/-- A BAD_PARAM refusal naming a table entry, map entry or lane. -/
def badEntry (e : Nat) : Out := .refuse .badParam (some (.entry e))

def fld (name : String) (v : Nat) : RField := ⟨name, 8, [v]⟩
def flds (name : String) (vs : List Nat) : RField := ⟨name, 8, vs⟩
def bytesFld (name : String) (bs : List Byte) : RField := ⟨name, 1, bs.map (fun b => b.toNat)⟩
def flag (name : String) (b : Bool) : RField := ⟨name, 1, [b.toNat]⟩

def worldIx : World → Nat
  | .nonSecure => 0
  | .secure => 1

/-- The world a ring's commands act for (R266, R284). -/
def ringWorld (s : State) : Ring → Option World
  | .secure => some .secure
  | .nonSecure => some .nonSecure
  | .inband => s.qcp.inband.map (fun b => b.world)

/-- SOURCE of a HOLDER detail (Table 13-4). -/
def ringSource : Ring → Nat
  | .secure => 1
  | .nonSecure => 2
  | .inband => 3

/-- Whether commands run at all: from BOOT to HALT, outside the firmware switch's blackout (R282), with firmware running
(R332) and main power present. -/
def protocolRuns (s : State) : Bool :=
  s.mode.mode != .standby && s.mode.mode != .sanitize && s.qcp.blackout.isNone && !s.mmc.noImage &&
    !s.mmc.holdUp

/-- How many commands a ring may have in execution (R278, R286). -/
def execLimit : Ring → Nat
  | .inband => 64
  | _ => 4096

def inExec (s : State) (r : Ring) : Nat := (s.qcp.exec.filter (fun e => e.hdr.ring = r)).length

/-- The entry a row's command has, fetched and not yet started. -/
def isFetched (h : Hdr) (code : Nat) (e : ExecEnt) : Bool := e.hdr == h && e.opcode == code && e.st == .fetched

/-- A fetch (R269): the command joins those in execution. -/
def fetchCmd (h : Hdr) (code : Nat) (inb : Option (Nat × BitVec 48)) (s : State) : State :=
  let w := ((ringWorld s h.ring).map worldIx).getD 0
  let s := { s with qcp := { s.qcp with exec := s.qcp.exec ++ [⟨h, code, .fetched, s.time.now, 0, inb⟩] } }
  pmcCount 45 0x301 w 1 (bump .cmdsFetched w 0 (maxCtr .execMax w 0 (inExec s h.ring) s))

/-- Whether the final reply of a deferred command fetched no later waits to be written. -/
def finalWaits (h : Hdr) (code : Nat) (s : State) : Bool :=
  let at_ := ((s.qcp.exec.find? (isFetched h code)).map (fun e => e.fetched)).getD s.time.now
  (tget s.qcp.waiting h.ring []).any (fun r => r.deferred.any (fun t => decide (t ≤ at_)))

/-- Whether an earlier command still holds back this one (R277): an ordered one before its commit point, or with WAIT_PENDING a deferred
one whose final reply is not written. QCP_CANCEL (0x0103) is always UNORDERED. -/
def heldBack (h : Hdr) (code : Nat) (s : State) : Bool :=
  let before := s.qcp.exec.takeWhile (fun e => !isFetched h code e)
  let mine := before.filter (fun e => e.hdr.ring = h.ring)
  let un (x : Hdr) (c : Nat) : Bool := x.unordered || c == 0x0103
  (!un h code && mine.any (fun e => !un e.hdr e.opcode && e.st != .pending)) ||
    (h.waitPending && code != 0x0103 && (mine.any (fun e => e.st == .pending) || finalWaits h code s))

/-- ELAPSED_US (Table 13-3). -/
def elapsedUs (s : State) (h : Hdr) (code : Nat) : Nat :=
  match s.qcp.exec.find? (fun e => e.hdr == h && e.opcode == code) with
  | some e => min ((s.time.now - e.fetched) / 1600) 0xFFFFFFFF
  | none => 0

/-- The length of a reply in bytes (R274): header, detail, results. -/
def replyBytes (d : Option Detail) (rs : List RField) : Nat :=
  32 + (if d.isSome then 16 else 0) + (rs.map (fun r => r.width * r.vals.length)).sum

/-- Whether a reply fits its ring (R274). A reply ring that is not enabled sets no limit of its own. -/
def replyFits (s : State) (r : Ring) (d : Option Detail) (rs : List RField) : Bool :=
  let n := replyBytes d rs
  n ≤ 16384 &&
    match r with
    | .inband => true
    | .secure => let g := ringOf s .secure .reply; !g.enable || (n + 63) / 64 ≤ 2 ^ g.log2 - 1
    | .nonSecure => let g := ringOf s .nonSecure .reply; !g.enable || (n + 63) / 64 ≤ 2 ^ g.log2 - 1

/-- The command ring of a world that is disabled and whose every fetched command has written its final reply has both indices 0 (R383,
Table 20-4). -/
def settleRing (r : Ring) (s : State) : State :=
  let settle (w : World) : State :=
    if !(ringOf s w .command).enable && inExec s r == 0 && (tget s.qcp.waiting r []).isEmpty then
      updRing w .command (fun g => { g with prod := 0, cons := 0, lap := 0 }) s
    else s
  match r with
  | .secure => settle .secure
  | .nonSecure => settle .nonSecure
  | .inband => s

/-- Queues a reply (R276): PENDING leaves the command in execution, every other status ends it. While PERST# is low a
ring's replies are discarded and counted (R366). -/
def answer (h : Hdr) (code : Nat) (st : Status) (d : Option Detail) (rs : List RField) (s : State) : State :=
  let mine (e : ExecEnt) : Bool := e.hdr == h && e.opcode == code
  let inb := (s.qcp.exec.find? mine).bind (fun e => e.inb)
  let late := (s.qcp.exec.find? mine).bind (fun e => if e.st = .pending then some e.fetched else none)
  let r : Reply := ⟨st, h, code, elapsedUs s h code, d, rs, inb, late⟩
  let exec :=
    if st = .pending then s.qcp.exec.map (fun e => if mine e then { e with st := .pending } else e)
    else s.qcp.exec.eraseP mine
  let s := { s with qcp := { s.qcp with exec := exec } }
  if s.mmc.perst && h.ring != .inband then settleRing h.ring (bump .pcieResetDiscard 0 0 s)
  else { s with qcp := { s.qcp with waiting := tset s.qcp.waiting h.ring (tget s.qcp.waiting h.ring [] ++ [r]) } }

/-- Marks a command as started: its commit point comes later. -/
def markStarted (h : Hdr) (code : Nat) (s : State) : State :=
  { s with qcp := { s.qcp with
      exec := s.qcp.exec.map (fun e => if isFetched h code e then { e with st := .started } else e) } }

/-- A cross-world access is aborted (R323): counted for the world that attempted it, raised, logged with the requester, the object and
the operation as log entry 125 numbers them. -/
def violateBy (who object op : Nat) (w : World) (s : State) : State :=
  logAdd .security "WORLD_VIOLATION" (some w) [who, object, op] (raise 1491 (bump .worldViolations (worldIx w) 0 s))

/-- A command's violation: its object is that of its opcode's group. -/
def violate (w : World) (code : Nat) (s : State) : State := violateBy 0 (code / 256) code w s

/-- Step 5 of Table 13-2. -/
def worldOk (rule : WRule) (w : World) : Bool :=
  match rule with
  | .both => true
  | .secure => w == .secure
  | .nonSecure => w == .nonSecure
  | .owned none => true
  | .owned (some o) => w == o

/-- Step 6 of Table 13-2: R341's restriction, and the opcode's own. -/
def modeAllows (s : State) (op : Op) : Bool :=
  op.modeOk &&
    (op.reads || !(s.mode.mode == .halt || drainClosed s) || (s.mode.mode == .halt && op.code == 0x0113))

/-- The checks of steps 5 to 8 and the command's outcome, for a command that starts now. -/
def runCmd (op : Op) (h : Hdr) (w : World) (body : State → Out) (s : State) : State :=
  if !worldOk op.world w then answer h op.code .worldViolation none [] (violate w op.code s)
  else if !modeAllows s op then answer h op.code .modeNotPermitted none [] s
  else if !op.lifeOk then answer h op.code .lifecycleNotPermitted none [] s
  else if op.host && h.ring == .inband then answer h op.code .badParam (some (.param 0x20)) [] s
  else
    match body s with
    | .refuse st d => answer h op.code st d [] s
    | .done rs s' =>
      if replyFits s h.ring none rs then answer h op.code .ok none rs s' else answer h op.code .badLength none [] s
    | .pend s' => answer h op.code .pending none [] s'
    | .start s' => markStarted h op.code s'
    | .reply st d rs s' => answer h op.code st d rs s'

/-- A protocol row: the command is fetched where it has not been, waits where R277 holds it back, and else runs to its
commit point in this step. -/
def qcp (op : Op) (h : Hdr) (body : State → Out) (s : State) : State :=
  if !protocolRuns s then s
  else
    match ringWorld s h.ring with
    | none => s
    | some w =>
      let there := s.qcp.exec.any (isFetched h op.code)
      if !there && (decide (inExec s h.ring ≥ execLimit h.ring) || (s.mmc.perst && h.ring != .inband)) then s
      else
        let s1 := if there then s else fetchCmd h op.code none s
        if heldBack h op.code s1 then s1 else runCmd op h w body s1

/-! ### Tablets (R345, R346) -/

/-- Table 17-6; every pair not shown conflicts. -/
def compatible (a b : Activity) : Bool :=
  match a, b with
  | .rv, .rv | .rv, .ag | .rv, .ul | .rv, .al | .rv, .ar => true
  | .ag, .rv | .ag, .ag | .ag, .ul | .ag, .al => true
  | .ul, .rv | .ul, .ag | .ul, .al | .ul, .ar => true
  | .al, .rv | .al, .ag | .al, .ul => true
  | .ar, .rv | .ar, .ul => true
  | _, _ => false

/-- The HOLDER detail of a tablet. -/
def holderOf (t : Tablet) : Detail := .holder t.source t.opcode t.seq t.tag

/-- The earliest holder that conflicts with an activity on any of the domains. -/
def tabletConflict (a : Activity) (ds : List Domain) (s : State) : Option Tablet :=
  s.mode.tablets.find? (fun t => ds.contains t.dom && !compatible t.act a)

/-- Takes the tablets of the domains for a command. -/
def tabletTake (a : Activity) (ds : List Domain) (h : Hdr) (code : Nat) (s : State) : State :=
  { s with mode := { s.mode with
      tablets := s.mode.tablets ++ ds.map (fun d => ⟨d, a, ringSource h.ring, code, h.seq, h.tag⟩) } }

/-- Releases every tablet a command holds. -/
def tabletFree (h : Hdr) (code : Nat) (s : State) : State :=
  { s with mode := { s.mode with
      tablets := s.mode.tablets.filter
        (fun t => !(t.source == ringSource h.ring && t.opcode == code && t.seq == h.seq && t.tag == h.tag)) } }

/-- Runs a body under the tablets of its domains, refusing with TABLET_HELD. -/
def withTablets (a : Activity) (ds : List Domain) (s : State) (k : Out) : Out :=
  match tabletConflict a ds s with
  | some t => .refuse .tabletHeld (some (holderOf t))
  | none => k

/-- The final reply of a deferred command, which also releases its tablets. -/
def finish (h : Hdr) (code : Nat) (st : Status) (d : Option Detail) (rs : List RField) (s : State) : State :=
  tabletFree h code (answer h code st d rs s)

/-- Slice domains. -/
def sliceDoms (ks : List Nat) : List Domain := ks.map Domain.slice

end Sys2Proof.Machine
end

