-- ==== Sys2Proof/Machine/Arrays.lean ====
section
/-! DEFINITION. The versioned arrays (chapter 4): rows, update steps, searches, and the plans of rule and route changes. -/

namespace Sys2Proof.Machine

/-! ### Rows and planes -/

/-- The bit a version uses in a plane mask (R80). -/
def planeBit (v : Nat) : BitVec 4 := BitVec.ofNat 4 (2 ^ (v % 4))

/-- An entry is present in version v: valid, and its bit for plane v mod 4 set (R80, R86). -/
def Row.inV (r : Row) (v : Nat) : Bool := r.valid && r.planes.getLsbD (v % 4)

/-- A row is free when its plane mask is empty (R89, R101). -/
def Row.free (r : Row) : Bool := r.planes == 0

def liveRow (s : State) (k : Nat) (a : Arr) (i : Nat) : Row := tget s.arr.live (k, a, i) Row.init
def shadowRow (s : State) (k : Nat) (a : Arr) (i : Nat) : Row := tget s.arr.shadow (k, a, i) Row.init

/-- The listed rows of one array of one slice. -/
def rowsOf (t : Tab (Nat × Arr × Nat) Row) (k : Nat) (a : Arr) : List (Nat × Row) :=
  t.filterMap (fun e => if e.1.1 = k ∧ e.1.2.1 = a then some (e.1.2.2, e.2) else none)

/-- The step that sets or clears one bit of a plane mask. -/
def setBit4 (m : BitVec 4) (p : Nat) (b : Bool) : BitVec 4 :=
  if b then m ||| BitVec.ofNat 4 (2 ^ p) else m &&& ~~~ (BitVec.ofNat 4 (2 ^ p))

/-- A cover word set in a pivot row. -/
def setCover (b : Body) (p : Nat) (c : Option (BitVec 24 × Nat)) : Body :=
  match b with
  | .pivot t f a l k cs => .pivot t f a l k (cs.set p c)
  | b => b

/-- A step's effect on its row (Table 4-2). -/
def applyRow (op : StepOp) (r : Row) : Row :=
  match op with
  | .invalidate => { r with valid := false, planes := 0 }
  | .write b m => { r with body := b, planes := m }
  | .validate => { r with valid := true }
  | .planeSet p => { r with planes := setBit4 r.planes p true }
  | .planeClear p => { r with planes := setBit4 r.planes p false }
  | .coverSet p c => { r with body := setCover r.body p c }
  | .search _ _ => r
  | .planeCopy src dst => { r with planes := setBit4 r.planes dst (r.planes.getLsbD src),
                                   body := match r.body with
                                     | .pivot t f a l k cs => .pivot t f a l k (cs.set dst (cs.getD src none))
                                     | b => b }
  | .planeClearAll p => { r with planes := setBit4 r.planes p false }
  | .planeWork _ _ => r

/-- A step's effect on one slice's rows. A plane copy and a plane clear act on every row of their array (R80, R83). -/
def applyStep (t : Tab (Nat × Arr × Nat) Row) (k : Nat) (st : Step) : Tab (Nat × Arr × Nat) Row :=
  match st.op with
  | .planeCopy _ _ | .planeClearAll _ => t.map (fun e => if e.1.1 = k ∧ e.1.2.1 = st.arr then (e.1, applyRow st.op e.2) else e)
  | .search _ _ | .planeWork _ _ => t
  | _ => tset t (k, st.arr, st.row) (applyRow st.op (tget t (k, st.arr, st.row) Row.init))

/-! ### Live versions (Table 3-9) -/

def isOpen (s : State) (v : Nat) : Bool := s.ver.opened == some v && s.ver.commit.isNone
def isRetained (s : State) (v : Nat) : Bool := s.ver.retained.any (fun r => r.v = v)
def isLive (s : State) (v : Nat) : Bool := s.ver.current == v || s.ver.opened == some v || isRetained s v
def liveCount (s : State) : Nat :=
  1 + (if s.ver.opened.isSome then 1 else 0) + s.ver.retained.length + s.ver.clearing.length

/-! ### Rule search (R102-R106) -/

/-- An entry of the rule array as a search sees it. -/
structure RuleEnt where
  idx    : Nat
  wide   : Bool
  prio   : Nat
  action : Nat
  value  : BitVec 960
  mask   : BitVec 960
  deriving DecidableEq, Repr

/-- The entry a row starts in version v: a narrow row, or an even row whose pair has WIDE set too (R103). -/
def ruleEnt (s : State) (k v i : Nat) (r : Row) : Option RuleEnt :=
  if !r.inV v then none
  else
    match r.body with
    | .rule val msk false p a => some ⟨i, false, p, a, val.setWidth 960, msk.setWidth 960⟩
    | .rule val msk true p a =>
      if i % 2 = 0 then
        match liveRow s k .rule (i + 1) with
        | ⟨true, _, .rule val' msk' true _ _⟩ => some ⟨i, true, p, a, val' ++ val, msk' ++ msk⟩
        | _ => none
      else none
    | _ => none

/-- The rows of a partition: first and one past the last; none where the number is not set (R104). -/
def partRange (s : State) (part : Nat) : Option (Nat × Nat) :=
  match s.arr.parts[part]? with
  | none => none
  | some (lo, _) =>
    match s.arr.parts[part + 1]? with
    | none => some (lo, 16384)
    | some (hi, _) => some (lo, hi)

/-- The partition that contains an index, and its world. -/
def partOfIdx (s : State) (i : Nat) : Option (Nat × World) :=
  if i < 16384 then
    match (s.arr.parts.filter (fun p => p.1 ≤ i)).getLast? with
    | some (lo, w) => some (lo, w)
    | none => none
  else none

/-- The world of a partition; none where the number is not set. -/
def partWorld (s : State) (part : Nat) : Option World := (s.arr.parts[part]?).map (fun p => p.2)

/-- The matching entries of a partition, by width, in version v. -/
def ruleMatches (s : State) (k v part : Nat) (wide : Bool) (key smask : BitVec 960) : List RuleEnt :=
  match partRange s part with
  | none => []
  | some (lo, hi) =>
    ((rowsOf s.arr.live k .rule).filterMap (fun e => ruleEnt s k v e.1 e.2)).filter
      (fun e => e.wide == wide && decide (lo ≤ e.idx) && decide (e.idx < hi) &&
        ((key ^^^ e.value) &&& e.mask &&& smask) == 0)

/-- Whether an entry beats another: higher PRIO, then lower index (R105). -/
def ruleBeats (a b : RuleEnt) : Bool := a.prio > b.prio || (a.prio == b.prio && a.idx < b.idx)

def bestOf (l : List RuleEnt) : Option RuleEnt :=
  l.foldl (fun b e => match b with
    | none => some e
    | some x => if ruleBeats e x then some e else some x) none

/-- The result word (Table 4-8), its reserved bits apart, and the best match's ACTION. -/
def ruleResult (l : List RuleEnt) : BitVec 32 × Nat :=
  match bestOf l with
  | none => (0, 0)
  | some b =>
    match bestOf (l.filter (fun e => e.idx ≠ b.idx)) with
    | none => (BitVec.ofNat 32 (b.idx + 2 ^ 14), b.action)
    | some c => (BitVec.ofNat 32 (b.idx + 2 ^ 14 + 2 ^ 15 + c.idx * 2 ^ 16), b.action)

def ruleSearchAt (s : State) (k v part : Nat) (wide : Bool) (key : BitVec 960) : BitVec 32 × Nat :=
  ruleResult (ruleMatches s k v part wide key (BitVec.allOnes 960))

/-! ### Route search (R94) -/

/-- The bits of an address under a prefix length. -/
def prefixTop (v6 : Bool) (a : BitVec 128) (len : Nat) : Nat :=
  a.toNat / 2 ^ ((if v6 then 128 else 32) - len)

def prefixCovers (v6 : Bool) (p : BitVec 128) (len : Nat) (a : BitVec 128) : Bool :=
  prefixTop v6 p len == prefixTop v6 a len

/-- A pivot of a table as a plan or search sees it. -/
structure PivotEnt where
  row    : Nat
  addr   : BitVec 128
  len    : Nat
  bucket : Nat
  covers : List (Option (BitVec 24 × Nat))
  deriving DecidableEq, Repr

/-- A route as a plan or search sees it; `row` is its head unit, 64 × bucket + unit. -/
structure RouteEnt where
  row    : Nat
  addr   : BitVec 128
  len    : Nat
  result : BitVec 24
  deriving DecidableEq, Repr

def pivotsIn (t : Tab (Nat × Arr × Nat) Row) (k v table : Nat) (v6 : Bool) : List PivotEnt :=
  (rowsOf t k .pivot).filterMap (fun e =>
    match e.2.body with
    | .pivot tb f a l b cs => if e.2.inV v && tb == table && f == v6 then some ⟨e.1, a, l, b, cs⟩ else none
    | _ => none)

def routesIn (t : Tab (Nat × Arr × Nat) Row) (k v : Nat) (v6 : Bool) (bucket : Nat) : List RouteEnt :=
  (rowsOf t k .route).filterMap (fun e =>
    match e.2.body with
    | .route f a l r => if e.2.inV v && f == v6 && e.1 / 64 == bucket then some ⟨e.1, a, l, r⟩ else none
    | _ => none)

/-- The lowest-indexed pivot present in v whose key matches. -/
def pivotMatch (t : Tab (Nat × Arr × Nat) Row) (k v table : Nat) (v6 : Bool) (a : BitVec 128) : Option PivotEnt :=
  ((pivotsIn t k v table v6).filter (fun p => prefixCovers v6 p.addr p.len a)).foldl
    (fun b p => match b with
      | none => some p
      | some x => if p.row < x.row then some p else some x) none

def longestRoute (l : List RouteEnt) : Option RouteEnt :=
  l.foldl (fun b r => match b with
    | none => some r
    | some x => if r.len > x.len then some r else some x) none

/-- The bucket's longest route that covers an address, or else the pivot's cover for the version's plane. -/
def bucketMatch (t : Tab (Nat × Arr × Nat) Row) (k v : Nat) (v6 : Bool) (p : PivotEnt) (a : BitVec 128) :
    Option (BitVec 24 × Nat) :=
  match longestRoute ((routesIn t k v v6 p.bucket).filter (fun r => prefixCovers v6 r.addr r.len a)) with
  | some r => some (r.result, r.len)
  | none => p.covers.getD (v % 4) none

def routeSearchAt (s : State) (k v table : Nat) (v6 : Bool) (a : BitVec 128) : Option (BitVec 24 × Nat) :=
  match pivotMatch s.arr.live k v table v6 a with
  | none => none
  | some p => bucketMatch s.arr.live k v v6 p a

/-! ### Step queues (R90) -/

def queueCap : Nat := 1048576

def stepsOf (s : State) (k : Nat) : List Step := tget s.arr.queues k []

/-- Whether a plan's steps fit in the step queue of every slice it names. -/
def stepsFit (s : State) (ps : List (Nat × List Step)) : Bool :=
  ps.all (fun p => (stepsOf s p.1).length + p.2.length ≤ queueCap)

/-- Queues one slice's steps and applies them to the shadow copy. -/
def queueOne (k : Nat) (ss : List Step) (s : State) : State :=
  let q := stepsOf s k ++ ss
  maxCtr .updateBacklogMax k 0 q.length
    { s with arr := { s.arr with queues := tset s.arr.queues k q,
                                 shadow := ss.foldl (fun t st => applyStep t k st) s.arr.shadow } }

def queueSteps (ps : List (Nat × List Step)) (s : State) : State :=
  ps.foldl (fun s p => queueOne p.1 p.2 s) s

/-- The versioned arrays, in the order in which the model copies and clears their planes (log entry 120). -/
def versionedArrays : List Arr := [.pivot, .route, .rule, .action, .nextHop, .ecmp, .lag, .mcast]

/-- The slots of a plane copy or a plane clear: the four of one headway in each array (R80, R83, R88). -/
def planeSteps (op : StepOp) : List Step :=
  let clear := match op with
    | .planeClearAll _ => true
    | _ => false
  versionedArrays.flatMap (fun a =>
    [⟨a, 0, .planeWork true clear⟩, ⟨a, 0, .planeWork false clear⟩, ⟨a, 0, .planeWork false clear⟩, ⟨a, 0, op⟩])

/-- New contents into a free row (R89). -/
def placeSteps (a : Arr) (row : Nat) (b : Body) (m : BitVec 4) : List Step :=
  [⟨a, row, .invalidate⟩, ⟨a, row, .write b m⟩, ⟨a, row, .validate⟩]

/-! ### Route plans (R95-R101) -/

/-- A plan in the making: the slice's rows with the steps so far applied, the steps, the pivot moves and the units
written. -/
structure Plan where
  rows  : Tab (Nat × Arr × Nat) Row
  steps : List Step
  moves : Nat
  units : Nat
  deriving DecidableEq, Repr

def Plan.emit (k : Nat) (ss : List Step) (p : Plan) : Plan :=
  { p with rows := ss.foldl (fun t st => applyStep t k st) p.rows, steps := p.steps ++ ss }

/-- Rows of the pivot array in use in any plane, with their lengths. -/
def pivotLens (t : Tab (Nat × Arr × Nat) Row) (k : Nat) : List (Nat × Nat) :=
  (rowsOf t k .pivot).filterMap (fun e =>
    if e.2.free then none
    else match e.2.body with
      | .pivot _ _ _ l _ _ => some (e.1, l)
      | _ => some (e.1, 0))

/-- The first free row from `lo`, trying `n` rows upwards. -/
def firstFree (used : List (Nat × Nat)) (lo : Nat) : Nat → Option Nat
  | 0 => none
  | n + 1 => if used.any (fun e => e.1 = lo) then firstFree used (lo + 1) n else some lo

/-- The last free row below `hi`, trying `n` rows downwards. -/
def lastFree (used : List (Nat × Nat)) : Nat → Option Nat
  | 0 => none
  | n + 1 => if used.any (fun e => e.1 = n) then lastFree used n else some n

/-- The first rows of the runs of equal length in rows lo to hi−1, ascending. -/
def groupStarts (used : List (Nat × Nat)) (lo hi : Nat) : List Nat :=
  (List.range (hi - lo)).filterMap (fun d =>
    let r := lo + d
    if d = 0 ∨ tget used r 0 ≠ tget used (r - 1) 0 then some r else none)

/-- The last rows of those runs, ascending. -/
def groupEnds (used : List (Nat × Nat)) (lo hi : Nat) : List Nat :=
  (List.range (hi - lo)).filterMap (fun d =>
    let r := lo + d
    if r + 1 = hi ∨ tget used r 0 ≠ tget used (r + 1) 0 then some r else none)

/-- A move (R99): copy, plane mask and covers included, then INVALIDATE the original. -/
def moveSteps (t : Tab (Nat × Arr × Nat) Row) (k src dst : Nat) : List Step :=
  let r := tget t (k, Arr.pivot, src) Row.init
  placeSteps .pivot dst r.body r.planes ++ [⟨.pivot, src, .invalidate⟩]

/-- Moves rows one after another, each into the row the move before it freed; answers the row left free. -/
def moveChain (k : Nat) : List Nat → Nat → Plan → Plan × Nat
  | [], free, p => (p, free)
  | src :: rest, free, p =>
    let p' := { p.emit k (moveSteps p.rows k src free) with moves := p.moves + 1 }
    moveChain k rest src p'

/-- Inserts a pivot (R98); none where no row is free. -/
def insertPivot (k : Nat) (b : Body) (len : Nat) (m : BitVec 4) (p : Plan) : Option Plan :=
  let used := pivotLens p.rows k
  let lo := (used.filter (fun e => e.2 > len)).foldl (fun x e => max x (e.1 + 1)) 0
  let hi := (used.filter (fun e => e.2 < len)).foldl (fun x e => min x e.1) 65536
  match firstFree used lo (hi - lo) with
  | some r => some (p.emit k (placeSteps .pivot r b m))
  | none =>
    let fd := firstFree used hi (65536 - hi)
    let fu := lastFree used lo
    let down (d : Nat) : Plan :=
      let (p', r) := moveChain k (groupStarts used hi d).reverse d p
      p'.emit k (placeSteps .pivot r b m)
    let up (u : Nat) : Plan :=
      let (p', r) := moveChain k (groupEnds used (u + 1) lo) u p
      p'.emit k (placeSteps .pivot r b m)
    match fd, fu with
    | none, none => none
    | some d, none => some (down d)
    | none, some u => some (up u)
    | some d, some u =>
      if (groupStarts used hi d).length ≤ (groupEnds used (u + 1) lo).length then some (down d) else some (up u)

/-- Whether a unit of route memory is free in every plane (R101): its own row, and an IPv6 route that starts one unit
before it. -/
def unitFree (t : Tab (Nat × Arr × Nat) Row) (k u : Nat) : Bool :=
  (tget t (k, Arr.route, u) Row.init).free &&
    (u % 2 == 0 ||
      match tget t (k, Arr.route, u - 1) Row.init with
      | ⟨_, m, .route true _ _ _⟩ => m == 0
      | _ => true)

/-- The lowest place in a bucket for a route: one unit, or an aligned pair for IPv6. -/
def placeInBucket (t : Tab (Nat × Arr × Nat) Row) (k bucket : Nat) (v6 : Bool) : Option Nat :=
  (List.range 64).findSome? (fun u =>
    let r := 64 * bucket + u
    if v6 then if u % 2 = 0 ∧ unitFree t k r ∧ unitFree t k (r + 1) then some r else none
    else if unitFree t k r then some r else none)

/-- The lowest bucket that no pivot in use names and that holds no unit in use, trying `n` buckets from `b`. -/
def freeBucket (t : Tab (Nat × Arr × Nat) Row) (k : Nat) (b : Nat) : Nat → Option Nat
  | 0 => none
  | n + 1 =>
    if (rowsOf t k .pivot).any (fun e => !e.2.free && match e.2.body with
        | .pivot _ _ _ _ b' _ => b' == b
        | _ => false) ||
       (rowsOf t k .route).any (fun e => !e.2.free && e.1 / 64 == b)
    then freeBucket t k (b + 1) n else some b

def unitsOf (v6 : Bool) : Nat := if v6 then 2 else 1

/-- Writes a route into a bucket, plane v only; none where the bucket has no place. -/
def writeRoute (k v bucket : Nat) (v6 : Bool) (a : BitVec 128) (len : Nat) (res : BitVec 24) (p : Plan) : Option Plan :=
  match placeInBucket p.rows k bucket v6 with
  | none => none
  | some r => some { p.emit k (placeSteps .route r (.route v6 a len res) (planeBit v)) with
      units := p.units + unitsOf v6 }

/-- The prefix of a length, as an address with its other bits clear. -/
def truncTo (v6 : Bool) (a : BitVec 128) (len : Nat) : BitVec 128 :=
  let w := if v6 then 128 else 32
  BitVec.ofNat 128 (a.toNat / 2 ^ (w - len) * 2 ^ (w - len))

/-- The split prefix q (R100): the longest that covers routes making up at least 32 units; lowest address among equals.
Tries lengths from `len` down. -/
def splitPrefix (v6 : Bool) (rs : List RouteEnt) : Nat → Option (BitVec 128 × Nat)
  | 0 => none
  | len + 1 =>
    let cands := (rs.filter (fun r => r.len ≥ len + 1)).map (fun r => truncTo v6 r.addr (len + 1))
    let good := cands.filter (fun q =>
      ((rs.filter (fun r => r.len ≥ len + 1 && prefixCovers v6 q (len + 1) r.addr)).length) * unitsOf v6 ≥ 32)
    match good with
    | [] => splitPrefix v6 rs len
    | q :: qs => some (qs.foldl (fun x y => if y.toNat < x.toNat then y else x) q, len + 1)

/-- Moves one route, in version v alone, from the old bucket to a new one (R100). -/
def relocate (k v bucket : Nat) (v6 : Bool) (r : RouteEnt) (p : Plan) : Option Plan :=
  match writeRoute k v bucket v6 r.addr r.len r.result p with
  | none => none
  | some p => some (p.emit k [⟨.route, r.row, .planeClear (v % 4)⟩])

def relocateAll (k v bucket : Nat) (v6 : Bool) : List RouteEnt → Plan → Option Plan
  | [], p => some p
  | r :: rs, p =>
    match relocate k v bucket v6 r p with
    | none => none
    | some p' => relocateAll k v bucket v6 rs p'

/-- Four cover words with one set. -/
def oneCover (v : Nat) (c : Option (BitVec 24 × Nat)) : List (Option (BitVec 24 × Nat)) :=
  [none, none, none, none].set (v % 4) c

/-- Puts a route into its pivot's bucket, splitting the bucket where it has no place (R100). `old` is the row of an
entry the same command removes, which the split leaves out. -/
def joinBucket (k v table : Nat) (v6 : Bool) (piv : PivotEnt) (a : BitVec 128) (len : Nat) (res : BitVec 24)
    (old : Option Nat) (p : Plan) : Option Plan :=
  match writeRoute k v piv.bucket v6 a len res p with
  | some p' => some p'
  | none =>
    let here := (routesIn p.rows k v v6 piv.bucket).filter (fun r => some r.row ≠ old)
    let all := here ++ [⟨0, a, len, res⟩]
    match splitPrefix v6 all (if v6 then 128 else 32) with
    | none => none
    | some (q, ql) =>
      if ql ≤ piv.len then none
      else
        match freeBucket p.rows k 0 65536 with
        | none => none
        | some nb =>
          let cover := match longestRoute (all.filter (fun r => r.len < ql && prefixCovers v6 r.addr r.len q)) with
            | some r => some (r.result, r.len)
            | none => piv.covers.getD (v % 4) none
          match insertPivot k (.pivot table v6 q ql nb (oneCover v cover)) ql (planeBit v) p with
          | none => none
          | some p =>
            match relocateAll k v nb v6 (here.filter (fun r => r.len ≥ ql && prefixCovers v6 q ql r.addr)) p with
            | none => none
            | some p =>
              let mine := if len ≥ ql && prefixCovers v6 q ql a then nb else piv.bucket
              writeRoute k v mine v6 a len res p

/-- COVER_SET on every pivot that a change of route (a, len) bears on. -/
def setCovers (k v table : Nat) (v6 : Bool) (a : BitVec 128) (len : Nat)
    (want : PivotEnt → Option (Option (BitVec 24 × Nat))) (p : Plan) : Plan :=
  ((pivotsIn p.rows k v table v6).filter (fun q => q.len > len && prefixCovers v6 a len q.addr)).foldl
    (fun p q => match want q with
      | some c => p.emit k [⟨.pivot, q.row, .coverSet (v % 4) c⟩]
      | none => p) p

/-- The longest pivot of a table present in v that covers a prefix. -/
def pivotFor (t : Tab (Nat × Arr × Nat) Row) (k v table : Nat) (v6 : Bool) (a : BitVec 128) (len : Nat) :
    Option PivotEnt :=
  ((pivotsIn t k v table v6).filter (fun q => q.len ≤ len && prefixCovers v6 q.addr q.len a)).foldl
    (fun b q => match b with
      | none => some q
      | some x => if q.len > x.len then some q else some x) none

/-- The route of exactly a prefix, present in v. -/
def findRoute (t : Tab (Nat × Arr × Nat) Row) (k v table : Nat) (v6 : Bool) (a : BitVec 128) (len : Nat) :
    Option (PivotEnt × RouteEnt) :=
  match pivotFor t k v table v6 a len with
  | none => none
  | some p =>
    match (routesIn t k v v6 p.bucket).find? (fun r => r.len = len ∧ prefixCovers v6 r.addr len a) with
    | some r => some (p, r)
    | none => none

/-- A pivot other than a root whose bucket holds no route present in v is removed from v (R95). -/
def dropEmpty (k v table : Nat) (v6 : Bool) (bucket : Nat) (p : Plan) : Plan :=
  if (routesIn p.rows k v v6 bucket).isEmpty then
    ((pivotsIn p.rows k v table v6).filter (fun q => q.bucket == bucket && decide (q.len > 0))).foldl
      (fun p q => p.emit k [⟨.pivot, q.row, .planeClear (v % 4)⟩]) p
  else p

/-- The plan of ROUTE_ADD on one slice (R95). -/
def planAdd (k v table : Nat) (v6 : Bool) (a : BitVec 128) (len : Nat) (res : BitVec 24) (p : Plan) : Option Plan :=
  let withRoot : Option Plan :=
    if (pivotsIn p.rows k v table v6).any (fun q => q.len = 0) then some p
    else
      match freeBucket p.rows k 0 65536 with
      | none => none
      | some b => insertPivot k (.pivot table v6 0 0 b [none, none, none, none]) 0 (planeBit v) p
  match withRoot with
  | none => none
  | some p =>
    match pivotFor p.rows k v table v6 a len with
    | none => none
    | some piv =>
      match joinBucket k v table v6 piv a len res none p with
      | none => none
      | some p => some (dropEmpty k v table v6 piv.bucket (setCovers k v table v6 a len (fun q =>
          match q.covers.getD (v % 4) none with
          | some (_, l) => if l < len then some (some (res, len)) else none
          | none => some (some (res, len))) p))

/-- The longest route of a table present in v, shorter than a pivot, that covers it: the next-best cover. -/
def bestCover (t : Tab (Nat × Arr × Nat) Row) (k v table : Nat) (v6 : Bool) (q : PivotEnt) :
    Option (BitVec 24 × Nat) :=
  let rs := (pivotsIn t k v table v6).flatMap (fun p => routesIn t k v v6 p.bucket)
  match longestRoute (rs.filter (fun r => r.len < q.len && prefixCovers v6 r.addr r.len q.addr)) with
  | some r => some (r.result, r.len)
  | none => none

/-- The plan of ROUTE_REMOVE on one slice (R95); none where the route is absent. -/
def planRemove (k v table : Nat) (v6 : Bool) (a : BitVec 128) (len : Nat) (p : Plan) : Option Plan :=
  match findRoute p.rows k v table v6 a len with
  | none => none
  | some (piv, r) =>
    let p := p.emit k [⟨.route, r.row, .planeClear (v % 4)⟩]
    let p := setCovers k v table v6 a len (fun q =>
      match q.covers.getD (v % 4) none with
      | some (_, l) => if l = len then some (bestCover p.rows k v table v6 q) else none
      | none => none) p
    some (dropEmpty k v table v6 piv.bucket p)

/-- The plan of ROUTE_CHANGE on one slice: a new entry, the old one's plane bit cleared, the covers it held rewritten. -/
def planChange (k v table : Nat) (v6 : Bool) (a : BitVec 128) (len : Nat) (res : BitVec 24) (p : Plan) : Option Plan :=
  match findRoute p.rows k v table v6 a len with
  | none => none
  | some (piv, r) =>
    match joinBucket k v table v6 piv a len res (some r.row) p with
    | none => none
    | some p =>
      let p := p.emit k [⟨.route, r.row, .planeClear (v % 4)⟩]
      some (dropEmpty k v table v6 piv.bucket (setCovers k v table v6 a len (fun q =>
        match q.covers.getD (v % 4) none with
        | some (_, l) => if l = len then some (some (res, len)) else none
        | none => none) p))

/-- The plan of a route change on every slice; none where some slice has no room or no such route. -/
def planAll (f : Nat → Plan → Option Plan) (s : State) : Option (List (Nat × Plan)) :=
  allSlices.foldr (fun k acc =>
    match acc, f k ⟨s.arr.shadow, [], 0, 0⟩ with
    | some l, some p => some ((k, p) :: l)
    | _, _ => none) (some [])

/-! ### Hole replenishment (R97) -/

/-- The free rows of one run of H rows. -/
def runHoles (used : List (Nat × Nat)) (h j : Nat) : Nat := h - (used.filter (fun e => e.1 / h == j)).length

/-- The lowest run that has no hole. -/
def shortRun (used : List (Nat × Nat)) (h : Nat) : Option Nat :=
  match ((used.map (fun e => e.1 / h)).dedup).filter (fun j => runHoles used h j == 0) with
  | [] => none
  | j :: js => some (js.foldl min j)

/-- The replenishment move that brings a hole towards a run `j` without one: source row and free row. The nearest free row on the side
of a run with two holes takes a row of the group beside it, the one nearest the run's far end (R96). -/
def holeMove (used : List (Nat × Nat)) (h j : Nat) : Option (Nat × Nat) :=
  let spare (p : Nat → Bool) : Bool := (List.range (65536 / h)).any (fun m => p m && decide (runHoles used h m ≥ 2))
  let len (r : Nat) : Nat := tget used r 0
  if spare (fun m => decide (m > j)) then
    (firstFree used ((j + 1) * h) (65536 - (j + 1) * h)).bind (fun f =>
      ((List.range (f - j * h)).find? (fun d => len (j * h + d) == len (f - 1))).map (fun d => (j * h + d, f)))
  else if spare (fun m => decide (m < j)) then
    (lastFree used (j * h)).bind (fun f =>
      ((List.range ((j + 1) * h - f - 1)).find? (fun d => len ((j + 1) * h - 1 - d) == len (f + 1))).map
        (fun d => ((j + 1) * h - 1 - d, f)))
  else none

/-- The next replenishment move (R97), as long as holes are kept. -/
def replMove (t : Tab (Nat × Arr × Nat) Row) (k h : Nat) : Option (Nat × Nat) :=
  let used := pivotLens t k
  if used.length > 65536 - 65536 / h then none else (shortRun used h).bind (holeMove used h)

end Sys2Proof.Machine
end

