-- ==== Sys2Proof/Machine/Versions.lean ====
section
/-! DEFINITION. Update slots and rule versions: the step queues' service (R88–R91, R406), the scrub's repairs (R93), and
the version commands (Table 3-10). -/

namespace Sys2Proof.Machine

/-- The byte offset of a command's n-th parameter: 8 bytes each after the header, in the order of its table (log
entry 8). -/
def po (n : Nat) : Nat := 0x20 + 8 * n

/-- A result of a row's meaning: these commands never stop the block. -/
def goes (s : State) : Host.Outcome State Fault Refusal := .next s

/-! ### Timetable lookups the arrays need -/

/-- The sections of an image, by kind; a replacement in the variant in force wins (Table 1-20). -/
def imgElastic (i : TtImage) : List ElasticRec :=
  (i.dir.findSome? (fun d => match d.body with | .elastic r => some r | _ => none)).getD []
def imgQmap (i : TtImage) : QMap :=
  (i.dir.findSome? (fun d => match d.body with | .qmap r => some r | _ => none)).getD ⟨[], [], []⟩
def imgVariants (i : TtImage) : List Variant :=
  (i.dir.findSome? (fun d => match d.body with | .variant r => some r | _ => none)).getD []
def imgSpare (i : TtImage) : List SpareRec :=
  (i.dir.findSome? (fun d => match d.body with | .spare r => some r | _ => none)).getD []

/-- The aggregate records in force. -/
def activeQmap (s : State) : QMap :=
  match s.tt.active with
  | none => ⟨[], [], []⟩
  | some i =>
    match s.tt.variant with
    | none => imgQmap i
    | some v => ((imgVariants i)[v]?.bind (fun x => x.qmap)).getD (imgQmap i)

/-- The ELASTIC record of an elastic queue in force. -/
def elasticOf (s : State) (q : Nat) : ElasticRec :=
  match s.tt.active with
  | none => ⟨0, 0, 0, 16, 0⟩
  | some i => (imgElastic i).getD (q - 4) ⟨0, 0, 0, 16, 0⟩

/-- The largest of the age limits and (k_l + 1), in headways, of the timetable in force (R83). -/
def boundHw (s : State) : Nat :=
  match s.tt.active with
  | none => 0
  | some i =>
    ((activeQmap s).aggs.map (fun a => a.kL + 1)).foldl max
      (((imgElastic i).map (fun e => e.ageLimit)).foldl max 0)

/-- The in-flight time in orbits (R83): the bound plus one orbit, rounded up to whole orbits. -/
def inflightOrbits (hw : Nat) : Nat := (hw + 6249) / 6250 + 1

/-! ### Searches that wait in a step queue (R406) -/

def codeOfQuery : Query → Nat
  | .rule _ _ _ => 0x0409
  | .iter _ _ _ _ _ _ => 0x040A
  | .route _ _ _ => 0x0504

/-- Ends a search command: its remaining SEARCH steps leave the queue, and a commit no longer waits for them. -/
def endQuery (e : QueryEnt) (rs : List RField) (s : State) : State :=
  let mine (st : Step) : Bool := match st.op with
    | .search h _ => h == e.hdr
    | _ => false
  let q := stepsOf s e.slice
  let w := tget s.ver.left e.slice 0
  let s := { s with
    arr := { s.arr with queues := tset s.arr.queues e.slice (q.filter (fun st => !mine st)),
                        queries := s.arr.queries.filter (fun x => x.hdr ≠ e.hdr) }
    ver := { s.ver with left := tset s.ver.left e.slice (w - ((q.take w).filter mine).length) } }
  finish e.hdr (codeOfQuery e.q) .ok none rs s

def keepFound (e : QueryEnt) (f : List Nat) (s : State) : State :=
  { s with arr := { s.arr with
      queries := s.arr.queries.map (fun x => if x.hdr = e.hdr then { x with found := f } else x) } }

/-- The pivot row a route query's first step found. -/
def pivotAt (s : State) (k row : Nat) : Option PivotEnt :=
  match (liveRow s k .pivot row).body with
  | .pivot _ _ a l b cs => some ⟨row, a, l, b, cs⟩
  | _ => none

/-- The result word as a command reads it: its reserved bits are undefined (Table 4-8). -/
def resultWord (r : BitVec 32) (n : Nat) : Nat := withUndefined r.toNat (bitsMask 31 30) n

/-- One SEARCH step of a command, on the arrays as they stand. -/
def runSearch (k : Nat) (h : Hdr) (last : Bool) (s : State) : State :=
  match s.arr.queries.find? (fun e => e.hdr = h) with
  | none => s
  | some e =>
    match e.q with
    | .rule part wide key =>
      let (n, s) := draw s
      endQuery e [⟨"RESULT", 4, [resultWord (ruleSearchAt s k e.v part wide key).1 n]⟩] s
    | .iter part wide key sm cursor count =>
      let from_ := match e.found.getLast? with
        | none => cursor
        | some l => l + 1
      let ms := (ruleMatches s k e.v part wide key sm).filter (fun m => m.idx ≥ from_)
      match ms with
      | [] => endQuery e [flds "INDICES" e.found, fld "NEXT_CURSOR" 0x4000] s
      | m :: rest =>
        let i := (rest.map (fun x => x.idx)).foldl min m.idx
        let f := e.found ++ [i]
        if ms.length = 1 then endQuery e [flds "INDICES" f, fld "NEXT_CURSOR" 0x4000] s
        else if f.length ≥ count then endQuery e [flds "INDICES" f, fld "NEXT_CURSOR" (i + 1)] s
        else keepFound e f s
    | .route table v6 a =>
      if last then
        match e.found.head?.bind (pivotAt s k) with
        | none => endQuery e [flag "MISS" true, fld "SLICE" k] s
        | some p =>
          match bucketMatch s.arr.live k e.v v6 p a with
          | none => endQuery e [flag "MISS" true, fld "PIVOT" p.row, fld "BUCKET" p.bucket, fld "SLICE" k] s
          | some (r, l) => endQuery e [fld "RESULT" r.toNat, fld "LEN" l, fld "PIVOT" p.row, fld "BUCKET" p.bucket,
              fld "SLICE" k] s
      else
        match pivotMatch s.arr.live k e.v table v6 a with
        | none => s
        | some p => keepFound e [p.row] s

/-! ### Update slots -/

/-- A number for each kind of step, under which steps are counted (ARRAY_STATUS). -/
def stepKind : StepOp → Nat
  | .invalidate => 0 | .write _ _ => 1 | .validate => 2 | .planeSet _ => 3 | .planeClear _ => 4
  | .coverSet _ _ => 5 | .search _ _ => 6 | .planeCopy _ _ => 7 | .planeClearAll _ => 8 | .planeWork _ _ => 9

/-- Runs one step on a slice's arrays. -/
def runStep (k : Nat) (st : Step) (s : State) : State :=
  let s := bump .stepsRun (k * 16 + stepKind st.op) 0 s
  match st.op with
  | .search h last => runSearch k h last s
  | _ => { s with arr := { s.arr with live := applyStep s.arr.live k st } }

/-- Versions whose retirement's clear no slice's queue still holds become FREE (Table 3-9). -/
def freeCleared (s : State) : State :=
  { s with ver := { s.ver with clearing := s.ver.clearing.filter (fun u =>
      s.arr.queues.any (fun q => q.2.any (fun st => st.op == .planeClearAll (u % 4)))) } }

/-- A queued step on the pivot array has run: a replenishment copy that is not yet valid is made anew. -/
def disturbRepl (k : Nat) (st : Step) (s : State) : State :=
  match tfind s.arr.repl k with
  | some (src, dst, n) =>
    if n < 3 && st.arr == .pivot then { s with arr := { s.arr with repl := tset s.arr.repl k (src, dst, 0) } } else s
  | none => s

/-- Takes the step at the head of a slice's queue and runs it. -/
def popStep (k : Nat) (st : Step) (rest : List Step) (s : State) : State :=
  let s := { s with
    arr := { s.arr with queues := tset s.arr.queues k rest }
    ver := { s.ver with left := tset s.ver.left k (tget s.ver.left k 0 - 1) } }
  freeCleared (disturbRepl k st (runStep k st s))

/-- Whether a step may run in a slot: a plane copy or clear begins in the first slot of a headway, since it takes all
four (R88). -/
def slotFits (pos : Nat) (op : StepOp) : Bool :=
  match op with
  | .planeWork true _ => pos == 0
  | _ => true

/-- The `n`-th step of a replenishment move (R99). -/
def replStep (s : State) (k src dst n : Nat) : Option Step := (moveSteps s.arr.live k src dst)[n]?

/-- A step of a replenishment move runs on the arrays and on their shadow copy; four end the move. -/
def runRepl (k src dst n : Nat) (s : State) : State :=
  match replStep s k src dst n with
  | none => { s with arr := { s.arr with repl := tdel s.arr.repl k } }
  | some st =>
    let s := runStep k st { s with arr := { s.arr with shadow := applyStep s.arr.shadow k st } }
    { s with arr := { s.arr with repl := if n ≥ 3 then tdel s.arr.repl k else tset s.arr.repl k (src, dst, n + 1) } }

/-- Replenishment in a slot that nothing else takes (R97). A move that a command's steps came between starts again while its copy is not
valid, and ends only where the copy is still identical (R89, R99; log entry 121). -/
def replenish (k : Nat) (s : State) : State :=
  match tfind s.arr.repl k with
  | none =>
    match replMove s.arr.shadow k s.arr.hole with
    | some (src, dst) => pmcCount k 0x007 0 1 (runRepl k src dst 0 s)
    | none => s
  | some (src, dst, n) =>
    let a := liveRow s k .pivot src
    let b := liveRow s k .pivot dst
    if (n ≥ 3 && a == b) || (n < 3 && a.valid && !b.valid) then pmcCount k 0x007 0 1 (runRepl k src dst n s)
    else { s with arr := { s.arr with repl := tdel s.arr.repl k } }

/-- A reserved slot's service order (R90): repairs, the step queue, replenishment. -/
def reservedSlot (k pos : Nat) (s : State) : State :=
  match tget s.arr.repairs k [] with
  | r :: rest => pmcCount k 0x007 0 1 (runStep k r { s with arr := { s.arr with repairs := tset s.arr.repairs k rest } })
  | [] =>
    match stepsOf s k with
    | st :: rest => if slotFits pos st.op then pmcCount k 0x007 0 1 (popStep k st rest s) else s
    | [] => replenish k s

/-- Whether the active timetable's SPARE section marks a search slot spare (R91, Table 1-18). -/
def spareMark (s : State) (k : Nat) (a : Arr) (pos : Nat) : Bool :=
  match s.tt.active with
  | none => false
  | some i =>
    match (imgSpare i)[k]? with
    | none => false
    | some r =>
      match a with
      | .pivot => r.pivot.getLsbD pos
      | .route => r.bucket.getLsbD pos
      | .rule => r.rule.getLsbD pos
      | _ => false

/-- Whether a header occupies a slice's search slot of an array in this cycle: one whose word issued that search. -/
def searchBusy (s : State) (k : Nat) (a : Arr) : Bool := s.arr.used.contains (k, a)

/-- A stolen slot (R91): the step at the head of the queue takes a spare search slot of its array. -/
def stolenSlot (k pos : Nat) (s : State) : State :=
  match stepsOf s k with
  | st :: rest =>
    if !(tget s.arr.repairs k []).any (fun r => r.arr == st.arr && r.row == st.row) && !s.arr.noSteal.contains k && spareMark s k st.arr pos && !searchBusy s k st.arr &&
        !(match st.op with | .planeWork _ _ | .planeCopy _ _ | .planeClearAll _ => true | _ => false) then
      pmcCount k 0x008 0 1 (bump .updateSteal k 0 (popStep k st rest s))
    else s
  | [] => s

/-- The update slots of a slice that have run in this cycle. -/
def slotsRun (s : State) (k : Nat) : Nat := tget s.arr.lastSlot k 0 - 3 * s.time.now

/-- Marks an update slot of this cycle as run. -/
def markSlot (k : Nat) (s : State) : State :=
  { s with arr := { s.arr with lastSlot := tset s.arr.lastSlot k (3 * s.time.now + slotsRun s k + 1) } }

/-- Whether this cycle is one of the headway's four reserved slots (R88). -/
def slotReserved (s : State) : Bool := decide (hwPos s < 256) && hwPos s % 64 == 0

/-- The next update slot of a slice in this cycle: in a reserved cycle the reserved slot, then, as in every cycle, a stolen one (R91). -/
def updateSlot (k : Nat) (s : State) : State :=
  if slotReserved s && slotsRun s k == 0 then reservedSlot k (hwPos s) (markSlot k s)
  else if slotsRun s k < (if slotReserved s then 2 else 1) then stolenSlot k (hwPos s) (markSlot k s)
  else s

/-- A row's repair from the shadow copy waits first in line for the slice's update slots (R90, R93). -/
def queueRepair (slice : Nat) (arr : Arr) (row : Nat) (s : State) : State :=
  let r := liveRow s slice arr row
  let q := tget s.arr.repairs slice []
  let steps : List Step := if q.any (fun st => st.arr == arr && st.row == row) then []
    else [⟨arr, row, .invalidate⟩, ⟨arr, row, .write r.body r.planes⟩] ++
      (if r.valid then [⟨arr, row, .validate⟩] else [])
  { s with arr := { s.arr with repairs := tset s.arr.repairs slice (q ++ steps) } }

/-- ARRAY_REPAIRED (R93): the scrub port finds a row in error; a correctable error is counted in ARRAY_CORRECTED, an uncorrectable one in ARRAY_REPAIRED, with
the event. -/
def execArrayRepaired (slice : Nat) (arr : Arr) (row : Nat) (uncorrectable : Bool) (s : State) :
    Host.Outcome State Fault Refusal :=
  within s (
    if slice ≥ 32 then .next s
    else
      let s := queueRepair slice arr row s
      if uncorrectable then .next (raise (32 * slice + 6) (bump .arrayRepaired slice 0 s))
      else .next (bump .arrayCorrected slice 0 s))

/-! ### Version commands -/

def execRuleVersionOpen (h : Hdr) (s : State) : Host.Outcome State Fault Refusal :=
  within s (
    .next (qcp { code := 0x0401, world := .nonSecure } h (fun s =>
      if liveCount s ≥ 4 then .refuse .versionLimit none
      else if s.ver.opened.isSome || s.ver.discard.isSome then .refuse .busy none
      else
        let v := (s.ver.current + 1) % 256
        let plan := allSlices.map (fun k => (k, planeSteps (.planeCopy (s.ver.current % 4) (v % 4))))
        .done [fld "V" v] (queueSteps plan { s with ver := { s.ver with opened := some v } })) s))

/-- Whether a step writes to the version that is OPEN: every queued step but a search and the clear of another plane. -/
def writesOpen (st : Step) : Bool :=
  match st.op with
  | .search _ _ | .planeClearAll _ | .planeWork _ true => false
  | _ => true

/-- The steps of a slice's queue up to the last write to the version that is OPEN. -/
def openSteps (s : State) (k : Nat) : Nat :=
  (stepsOf s k).length - ((stepsOf s k).reverse.takeWhile (fun st => !writesOpen st)).length

/-- A commit's effect at acceptance: v is COMMITTING, and the commit waits for every write to v (R82). -/
def beginCommit (h : Hdr) (v : Nat) (s : State) : State :=
  { s with ver := { s.ver with commit := some (v, h), left := allSlices.map (fun k => (k, openSteps s k)) } }

def execRuleVersionCommit (h : Hdr) (v : Nat) (s : State) : Host.Outcome State Fault Refusal :=
  within s (
    .next (qcp { code := 0x0402, world := .nonSecure } h (fun s =>
      if !isOpen s v then .refuse .notFound none
      else withTablets .rv (sliceDoms allSlices) s
        (.pend (tabletTake .rv (sliceDoms allSlices) h 0x0402 (beginCommit h v s)))) s))

def execRuleVersionDiscard (h : Hdr) (v : Nat) (s : State) : Host.Outcome State Fault Refusal :=
  within s (
    .next (qcp { code := 0x0403, world := .nonSecure } h (fun s =>
      if s.ver.opened == some v && s.ver.commit.isSome then .refuse .running none
      else if !isOpen s v then .refuse .notFound none
      else
        let plan := allSlices.map (fun k => (k, planeSteps (.planeClearAll (v % 4))))
        .pend (queueSteps plan { s with ver := { s.ver with opened := none, discard := some (v, h) } })) s))

/-- Whether some slice's queue still holds a clear of a plane. -/
def clearWaits (s : State) (p : Nat) : Bool :=
  s.arr.queues.any (fun q => q.2.any (fun st => st.op == .planeClearAll p))

/-- RULE_VERSION_DISCARD_DONE (R80): the discarded plane is clear on every array; v is FREE and the command ends. -/
def execRuleVersionDiscardDone (s : State) : Host.Outcome State Fault Refusal :=
  within s (
    match s.ver.discard with
    | none => .next s
    | some (v, h) =>
      if clearWaits s (v % 4) then .next s
      else .next (finish h 0x0403 .ok none [] { s with ver := { s.ver with discard := none } }))

/-- Frames stamped with a version whose replication lists are still to be read (R83). -/
def mcastWaiting (s : State) (u : Nat) : Nat :=
  (s.frames.filter (fun f => f.version == u && match f.mcast with
    | some (m, _) => m != 0
    | none => false)).length

def execRuleVersionRetire (h : Hdr) (u : Nat) (s : State) : Host.Outcome State Fault Refusal :=
  within s (
    .next (qcp { code := 0x0404, world := .nonSecure } h (fun s =>
      match s.ver.retained.find? (fun r => r.v = u) with
      | none => .refuse .badParam (some (.param (po 0)))
      | some r =>
        let need := inflightOrbits (max r.maxHw (boundHw s)) * 6250
        let gone := s.time.hwCount - r.stopped
        if gone < need then
          let at_ := s.time.headway + (need - gone)
          .refuse .busy (some (.orbit (at_ % 6250) ((s.time.orbit + at_ / 6250) % 2 ^ 32)))
        else if mcastWaiting s u > 0 then .refuse .busy none
        else
          let plan := allSlices.map (fun k => (k, planeSteps (.planeClearAll (u % 4))))
          .done [] (queueSteps plan { s with ver := { s.ver with
              retained := s.ver.retained.filter (fun r => r.v ≠ u), clearing := s.ver.clearing ++ [u] } })) s))

/-- DESIGN CHOICE (log entry 111): the switch orbit of a retained version is the one in which it became current. -/
def execRuleVersionStatus (h : Hdr) (s : State) : Host.Outcome State Fault Refusal :=
  within s (
    .next (qcp { code := 0x0405, reads := true } h (fun s =>
      .done [fld "CURRENT" s.ver.current, fld "CURRENT_ORBIT" s.ver.switched,
        flds "OPEN" s.ver.opened.toList, flag "COMMITTING" s.ver.commit.isSome,
        flds "RETAINED" (s.ver.retained.map (fun r => r.v)),
        flds "SWITCH_ORBITS" (s.ver.retained.map (fun r => r.switched)),
        fld "INFLIGHT_ORBITS" (inflightOrbits (boundHw s))] s) s))

/-- A timetable is in force: the bounds it sets count for every retained version (R83). -/
def raiseBounds (s : State) : State :=
  { s with ver := { s.ver with
      retained := s.ver.retained.map (fun r => { r with maxHw := max r.maxHw (boundHw s) }) } }

/-- The switch at a headway boundary (R82): the committing version becomes CURRENT where every step it waited for has
run; the previous one becomes RETAINED. -/
def versionSwitch (s : State) : State :=
  match s.ver.commit with
  | none => s
  | some (v, h) =>
    if s.ver.left.any (fun e => e.2 > 0) then s
    else
      finish h 0x0402 .ok none [fld "ORBIT" s.time.orbit, fld "HEADWAY" s.time.headway]
        { s with ver := { s.ver with
            current := v, switched := s.time.orbit, opened := none, commit := none, left := []
            retained := s.ver.retained ++ [⟨s.ver.current, s.ver.switched, s.time.hwCount, boundHw s⟩] } }

end Sys2Proof.Machine
end

