-- ==== Sys2Proof/Machine/Clock.lean ====
section
/-! DEFINITION. Network time (chapter 11): frequency sources, the servo's jump refusal, time steps, holdover and the TIME_IO
pins. Times are in units of 2^-16 ns; a core cycle is 40,960 of them (R232). -/

namespace Sys2Proof.Machine

def unitsPerCycle : Nat := 40960

/-- A second, and the span of the 96-bit counter, in units of 2^-16 ns. -/
def unitsPerSec : Nat := 65536 * 1000000000
def tcSpan : Nat := unitsPerSec * 2 ^ 48

/-- A time as the counter and timestamps hold it (Table 11-2): FRAC, NS below 10^9, SEC. -/
def tcWord (t : Nat) : Nat := t % unitsPerSec + t / unitsPerSec % 2 ^ 48 * 2 ^ 48

/-- A time before the epoch wraps. -/
def tcOfInt (t : Int) : Nat := tcWord (t % (tcSpan : Int)).toNat

/-! ### Frequency sources (Table 11-1) -/

def srcRank : FreqSrc → Nat
  | .synceA => 0 | .synceB => 1 | .ptp => 2 | .refIn => 3 | .internal => 4

def srcTable : List FreqSrc := [.synceA, .synceB, .ptp, .refIn, .internal]

def srcHealthy (s : State) (x : FreqSrc) : Bool := !s.clock.unhealthy.contains x

/-- The next source down the table that is enabled and healthy; INTERNAL where there is none. -/
def nextSource (s : State) (after : FreqSrc) : FreqSrc :=
  (srcTable.find? (fun x => srcRank x > srcRank after && s.clock.enabled.contains x && srcHealthy s x)).getD .internal

/-- The source the clock follows in HOLDOVER (R243). -/
def holdoverSource (s : State) : FreqSrc := if srcHealthy s .refIn then .refIn else .internal

/-! ### The estimated offset -/

/-- The drift model of holdover, in which REF_IN is followed while healthy: F in ppb, A in ppb per second (R239, R243; log entry 11). -/
def driftOf (s : State) : Nat × Nat :=
  if holdoverSource s = .refIn then (s.clock.fRef, s.clock.aRef) else (s.clock.fInt, s.clock.aInt)

/-- Growth of the offset over a number of cycles, F × t + A × t²/2. -/
def driftOver (f a cycles : Nat) : Nat :=
  f * cycles * 5 * 65536 / (8 * 10 ^ 9) + a * cycles * cycles * 25 * 65536 / (128 * 10 ^ 18)

/-- The estimated offset's magnitude now: the servo's estimate, growing while samples are refused and in HOLDOVER (R239,
R243). -/
def offsetNow (s : State) : Nat :=
  let (f, a) := driftOf s
  if s.mode.mode = .holdover ∨ s.clock.jumpFlag then s.clock.e0 + driftOver f a (s.time.now - s.clock.holdEntry)
  else s.clock.estimate

/-- Starts the offset growing from its present value. -/
def rebase (s : State) : State :=
  { s with clock := { s.clock with e0 := offsetNow s, holdEntry := s.time.now } }

/-- Alignment's validity as an orbit boundary judges it (R26, R244): a sample accepted, the offset within the guard band
of the active timetable, and no step in the last 16 orbits. DESIGN CHOICE (log entry 105): before the first accepted sample the
module has no estimate, and alignment is invalid. -/
def alignOk (s : State) : Bool :=
  match s.tt.active with
  | none => false
  | some i => !s.clock.samples.isEmpty && s.clock.stepHold == 0 && decide (offsetNow s ≤ i.guardNs * 65536)

/-- The servo is locked when it has accepted 8 consecutive samples (R338). -/
def servoLocked (s : State) : Bool := s.clock.consec ≥ 8

/-! ### Steps of the source -/

/-- A source's health changes; where the one followed fails, the next takes over and TIME_SRC_CHANGE is raised. -/
def setHealth (x : FreqSrc) (ok : Bool) (s : State) : State :=
  let u := s.clock.unhealthy
  let s1 := { s with clock := { s.clock with unhealthy := if ok then u.filter (· ≠ x) else insertNew x u } }
  if s1.mode.mode = .holdover then
    if holdoverSource s1 = s1.clock.source then s1
    else raise 1456 { s1 with clock := { s1.clock with source := holdoverSource s1 } }
  else if !ok && s1.clock.source == x then
    raise 1456 { s1 with clock := { s1.clock with source := nextSource s1 x } }
  else s1

def execTimeSrcChange (src : FreqSrc) (healthy : Bool) (s : State) : Host.Outcome State Fault Refusal :=
  within s (.next (setHealth src healthy s))

def execRefInUnhealthy (s : State) : Host.Outcome State Fault Refusal := within s (.next (setHealth .refIn false s))

def execRefInHealthy (s : State) : Host.Outcome State Fault Refusal := within s (.next (setHealth .refIn true s))

/-- Whether the loss timeout has expired or every PTP and SyncE source has failed (R243). -/
def holdoverDue (s : State) : Bool :=
  s.mode.mode == .service &&
    ((s.qcp.blackout.isNone && s.time.now - s.clock.lastAccept ≥ s.clock.lossCycles) ||
      let net := s.clock.enabled.filter (fun x => srcRank x < 3)
      (!net.isEmpty && net.all (fun x => !srcHealthy s x)))

/-- Entry to HOLDOVER: the offset grows from its estimate at entry, and the clock follows REF_IN or INTERNAL (R243). -/
def enterHoldover (s : State) : State :=
  let s1 := rebase s
  enterMode .holdover { s1 with clock := { s1.clock with source := holdoverSource s1, consec := 0 } }

def execHoldoverEntry (s : State) : Host.Outcome State Fault Refusal :=
  within s (if holdoverDue s then .next (enterHoldover s) else .next s)

/-! ### Time commands -/

def execTimeStatus (h : Hdr) (s : State) : Host.Outcome State Fault Refusal :=
  within s (
    .next (qcp { code := 0x0801, reads := true } h (fun s =>
      .done [fld "SOURCE" (srcRank s.clock.source), flag "HOLDOVER" (s.mode.mode == .holdover),
        fld "OFFSET" (offsetNow s), flag "ALIGN_INVALID" (!s.clock.alignValid),
        flds "PERSIST_8X" ((s.clock.persist.map (fun p => [if p < 0 then 1 else 0, p.natAbs])).getD []),
        flds "STEP_TARGET" ((s.clock.step.map (fun p => p.target)).toList),
        fld "JUMP_REFUSED" (ctr s .jumpRefused 0 0), fld "CAPTURE_OVF" (ctr s .captureOvf 0 0)] s) s))

def execTimeSrcSet (h : Hdr) (srcs : List FreqSrc) (portA : Nat) (portB : Nat) (s : State) :
    Host.Outcome State Fault Refusal :=
  within s (
    .next (qcp { code := 0x0802, world := .secure } h (fun s =>
      if srcs.contains .synceA && (portOf s portA).isNone then badParam (po 1)
      else if srcs.contains .synceB && (portOf s portB).isNone then badParam (po 2)
      else
        let c := { s.clock with enabled := srcs, portA := portA, portB := portB }
        let pick := (srcs.find? (fun x => !s.clock.unhealthy.contains x)).getD .internal
        .done [] { s with clock := { c with source := if s.mode.mode = .holdover then s.clock.source else pick } }) s))

/-- A sample beyond the jump threshold (R239): refused, counted, raised; eight that agree make the persistent offset. -/
def refuseSample (o : Int) (s : State) : State :=
  let s := bump .jumpRefused 0 0 (raise 1457 s)
  let s := if s.clock.jumpFlag then s else
    let s := if s.mode.mode = .holdover then s else rebase s
    { s with clock := { s.clock with jumpFlag := true } }
  let agree := s.clock.run > 0 && decide (4 * (o - s.clock.first).natAbs ≤ s.clock.jt)
  let run := if agree then s.clock.run + 1 else 1
  let first := if agree then s.clock.first else o
  let samples := if agree then s.clock.runSamples ++ [o] else [o]
  let c := { s.clock with consec := 0, first := first }
  if run = 8 then
    raise 1458 { s with clock := { c with run := 0, runSamples := [], persist := some (samples.foldl (· + ·) 0) } }
  else { s with clock := { c with run := run, runSamples := samples } }

/-- A sample within the threshold feeds the servo (R239); the eighth in a row ends HOLDOVER (R243). -/
def acceptSample (o : Int) (s : State) : State :=
  let samples := (o :: s.clock.samples).take 16
  let s := { s with clock := { s.clock with
    run := 0, runSamples := [], jumpFlag := false, samples := samples, estimate := Config.servoEstimate samples
    consec := s.clock.consec + 1, lastAccept := s.time.now } }
  if s.mode.mode = .holdover ∧ s.clock.consec ≥ 8 then
    let pick := (s.clock.enabled.find? (srcHealthy s)).getD .internal
    enterMode .service { s with clock := { s.clock with source := pick } }
  else s

def execTimeSample (h : Hdr) (offset : Int) (s : State) : Host.Outcome State Fault Refusal :=
  within s (
    .next (qcp { code := 0x0803, world := .nonSecure, modeOk := s.mode.mode != .boot } h (fun s =>
      if offset.natAbs > s.clock.jt then .done [flag "ACCEPTED" false] (refuseSample offset s)
      else .done [flag "ACCEPTED" true] (acceptSample offset s)) s))

def execTimeJumpSet (h : Hdr) (threshold : Nat) (s : State) : Host.Outcome State Fault Refusal :=
  within s (
    .next (qcp { code := 0x0804, world := .secure } h (fun s =>
      if threshold < 50 * 65536 ∨ threshold > 1000000 * 65536 then badParam (po 0)
      else .done [] { s with clock := { s.clock with jt := threshold } }) s))

/-- The orbit a command's target names: orbits ahead, or for 0 the first boundary at least 200 µs away; none where it is
less than 200 µs away or more than 60,000 orbits ahead (R34, R240). -/
def targetAhead (s : State) (target : Nat) : Option Nat :=
  let next := s.time.orbit + 1
  if target = 0 then some (if cyclesToOrbit s next ≥ 320000 then 1 else 2)
  else
    let n := (target + 2 ^ 32 - s.time.orbit % 2 ^ 32) % 2 ^ 32
    if n = 0 ∨ n > 60000 ∨ cyclesToOrbit s (s.time.orbit + n) < 320000 then none else some n

/-- A step in eighths of a unit, as whole cycles rounded to the nearest and the remainder (R241). -/
def roundStep (d : Int) : Int × Int :=
  let c := (d + 4 * 40960) / (8 * 40960)
  (c, d - c * (8 * 40960))

/-- The step a command asks for, in eighths of a unit: its own, or the persistent offset (R240). -/
def stepAsked (s : State) (delta : Option Int) : Option Int :=
  match delta with
  | some d => some (8 * d)
  | none => s.clock.persist

def execTimeAcceptStep (h : Hdr) (delta : Option Int) (target : Nat) (s : State) : Host.Outcome State Fault Refusal :=
  within s (
    .next (qcp { code := 0x0805, world := .secure,
                 modeOk := [Mode.boot, .calibrate, .service, .holdover].contains s.mode.mode } h (fun s =>
      match stepAsked s delta with
      | none => .refuse .notFound none
      | some d =>
        let (c, r) := roundStep d
        if c = 0 then badParam (po 0)
        else
          match targetAhead s target with
          | none => badParam (po 1)
          | some n => withTablets .ts [.timetable] s
              (.pend (tabletTake .ts [.timetable] h 0x0805
                { s with clock := { s.clock with step := some ⟨h, c, r, (s.time.orbit + n) % 2 ^ 32, false⟩ } }))) s))

/-- Cycles to the boundary of a pending step or commit. -/
def cyclesToTarget (s : State) (target : Nat) : Nat :=
  cyclesToOrbit s (s.time.orbit + (target + 2 ^ 32 - s.time.orbit % 2 ^ 32) % 2 ^ 32)

/-- A pending step's boundary, and its whole cycles. -/
def stepAhead (s : State) : Option (Nat × Int) := s.clock.step.map (fun p => (s.time.now + cyclesToTarget s p.target, p.cycles))

/-- The counter in a coming cycle, a step before it reckoned in (R234, R241). -/
def tcAt (s : State) (c : Nat) : Nat :=
  let t := s.time.tc + (c - s.time.now) * unitsPerCycle
  match stepAhead s with
  | some (b, d) => if c < b then t else (((t : Int) + d * unitsPerCycle) % (tcSpan : Int)).toNat
  | none => t

/-- The counted headway in which a coming cycle lies, a step's first headway reckoned in (R241, R242). -/
def hwOfCycle (s : State) (c : Nat) : Nat :=
  let plain (c : Nat) : Nat :=
    if c < s.time.hwStart + s.time.hwLen then s.time.hwCount
    else s.time.hwCount + 1 + (c - s.time.hwStart - s.time.hwLen) / 256
  match stepAhead s with
  | some (b, d) =>
    let len := if d % 256 = 0 then 256 else 512 - (d % 256).toNat
    if c < b then plain c else if c < b + len then plain b else plain b + 1 + (c - b - len) / 256
  | none => plain c

def execTimeStepAbort (h : Hdr) (s : State) : Host.Outcome State Fault Refusal :=
  within s (
    .next (qcp { code := 0x0806, world := .secure } h (fun s =>
      match s.clock.step with
      | none => .refuse .notFound none
      | some p =>
        if p.irrevocable || cyclesToTarget s p.target ≤ 80000 then .refuse .running none
        else .done [] (finish p.hdr 0x0805 .cancelled none [] { s with clock := { s.clock with step := none } })) s))

/-- TIME_STEP_IRREVOCABLE (R240): 50 µs before its boundary a pending step can no longer be aborted. -/
def execTimeStepIrrevocable (s : State) : Host.Outcome State Fault Refusal :=
  within s (
    match s.clock.step with
    | some p =>
      if cyclesToTarget s p.target ≤ 80000 then
        .next { s with clock := { s.clock with step := some { p with irrevocable := true } } }
      else .next s
    | none => .next s)

def execTimeHoldoverSet (h : Hdr) (lossMs : Nat) (fRef : Nat) (aRef : Nat) (fInt : Nat) (aInt : Nat) (s : State) :
    Host.Outcome State Fault Refusal :=
  within s (
    .next (qcp { code := 0x0807, world := .secure } h (fun s =>
      if lossMs < 125 ∨ lossMs > 16000 then badParam (po 0)
      else .done [] { s with clock := { s.clock with
        lossCycles := lossMs * 1600000, fRef := fRef, aRef := aRef, fInt := fInt, aInt := aInt } }) s))

/-! ### The step itself (R241), at the first cycle of its orbit -/

/-- The orbit number, headway index and length of the first headway that begins at a boundary whose ordinary number is
`n`, under a step of `c` cycles. -/
def stepGrid (n : Nat) (c : Int) : Nat × Nat × Nat :=
  let a := c / 1600000
  let r := (c % 1600000).toNat
  let b := r / 256
  let d := r % 256
  let orb (x : Int) : Nat := (((n : Int) + x) % 2 ^ 32).toNat
  if d = 0 then (orb a, b, 256)
  else if b < 6249 then (orb a, b + 1, 512 - d)
  else (orb (a + 1), 0, 512 - d)

/-- Marks the ONE_SHOT pins whose time a step skips. -/
def skipShots (before after : Nat) (s : State) : State :=
  (List.range 4).foldl (fun s p =>
    let pin := pinOf s p
    match pin.fn with
    | some (.oneShot t _) =>
      if !pin.fired && before ≤ t && t < after then updPin p (fun x => { x with skipped := true }) s else s
    | _ => s) s

/-- Applies a step due at this boundary: the counter moves, the grid follows, the command completes. -/
def applyTimeStep (s : State) : State :=
  match s.clock.step with
  | none => s
  | some p =>
    if p.target ≠ s.time.orbit then s
    else
      let (o, hw, len) := stepGrid s.time.orbit p.cycles
      let tc := (((s.time.tc : Int) + p.cycles * unitsPerCycle) % (tcSpan : Int)).toNat
      let s := skipShots s.time.tc tc s
      let s := { s with
        time := { s.time with tc := tc, orbit := o, headway := hw, hwLen := len }
        clock := { s.clock with step := none, slewRem := p.rem, stepHold := 16 } }
      raise 1459 (finish p.hdr 0x0805 .ok none [fld "ORBIT" o] s)

/-- A step's remainder, in eighths of a unit, is slewed away, by at most 2 ns an orbit (R231, R241). -/
def slewOrbit (s : State) : State :=
  { s with clock := { s.clock with slewRem := s.clock.slewRem - max (-1048576) (min 1048576 s.clock.slewRem) } }

/-! ### TIME_IO pins (Table 11-4) -/

/-- Whether a function's parameters are in range. -/
def tioOk (s : State) (fn : TioFn) : Bool :=
  match fn with
  | .capture r f => r || f
  | .periodic per _ _ => per % 40960 == 0 && decide (per ≥ 65536000) && decide (per ≤ 65536 * 1000000000)
  | .oneShot t _ => decide (t ≥ s.time.tc + 65536000)

/-- The world of a pin; none where there is no such pin. -/
def pinWorld (s : State) (pin : Nat) : Option World := if pin < 4 then some (worldOf s .timeIo pin) else none

def holdDetail (h : Hdr) (code : Nat) : Detail := .holder (ringSource h.ring) code h.seq h.tag

/-- A pin as this cycle's commands leave it: a release or configuration acts at the cycle's end (R246). -/
def pinNext (s : State) (p : Nat) : PinSt := (tfind s.clock.pinsNx p).getD (pinOf s p)

/-- A pin is configured or released from the end of this cycle. -/
def pinLater (p : Nat) (x : PinSt) (s : State) : State :=
  { s with clock := { s.clock with pinsNx := tset s.clock.pinsNx p x } }

def execTimeIoSet (h : Hdr) (pin : Nat) (fn : TioFn) (s : State) : Host.Outcome State Fault Refusal :=
  within s (
    .next (qcp { code := 0x0809, world := .owned (pinWorld s pin) } h (fun s =>
      if pin ≥ 4 then badParam (po 0)
      else if !tioOk s fn then badParam (po 2)
      else
        match (pinNext s pin).holder with
        | none => .done [] (pinLater pin { PinSt.init with fn := some fn, holder := some h } s)
        | some g =>
          if g.ring = h.ring then .done [] (pinLater pin { PinSt.init with fn := some fn, holder := some g } s)
          else .refuse .resourceClaimed (some (holdDetail g 0x0809))) s))

def execTimeIoRelease (h : Hdr) (pin : Nat) (s : State) : Host.Outcome State Fault Refusal :=
  within s (
    .next (qcp { code := 0x080A, world := .owned (pinWorld s pin) } h (fun s =>
      if pin ≥ 4 then badParam (po 0)
      else
        match (pinNext s pin).holder with
        | none => .refuse .notFound none
        | some g =>
          if g.ring = h.ring then .done [] (pinLater pin PinSt.init s)
          else .refuse .resourceClaimed (some (holdDetail g 0x0809))) s))

/-- Whether a pin captures: PPS_IN (4) always, a TIME_IO pin in CAPTURE. -/
def captures (s : State) (pin : Nat) (rising : Bool) : Bool :=
  pin == 4 || match (pinOf s pin).fn with
    | some (.capture r f) => if rising then r else f
    | _ => false

def execTimeIoRead (h : Hdr) (pin : Nat) (s : State) : Host.Outcome State Fault Refusal :=
  within s (
    .next (qcp { code := 0x080B, world := .owned (pinWorld s pin), reads := true } h (fun s =>
      if pin ≤ 4 && (captures s pin true || captures s pin false) then
        .done [⟨"CAPTURES", 12, (pinOf s pin).captures.map tcWord⟩] (updPin pin (fun p => { p with captures := [] }) s)
      else badParam (po 0)) s))

def execTimeRead (h : Hdr) (s : State) : Host.Outcome State Fault Refusal :=
  within s (
    .next (qcp { code := 0x080C, reads := true } h (fun s =>
      .done [⟨"COUNTER", 12, [tcWord s.time.tc]⟩, fld "ORBIT" s.time.orbit, fld "HEADWAY" s.time.headway] s) s))

/-- TIME_IO_CAPTURE (R246): an edge on a capture pin or PPS_IN, timestamped to an eighth of a cycle. Edges closer than
20 ns are one; a full queue of 16 drops the edge. -/
def execTimeIoCapture (pin : Nat) (rising : Bool) (eighth : Nat) (s : State) : Host.Outcome State Fault Refusal :=
  within s (
    if pin > 4 ∨ eighth > 7 ∨ !captures s pin rising then .next s
    else
      let p := pinOf s pin
      let at_ := s.time.now * 8 + eighth
      if (match p.lastEdge with
          | some l => decide (at_ < l + 256)
          | none => false) then .next s
      else if p.captures.length ≥ 16 then
        .next (raise 1467 (bump .captureOvf 0 0 (updPin pin (fun p => { p with lastEdge := some at_ }) s)))
      else .next (updPin pin (fun p => { p with
        lastEdge := some at_, captures := p.captures ++ [s.time.tc + eighth * 5120] }) s))

/-- Period, phase and width of a pin that drives pulses: a PERIODIC pin, or PPS_OUT (5) on each whole second, 100 µs wide. -/
def periodOf (s : State) (pin : Nat) : Option (Nat × Nat × Nat) :=
  if pin = 5 then some (unitsPerSec, 0, 6553600000)
  else match (pinOf s pin).fn with
    | some (.periodic per ph w) => some (per, ph, w)
    | _ => none

/-- The eighth of this cycle in which (time − phase) mod period = 0 falls (R245; log entry 116). -/
def periodDue (s : State) (per ph : Nat) : Option Nat :=
  let off := (s.time.tc + (per - ph % per)) % per
  if off = 0 then some 0 else if per - off < unitsPerCycle then some ((per - off) / 5120) else none

/-- A pulse begins at an eighth of this cycle; its end follows its width. -/
def drivePulse (eighth width : Nat) (now : Nat) (p : PinSt) : PinSt :=
  { p with edges := p.edges + 1, lastEdge := some (now * 8 + eighth), level := true, fallAt := some (now * 8 + eighth + width / 5120) }

/-- Whether a pin drove an edge in this cycle. -/
def droveNow (s : State) (pin : Nat) : Bool := (pinOf s pin).lastEdge.map (fun e => e / 8) == some s.time.now

/-- TIME_IO_PERIODIC_EDGE (R245): the pin drives a pulse in the cycle in which (time − phase) mod period = 0 falls. -/
def execTimeIoPeriodicEdge (pin : Nat) (s : State) : Host.Outcome State Fault Refusal :=
  within s (
    match periodOf s pin with
    | none => .next s
    | some (per, ph, w) =>
      match periodDue s per ph with
      | none => .next s
      | some e =>
        if pin ≤ 5 ∧ per > 0 ∧ !droveNow s pin then .next (updPin pin (drivePulse e w s.time.now) s)
        else .next s)

/-- TIME_IO_ONE_SHOT (R245): the pulse fires once, at its time or in the first cycle after a step that skipped it. -/
def execTimeIoOneShot (pin : Nat) (s : State) : Host.Outcome State Fault Refusal :=
  within s (
    let p := pinOf s pin
    match p.fn with
    | some (.oneShot t w) =>
      if pin < 4 ∧ !p.fired ∧ t < s.time.tc + unitsPerCycle then
        let s' := updPin pin (fun p => { drivePulse ((t - s.time.tc) / 5120) w s.time.now p with fired := true, skipped := false }) s
        if p.skipped then .next (raise 1461 s') else .next s'
      else .next s
    | _ => .next s)

/-- A pulse that has ended by the end of cycle `now`. -/
def pulseEnds (now : Nat) (p : PinSt) : PinSt :=
  match p.fallAt with
  | some t => if t < now * 8 + 8 then { p with level := false, fallAt := none } else p
  | none => p

/-- Pins at the end of a cycle: pulses end, then releases and configurations of this cycle act (R246). -/
def pinsEnd (s : State) : State :=
  let pins := s.clock.pins.map (fun e => (e.1, pulseEnds s.time.now e.2))
  { s with clock := { s.clock with pins := s.clock.pinsNx.foldl (fun t e => tset t e.1 e.2) pins, pinsNx := [] } }

end Sys2Proof.Machine
end

