-- ==== Sys2Proof/Machine/Contract.lean ====
section
/-! DEFINITION. What the active timetable makes of ports and aggregates (R403), and the next headway's place, where staged
settings take effect. -/

namespace Sys2Proof.Machine

/-- The aggregates still guaranteed: those in force and not shed (R31). -/
def guaranteed (s : State) : List QAgg :=
  if s.tt.active.isNone then []
  else s.tt.aggs.filter (fun a => !s.tt.shed.any (fun e => e.agg = a.agg))

/-- Whether a port is an ingress port of an aggregate: a class entry of the port's slice for that aggregate takes the
port's number (DEDUCED from Table 3-6; log entry 12). -/
def ingressOf (s : State) (agg p : Nat) : Bool :=
  s.tt.classes.any (fun e => e.1.1 == p / 32 && e.2.agg == agg &&
    ((field e.2.value 0 10 ^^^ p) &&& field e.2.mask 0 10) == 0)

/-- The ports of a multicast group in any live version, on any slice. -/
def groupPorts (s : State) (g : Nat) : List Nat :=
  (s.arr.live.filterMap (fun e =>
    if e.1.2.1 = Arr.mcast ∧ e.1.2.2 / 4 = g ∧ !e.2.free then
      match e.2.body with
      | .mcast _ l _ => some (l.map (fun d => d.1))
      | _ => none
    else none)).flatten

/-- Whether a port is an egress port of an aggregate (R403). -/
def egressOf (s : State) (a : QAgg) (p : Nat) : Bool :=
  if a.mcast then (groupPorts s a.egress).contains p else a.egress == p

/-- The lowest number among aggregates. -/
def lowestAgg (l : List QAgg) : Option Nat :=
  match l with
  | [] => none
  | a :: as => some ((as.map (fun b => b.agg)).foldl min a.agg)

/-- The lowest guaranteed aggregate that a port carries. -/
def carries (s : State) (p : Nat) : Option Nat :=
  lowestAgg ((guaranteed s).filter (fun a => egressOf s a p || ingressOf s a.agg p))

/-- The lowest guaranteed aggregate of which a port is an egress port. -/
def carriesOut (s : State) (p : Nat) : Option Nat := lowestAgg ((guaranteed s).filter (fun a => egressOf s a p))

/-- The FEATURES section in force. -/
def features (s : State) : Features :=
  match s.tt.active with
  | none => ⟨2097152, 4096, 0, 0, []⟩
  | some i => (i.dir.findSome? (fun d => match d.body with | .features f => some f | _ => none)).getD
      ⟨2097152, 4096, 0, 0, []⟩

/-- Number of the next orbit and index of its first headway, a pending time step reckoned in (R241). -/
def nextOrb (s : State) : Nat × Nat :=
  let o := (s.time.orbit + 1) % 2 ^ 32
  match s.clock.step with
  | some p =>
    if p.target = o then
      let (o', hw, _) := stepGrid o p.cycles
      (o', hw)
    else (o, 0)
  | none => (o, 0)

/-- Orbit number and headway index of the next headway. -/
def nextHw (s : State) : Nat × Nat :=
  if s.time.headway < 6249 then (s.time.orbit, s.time.headway + 1) else nextOrb s

/-- Results that name the headway a staged setting takes effect in. -/
def effectFlds (s : State) : List RField := [fld "ORBIT" (nextHw s).1, fld "HEADWAY" (nextHw s).2]

/-! ### Ports -/

/-- Bits per core cycle of a width (Table 2-1). -/
def bitsPerCycle (width : Nat) : Nat := 125 * width

/-- Transmit and receive totals of Table 2-3 by width, in units of 2^-16 ns. -/
def txTotal (width : Nat) : Nat :=
  match width with
  | 1 => 1089536
  | 2 => 925696
  | 4 => 802816
  | _ => 720896
def rxTotal (width : Nat) : Nat :=
  match width with
  | 1 => 1925120
  | 2 => 1597440
  | 4 => 1359872
  | _ => 1277952

/-- Cells a frame takes (R160). -/
def cellsOf (len : Nat) : Nat := if len ≤ 192 then 1 else 1 + (len - 192 + 255) / 256

/-- The cycle, counted from the reference edge, in which the last FCS bit passes the ingress MAC (R148). -/
def lastBitCycle (len width : Nat) : Nat := (8 * len + bitsPerCycle width - 1) / bitsPerCycle width - 1

end Sys2Proof.Machine
end

