-- ==== Sys2Proof/Machine/Hash.lean ====
section
/-! DEFINITION. The symmetric hash (R67-R69): SipHash-2-4 over the 40-byte block, and what its bits choose. -/

namespace Sys2Proof.Machine

structure Sip where
  v0 : W64
  v1 : W64
  v2 : W64
  v3 : W64
  deriving DecidableEq, Repr

def Sip.round (s : Sip) : Sip :=
  let a0 := s.v0 + s.v1
  let a1 := s.v1.rotateLeft 13 ^^^ a0
  let a0' := a0.rotateLeft 32
  let a2 := s.v2 + s.v3
  let a3 := s.v3.rotateLeft 16 ^^^ a2
  let b0 := a0' + a3
  let b3 := a3.rotateLeft 21 ^^^ b0
  let b2 := a2 + a1
  let b1 := a1.rotateLeft 17 ^^^ b2
  ⟨b0, b1, b2.rotateLeft 32, b3⟩

/-- One message word: two rounds between its two additions. -/
def Sip.word (s : Sip) (m : W64) : Sip :=
  let t := ({ s with v3 := s.v3 ^^^ m }).round.round
  { t with v0 := t.v0 ^^^ m }

/-- Eight bytes as a little-endian word. -/
def leWord (bs : List Byte) : W64 :=
  BitVec.ofNat 64 (((List.range 8).map (fun i => (bs.getD i 0).toNat * 2 ^ (8 * i))).sum)

/-- SipHash-2-4 of `n` whole words of a byte string whose length is a multiple of 8. -/
def sipWords : Nat → List Byte → Sip → Sip
  | 0, _, s => s
  | n + 1, bs, s => sipWords n (bs.drop 8) (s.word (leWord bs))

def sipHash (k0 k1 : W64) (bs : List Byte) : W64 :=
  let s : Sip := ⟨k0 ^^^ 0x736f6d6570736575, k1 ^^^ 0x646f72616e646f6d, k0 ^^^ 0x6c7967656e657261, k1 ^^^ 0x7465646279746573⟩
  let n := bs.length / 8
  let last := leWord (bs.drop (8 * n)) ||| BitVec.ofNat 64 (bs.length % 256 * 2 ^ 56)
  let t := (sipWords n bs s).word last
  let u := ({ t with v2 := t.v2 ^^^ 0xff }).round.round.round.round
  u.v0 ^^^ u.v1 ^^^ u.v2 ^^^ u.v3

/-- The 32-bit hash of a block under a salt (R68). -/
def hash32 (salt : W64) (block : List Byte) : BitVec 32 :=
  let x := sipHash salt (~~~salt) block
  x.setWidth 32 ^^^ (x >>> 32).setWidth 32

/-- The salt in force; before one is set or drawn, a value nobody knows (R71). -/
def saltOf (s : State) : W64 := s.world.salt.getD (Config.drawnSalt 0)

/-- The 40 bytes of a record's key block (R112). -/
def blockOfKey (k : BitVec 304) : List Byte :=
  (List.range 38).map (fun i => BitVec.ofNat 8 (k.toNat / 2 ^ (8 * i))) ++ [0, 0]

/-- A block's first 38 bytes as a record's key block. -/
def keyOfBlock (bs : List Byte) : BitVec 304 :=
  BitVec.ofNat 304 (((List.range 38).map (fun i => (bs.getD i 0).toNat * 2 ^ (8 * i))).sum)

def hashOfKey (s : State) (k : BitVec 304) : BitVec 32 := hash32 (saltOf s) (blockOfKey k)

/-- Home slice of a hash (Table 3-5). -/
def homeOf (h : BitVec 32) : Nat := h.toNat % 32

/-- Bucket of a hash in a partition of `b` buckets (R110). -/
def bucketOf (h : BitVec 32) (b : Nat) : Nat := h.toNat / 32 * b / 2 ^ 27

/-- Group members the hash picks (Table 3-5). -/
def ecmpPick (h : BitVec 32) (n : Nat) : Nat := h.toNat / 2 ^ 16 * n / 2 ^ 16
def lagPick (h : BitVec 32) (m : Nat) : Nat := h.toNat / 2 ^ 11 % 2 ^ 16 * m / 2 ^ 16

/-- `n` bytes of a number, most significant first. -/
def beBytes (n v : Nat) : List Byte := (List.range n).map (fun i => BitVec.ofNat 8 (v / 2 ^ (8 * (n - 1 - i))))

/-- The hash input block (Table 3-4) of two addresses, two ports, a protocol and a KIND. -/
def hashBlock (a b : Nat) (p q proto kind : Nat) : List Byte :=
  beBytes 16 (min a b) ++ beBytes 16 (max a b) ++ beBytes 2 (min p q) ++ beBytes 2 (max p q) ++ beBytes 1 proto ++
    beBytes 1 kind ++ [0, 0]

end Sys2Proof.Machine
end

