-- ==== Sys2Proof/Machine/Flow.lean ====
section
/-! DEFINITION. Flow records (chapter 5): stores, lookups, learning, pairs, ageing, flushes, and the flow commands. A record
of the HBM store stands at place 2 × bucket + slot of its home slice; an extended record at its even place or row. -/

namespace Sys2Proof.Machine

/-! ### Places and indices (Table 5-5) -/

def dieIndex (k row : Nat) : BitVec 32 := BitVec.ofNat 32 (2 ^ 31 + k * 2 ^ 26 + row)
def hbmIndex (k place : Nat) : BitVec 32 := BitVec.ofNat 32 (k * 2 ^ 26 + place)
def idxOnDie (i : BitVec 32) : Bool := i.getLsbD 31
def idxSlice (i : BitVec 32) : Nat := field i 26 5
def idxPlace (i : BitVec 32) : Nat := field i 0 26

/-- The HBM channel of a place (R110). -/
def chanOfPlace (place : Nat) : Nat := place / 2 % 384

def chanActive (s : State) (c : Nat) : Bool := (chanOf s c).st == .active

/-- The record at an index. -/
def recAt (s : State) (i : BitVec 32) : Option FlowRec :=
  if idxOnDie i then tfind s.flow.resident (idxSlice i, idxPlace i) else tfind s.flow.hbm (idxSlice i, idxPlace i)

def setRec (i : BitVec 32) (r : FlowRec) (s : State) : State :=
  if idxOnDie i then { s with flow := { s.flow with resident := tset s.flow.resident (idxSlice i, idxPlace i) r } }
  else { s with flow := { s.flow with hbm := tset s.flow.hbm (idxSlice i, idxPlace i) r } }

/-- Removes a record; a write-back that waits for it is discarded (R219). -/
def delRec (i : BitVec 32) (s : State) : State :=
  { s with flow := { s.flow with
      resident := if idxOnDie i then tdel s.flow.resident (idxSlice i, idxPlace i) else s.flow.resident
      hbm := if idxOnDie i then s.flow.hbm else tdel s.flow.hbm (idxSlice i, idxPlace i)
      wbuf := if idxOnDie i then s.flow.wbuf else s.flow.wbuf.filter (fun e => e ≠ (idxSlice i, idxPlace i))
      wbs := s.flow.wbs.filter (fun w => w.index ≠ i)
      inserts := if idxOnDie i then s.flow.inserts else s.flow.inserts.filter (fun e => e ≠ (idxSlice i, idxPlace i))
      fresh := s.flow.fresh.filter (fun e => e.1 ≠ i) } }

def recKey (r : FlowRec) : FlowKey := ⟨r.domain, r.key⟩

/-- A row of the resident store of a region assigned to the non-secure world. -/
def rowOpen (s : State) (k row : Nat) : Bool := worldOf s .resRegion (16 * k + row / 2048) == .nonSecure

/-- Every record of a slice with its index: on-die rows ascending, then places ascending. A region of the secure world is neither
pool nor stash, and what lies there is seen by nobody here (R111). -/
def recsOf (s : State) (k : Nat) : List (BitVec 32 × FlowRec) :=
  (sortBy (fun a b => decide (a.1.2 ≤ b.1.2)) (s.flow.resident.filter (fun e => e.1.1 == k && rowOpen s k e.1.2))).map
      (fun e => (dieIndex k e.1.2, e.2)) ++
    (sortBy (fun a b => decide (a.1.2 ≤ b.1.2)) (s.flow.hbm.filter (fun e => e.1.1 = k))).map
      (fun e => (hbmIndex k e.1.2, e.2))

/-- The index of a key's record on its home slice. -/
def findRec (s : State) (k : Nat) (key : FlowKey) : Option (BitVec 32 × FlowRec) :=
  (recsOf s k).find? (fun e => recKey e.2 == key)

/-- Whether lookups see a record yet (R122). -/
def recSeen (s : State) (i : BitVec 32) : Bool := !s.flow.fresh.any (fun e => e.1 == i && decide (e.2 > hwNow s))

/-- What an on-die search finds: pool and stash, and for the HBM kinds the learn write buffer (R220). -/
def findDie (s : State) (k : Nat) (key : FlowKey) (hbmKind : Bool) : Option (BitVec 32 × FlowRec) :=
  (recsOf s k).find? (fun e => recKey e.2 == key && recSeen s e.1 &&
    (idxOnDie e.1 || (hbmKind && s.flow.wbuf.contains (k, idxPlace e.1))))

/-- What a bucket read finds. -/
def findBucket (s : State) (k bucket : Nat) (key : FlowKey) : Option (BitVec 32 × FlowRec) :=
  ([2 * bucket, 2 * bucket + 1].filterMap (fun p => (tfind s.flow.hbm (k, p)).map (fun r => (hbmIndex k p, r)))).find?
    (fun e => recKey e.2 == key && recSeen s e.1)

/-! ### Write-backs (R119, R218) -/

/-- A record after one write-back. -/
def applyWb (w : WriteBack) (r : FlowRec) : FlowRec :=
  let r1 := { r with
    lastSeen := w.orbit
    pkts := (r.pkts + 1) % 2 ^ 48
    wrap := r.wrap || r.pkts + 1 == 2 ^ 48
    bytes := (r.bytes + w.len) % 2 ^ 64
    user := w.user.getD r.user }
  match r.ext with
  | some e =>
    if w.ext then { r1 with ext := some { e with
      minLen := if e.minLen = 0 then w.len else min e.minLen w.len
      maxLen := max e.maxLen w.len
      tcpOr := e.tcpOr ||| w.tcp
      dscp := w.dscp } }
    else r1
  | none => r1

/-- A record with every write-back that waits for it applied (R218). -/
def withPending (s : State) (i : BitVec 32) (r : FlowRec) : FlowRec :=
  (s.flow.wbs.filter (fun w => w.index == i)).foldl (fun r w => applyWb w r) r

/-- Writes a write-back into the record as it then stands. -/
def writeBack (w : WriteBack) (s : State) : State :=
  match recAt s w.index with
  | some r => if recKey r = w.key then setRec w.index (applyWb w r) s else s
  | none => s

/-! ### Free rows (R111, R122) -/

/-- A row in use: its own record, or the second half of the extended record before it. -/
def rowUsed (s : State) (k row : Nat) : Bool :=
  (tfind s.flow.resident (k, row)).isSome ||
    (row % 2 == 1 && match tfind s.flow.resident (k, row - 1) with
      | some r => r.ext.isSome
      | none => false)

/-- The lowest free row, or pair of rows, among rows lo to hi−1. -/
def freeRow (s : State) (k lo hi : Nat) (ext : Bool) : Option Nat :=
  (List.range (hi - lo)).findSome? (fun d =>
    let r := lo + d
    if rowOpen s k r && !rowUsed s k r && (!ext || (r % 2 == 0 && !rowUsed s k (r + 1))) then some r else none)

/-- The slot of a bucket a record goes into: the lowest free, or an empty bucket for an extended record. -/
def freeSlot (s : State) (k bucket : Nat) (ext : Bool) : Option Nat :=
  let r0 := tfind s.flow.hbm (k, 2 * bucket)
  let r1 := tfind s.flow.hbm (k, 2 * bucket + 1)
  match r0 with
  | none => if ext && r1.isSome then none else some (2 * bucket)
  | some a => if ext || a.ext.isSome || r1.isSome then none else some (2 * bucket + 1)

def recRows (r : FlowRec) : Nat := if r.ext.isSome then 2 else 1

/-- Rows of a slice's learn write buffer in use (R220). -/
def wbufUse (s : State) (k : Nat) : Nat :=
  ((s.flow.wbuf.filter (fun e => e.1 = k)).map (fun e => match tfind s.flow.hbm e with
    | some r => recRows r
    | none => 1)).sum

/-- Stash rows of a slice in use. -/
def stashUse (s : State) (k : Nat) : Nat :=
  ((s.flow.resident.filter (fun e => e.1.1 == k && decide (e.1.2 ≥ 32768 - s.flow.stash))).map
    (fun e => recRows e.2)).sum

/-- Where R122 places a record, or the counter of its refusal. -/
def placeFor (s : State) (k : Nat) (r : FlowRec) (resident : Bool) : Sum Ctr (BitVec 32) :=
  let pool := 32768 - s.flow.stash
  if (findRec s k (recKey r)).isSome then .inl .learnExists
  else if resident then
    match freeRow s k 0 pool r.ext.isSome with
    | some row => .inr (dieIndex k row)
    | none => .inl .learnRefusedResident
  else
    let b := bucketOf (hashOfKey s r.key) s.flow.b
    if !chanActive s (b % 384) then .inl .learnRefusedChannel
    else
      match freeSlot s k b r.ext.isSome with
      | some p => if wbufUse s k + recRows r ≤ 256 then .inr (hbmIndex k p)
          else match freeRow s k pool 32768 r.ext.isSome with
            | some row => .inr (dieIndex k row)
            | none => .inl .learnRefusedStash
      | none =>
        match freeRow s k pool 32768 r.ext.isSome with
        | some row => .inr (dieIndex k row)
        | none => .inl .learnRefusedStash

/-- Writes a new record; it becomes visible to lookups from a counted headway on. -/
def putRec (i : BitVec 32) (r : FlowRec) (seenAt : Nat) (s : State) : State :=
  let s := setRec i r s
  let s := { s with flow := { s.flow with
    fresh := s.flow.fresh ++ [(i, seenAt)]
    wbuf := if idxOnDie i then s.flow.wbuf else s.flow.wbuf ++ [(idxSlice i, idxPlace i)] } }
  maxCtr .stashUseMax (idxSlice i) 0 (stashUse s (idxSlice i)) s

/-! ### The learn ring (R120-R124) -/

/-- Sends a message that no quota bounds. -/
def sendMsg (src dst : Nat) (m : LearnMsg) (s : State) : State :=
  { s with flow := { s.flow with ring := s.flow.ring ++ [⟨s.time.now + 64, src, dst, m⟩] } }

/-- Sends a pair age or pair delete: at most 2 per headway per home slice, the others in later headways (R124). -/
def sendPaced (src dst : Nat) (m : LearnMsg) (s : State) : State :=
  let n := tget s.flow.msgSent src 0
  let at_ := if n < 2 then s.time.now else s.time.hwStart + s.time.hwLen + 256 * (n / 2 - 1)
  { s with flow := { s.flow with
      msgSent := tset s.flow.msgSent src (n + 1)
      ring := s.flow.ring ++ [⟨at_ + 64, src, dst, m⟩] } }

/-- Whether an agent is in reset or halted, so that its slice accepts no learns and its ageing pauses (R310). -/
def agentDown (s : State) (k : Nat) : Bool := (agentOf s k).reset.isSome || (agentOf s k).halted.isSome

/-- Address, ports, protocol and kind of a key block. -/
def keyBytes (key : BitVec 304) (off n : Nat) : Nat :=
  (List.range n).foldl (fun v i => v * 256 + field key (8 * (off + i)) 8) 0

/-- The reverse half K′ of an extended record that rewrites (R123): the key of the translated tuple, with the rewrite back
on the opposite side. -/
def reverseRec (r : FlowRec) (e : FlowExt) : FlowRec :=
  let lo := keyBytes r.key 0 16
  let hi := keyBytes r.key 16 16
  let plo := keyBytes r.key 32 2
  let phi := keyBytes r.key 34 2
  let (sa, da) := if r.orient then (hi, lo) else (lo, hi)
  let (sp, dp) := if Config.sourcePortHigh r.key then (phi, plo) else (plo, phi)
  let (sa', sp', da', dp') := if e.xside then (sa, sp, e.xaddr.toNat, e.xport) else (e.xaddr.toNat, e.xport, da, dp)
  let (oa, op) := if e.xside then (da, dp) else (sa, sp)
  let block := hashBlock sa' da' sp' dp' (keyBytes r.key 36 1) (keyBytes r.key 37 1)
  { r with
    key := keyOfBlock block
    orient := decide (da' > sa')
    paired := true
    pairPending := false
    ext := some { e with xaddr := BitVec.ofNat 128 oa, xport := op, xside := !e.xside, pairIndex := 0 } }

/-- Removes the half at an index and counts it where a counter is named. -/
def dropRec (c : Option Ctr) (i : BitVec 32) (s : State) : State :=
  let s := delRec i s
  match c with
  | some c => bump c (idxSlice i) 0 s
  | none => s

/-- The partner's index of a confirmed half. -/
def partnerOf (r : FlowRec) : Option (BitVec 32) :=
  if r.paired && !r.pairPending then r.ext.map (fun e => e.pairIndex) else none

/-- The key of a half's partner. -/
def partnerKey (r : FlowRec) : FlowKey :=
  match r.ext with
  | some e => recKey (reverseRec r e)
  | none => recKey r

/-- Removes a record; the other half of a pair is sent a pair delete (R128). -/
def removeHalf (c : Option Ctr) (i : BitVec 32) (s : State) : State :=
  match recAt s i with
  | none => s
  | some r =>
    let s := dropRec c i s
    match partnerOf r with
    | some p => sendPaced (idxSlice i) (idxSlice p) (.delete (partnerKey r) p) s
    | none => s

/-- Whether a record stands on die: in the pool, the stash, or still in the learn write buffer (R220). -/
def standsOnDie (s : State) (i : BitVec 32) : Bool := idxOnDie i || s.flow.wbuf.contains (idxSlice i, idxPlace i)

/-- A write waits for its channel's maintenance window; a removal that waits already stands for another of the same record. -/
def queueWrite (w : MaintWrite) (s : State) : State :=
  if w.hdr.isNone && s.flow.writes.any (fun x => x.index == w.index && x.key == w.key && x.op == w.op) then s
  else { s with flow := { s.flow with writes := s.flow.writes ++ [w] } }

/-- Removes a record now, with its pair delete where `pair` asks for one. -/
def removeNow (c : Option Ctr) (pair : Bool) (i : BitVec 32) (s : State) : State :=
  if pair then removeHalf c i s else dropRec c i s

/-- A record is to go (R219): at once where it stands on die, else by a write of its channel's maintenance window. -/
def remove (c : Option Ctr) (pair : Bool) (flush : Option Hdr) (i : BitVec 32) (s : State) : State :=
  match recAt s i with
  | none => s
  | some r =>
    if standsOnDie s i then removeNow c pair i s else queueWrite ⟨i, recKey r, .remove c pair, flush, none⟩ s

/-- The first half of a pair with its partner's index: confirmed. -/
def confirmed (q : BitVec 32) (r : FlowRec) : FlowRec :=
  match r.ext with
  | some e => { r with pairPending := false, ext := some { e with pairIndex := q } }
  | none => r

/-- A maintenance write takes effect on the record at its place, where that still carries its key. -/
def applyWrite (w : MaintWrite) (s : State) : State :=
  match recAt s w.index with
  | none => s
  | some r =>
    if recKey r ≠ w.key then s
    else
      match w.op with
      | .confirm q => setRec w.index (confirmed q r) s
      | .remove c pair => removeNow c pair w.index s

/-- A learn or pair request due at a home slice. -/
def learnDue (slice : Nat) (s : State) (m : RingMsg) : Bool :=
  m.dst == slice && decide (m.due ≤ s.time.now) && match m.msg with
    | .learn _ _ _ | .pair _ _ _ => true
    | _ => false

/-- The requests due at a home slice join those that arrived in this headway (R121). -/
def learnArrives (slice : Nat) (s : State) : State :=
  { s with flow := { s.flow with
      ring := s.flow.ring.filter (fun m => !learnDue slice s m)
      arrived := tset s.flow.arrived slice (tget s.flow.arrived slice [] ++ s.flow.ring.filter (learnDue slice s)) } }

/-- LEARN_REQUEST_ARRIVE. -/
def execLearnRequestArrive (slice : Nat) (s : State) : Host.Outcome State Fault Refusal :=
  within s (.next (learnArrives slice s))

/-- Whether a flush of a port still runs on a slice. -/
def flushing (s : State) (k port : Nat) : Bool := s.flow.flushes.any (fun f => f.port == port && f.left.contains k)

/-- The record a request asks for, and whether it is RESIDENT. -/
def msgRec : LearnMsg → Option (FlowRec × Bool)
  | .learn r res _ => some (r, res)
  | .pair r _ _ => some (r, false)
  | _ => none

/-- Answers a pair request with a refusal (R124). -/
def refusePair (k : Nat) (m : LearnMsg) (s : State) : State :=
  match m with
  | .pair _ partner pkey => sendMsg k (idxSlice partner) (.answer pkey partner none) s
  | _ => s

/-- Places one accepted request at its home slice (R122, R123). -/
def placeReq (k : Nat) (m : LearnMsg) (s : State) : State :=
  match msgRec m with
  | none => s
  | some (r, res) =>
    if flushing s k r.port then refusePair k m (bump .learnRefusedFlush k 0 s)
    else
      match placeFor s k r res with
      | .inl c => refusePair k m (bump c k 0 s)
      | .inr i =>
        let s := pmcCount k 0x005 0 1 (bump .learnAccepted k 0 s)
        let seen := hwNow s + 1
        match m, r.ext with
        | .pair _ partner pkey, some e =>
          let s := putRec i { r with ext := some { e with pairIndex := partner } } seen s
          sendMsg k (idxSlice partner) (.answer pkey partner (some i)) s
        | .learn _ _ true, some e =>
          let s := putRec i { r with paired := true, pairPending := true } seen s
          let r' := reverseRec r e
          sendMsg k (homeOf (hashOfKey s r'.key)) (.pair r' i (recKey r)) s
        | _, _ => putRec i r seen s

/-- The requests of a headway in the order of R121; `h` is that headway's index. -/
def orderReqs (h : Nat) (ms : List RingMsg) : List RingMsg :=
  let isPair (m : RingMsg) : Bool := match m.msg with
    | .pair _ _ _ => true
    | _ => false
  let rank (m : RingMsg) : Nat := (m.src + 32 - h % 32) % 32
  ms.filter isPair ++ sortBy (fun a b => decide (rank a ≤ rank b)) (ms.filter (fun m => !isPair m))

/-- Deduplicates, applies the quota of 2 and places (R121). -/
def placeLoop (k : Nat) : List RingMsg → List FlowKey → Nat → State → State
  | [], _, _, s => s
  | m :: ms, seen, taken, s =>
    match msgRec m.msg with
    | none => placeLoop k ms seen taken s
    | some (r, _) =>
      let key := recKey r
      if seen.contains key then placeLoop k ms seen taken (refusePair k m.msg (bump .learnDedup k 0 s))
      else if taken = 2 ∨ agentDown s k then
        placeLoop k ms (seen ++ [key]) taken
          (refusePair k m.msg (pmcCount k 0x006 0 1 (bump .learnRefusedQuota k 0 s)))
      else placeLoop k ms (seen ++ [key]) (taken + 1) (placeReq k m.msg s)

/-- LEARN_PLACEMENT (R122): every home slice handles the requests of the headway that has ended. -/
def learnPlacement (h : Nat) (s : State) : State :=
  let arrived := s.flow.arrived
  let s := { s with flow := { s.flow with arrived := [] } }
  arrived.foldl (fun s e => placeLoop e.1 (orderReqs h e.2) [] 0 s) s

/-- The first message due at a slice that a test accepts, taken off the ring. -/
def takeMsg (slice : Nat) (ok : LearnMsg → Bool) (s : State) : Option (LearnMsg × State) :=
  match s.flow.ring.find? (fun m => m.dst == slice && decide (m.due ≤ s.time.now) && ok m.msg) with
  | none => none
  | some m => some (m.msg, { s with flow := { s.flow with ring := s.flow.ring.erase m } })

def isAnswer : LearnMsg → Bool
  | .answer _ _ _ => true
  | _ => false

/-- A pair's answer at its first half, where the half still stands under its key: the partner's index confirms it, a refusal
removes it (R124). A half in the HBM store waits for its channel's write (R219). -/
def pairAnswered (i : BitVec 32) (p : Option (BitVec 32)) (r : FlowRec) (s : State) : State :=
  match p with
  | none => remove (some .pairRefused) false none i s
  | some q =>
    if standsOnDie s i then setRec i (confirmed q r) s else queueWrite ⟨i, recKey r, .confirm q, none, none⟩ s

/-- The half an answer names has gone meanwhile, or its place has been used again: its partner must not stand alone (R123). -/
def partnerAlone (slice : Nat) (p : Option (BitVec 32)) (s : State) : State :=
  match p with
  | some q => match recAt s q with
    | some r => sendPaced slice (idxSlice q) (.delete (recKey r) q) s
    | none => s
  | none => s

/-- PAIR_ANSWER (R123): the first home slice completes its half, or removes it where the partner was refused. -/
def execPairAnswer (slice : Nat) (s : State) : Host.Outcome State Fault Refusal :=
  within s (
    match takeMsg slice isAnswer s with
    | some (.answer key i p, s) =>
      match recAt s i with
      | some r => if recKey r ≠ key then .next (partnerAlone slice p s) else .next (pairAnswered i p r s)
      | none => .next (partnerAlone slice p s)
    | _ => .next s)

/-- Whether a record is idle beyond its zone's limit (R125). -/
def idle (s : State) (r : FlowRec) : Bool :=
  !r.static && decide ((s.time.orbit + 2 ^ 32 - r.lastSeen) % 2 ^ 32 > tget s.flow.zones r.zone 120000)

def isAge : LearnMsg → Bool
  | .age _ _ _ _ => true
  | _ => false

def isDelete : LearnMsg → Bool
  | .delete _ _ => true
  | _ => false

/-- The half at an index goes where it still carries the key a message names. -/
def dropIfKey (c : Option Ctr) (i : BitVec 32) (key : FlowKey) (s : State) : State :=
  match recAt s i with
  | some a => if recKey a = key then remove c false none i s else s
  | none => s

/-- The partner's agent judges a pair age (R127): both halves go where its own is idle too, its waiting write-backs counted (R126);
else it replies that the pair is live. -/
def ageJudged (slice : Nat) (i asker : BitVec 32) (askKey : FlowKey) (r : FlowRec) (s : State) : State :=
  if idle s (withPending s i r) then dropIfKey (some .aged) asker askKey (remove (some .aged) false none i s)
  else sendMsg slice (idxSlice asker) (.live askKey asker) s

/-- PAIR_AGE (R127): the partner's agent judges it; a message whose key does not match is discarded. -/
def execPairAge (slice : Nat) (s : State) : Host.Outcome State Fault Refusal :=
  within s (
    match takeMsg slice isAge s with
    | some (.age key i asker askKey, s) =>
      match recAt s i with
      | some r => if recKey r = key then .next (ageJudged slice i asker askKey r s) else .next s
      | none => .next s
    | _ => .next s)

/-- PAIR_DELETE (R128): removes the other half, or is discarded where the key does not match. -/
def execPairDelete (slice : Nat) (s : State) : Host.Outcome State Fault Refusal :=
  within s (
    match takeMsg slice isDelete s with
    | some (.delete key i, s) => .next (dropIfKey none i key s)
    | _ => .next s)

/-! ### Ageing (R125-R127) -/

/-- One record under a sweep: its waiting write-back wins (R126), a pair asks its partner first. -/
def sweepRec (k : Nat) (i : BitVec 32) (s : State) : State :=
  match recAt s i with
  | none => s
  | some r =>
    if !idxOnDie i && !chanActive s (chanOfPlace (idxPlace i)) then s
    else if !idle s (withPending s i r) then s
    else
      match partnerOf r with
      | some p => sendPaced k (idxSlice p) (.age (partnerKey r) p i (recKey r)) s
      | none => if r.pairPending then s else remove (some .aged) false none i s

/-- Replies that a pair is live change nothing at their slice (R127). -/
def takeLive (s : State) : State :=
  { s with flow := { s.flow with ring := s.flow.ring.filter (fun m => match m.msg with
    | .live _ _ => decide (s.time.now < m.due)
    | _ => true) } }

/-- A slice's sweep is due: a sweep period has passed since its last, or it has made none. -/
def sweepDue (slice : Nat) (s : State) : Bool :=
  match tfind s.flow.swept slice with
  | some o => decide (s.time.orbCount ≥ o + s.flow.sweep)
  | none => true

/-- The places of a slice's HBM records not held in the learn write buffer, ascending: the home agent keeps the occupancy of its
partition on die (R220). -/
def storedPlaces (s : State) (k : Nat) : List Nat :=
  sortBy (fun a b => decide (a ≤ b)) ((s.flow.hbm.filter (fun e => e.1.1 == k && !s.flow.wbuf.contains e.1)).map (fun e => e.1.2))

/-- One sweep over a slice's stores begins: what stands on die is swept at once, the buckets are read in the maintenance windows. -/
def sweepSlice (slice : Nat) (s : State) : State :=
  let s := (recsOf s slice).foldl (fun s e => if standsOnDie s e.1 then sweepRec slice e.1 s else s)
    { s with flow := { s.flow with swept := tset s.flow.swept slice s.time.orbCount } }
  { s with flow := { s.flow with
    scans := s.flow.scans.filter (fun x => x.slice ≠ slice ∨ x.flush.isSome) ++ [⟨slice, none, []⟩] } }

/-- AGEING_SWEEP: a home agent sweeps its stores once in each sweep period. -/
def execAgeingSweep (slice : Nat) (s : State) : Host.Outcome State Fault Refusal :=
  within s (if slice ≥ 32 ∨ agentDown s slice ∨ !sweepDue slice s then .next s else .next (sweepSlice slice s))

/-! ### Flush (R128) -/

/-- A record that a flush removes. -/
def flushHit (f : Flush) (r : FlowRec) : Bool := r.port == f.port && f.domains.getLsbD r.domain && !r.static

/-- A flush counts a record it has removed. -/
def flushCount (h : Hdr) (s : State) : State :=
  { s with flow := { s.flow with flushes := s.flow.flushes.map (fun g => if g.hdr = h then { g with removed := g.removed + 1 } else g) } }

/-- A flush removes a record, now or by a maintenance write. -/
def flushRec (f : Flush) (i : BitVec 32) (s : State) : State :=
  match recAt s i with
  | none => s
  | some r =>
    if !flushHit f r then s
    else if standsOnDie s i then flushCount f.hdr (removeNow (some .flushed) true i s)
    else remove (some .flushed) true (some f.hdr) i s

/-- A slice's part of a flush begins: what stands on die goes at once, the buckets are read in the maintenance windows. -/
def flushBegins (f : Flush) (k : Nat) (s : State) : State :=
  let s := (recsOf s k).foldl (fun s e => if standsOnDie s e.1 then flushRec f e.1 s else s) s
  { s with flow := { s.flow with
    scans := s.flow.scans ++ [⟨k, some f.hdr, []⟩]
    flushes := s.flow.flushes.map (fun g => if g.hdr = f.hdr then { g with todo := g.todo.filter (· ≠ k) } else g) } }

/-- Flushes at a headway boundary: every slice whose part has not begun and whose agent runs begins it. -/
def flushStep (s : State) : State :=
  s.flow.flushes.foldl (fun s f => f.todo.foldl (fun s k => if agentDown s k then s else flushBegins f k s) s) s

/-- Whether a slice has still something to do for a flush. -/
def flushBusy (s : State) (f : Flush) (k : Nat) : Bool :=
  f.todo.contains k || s.flow.scans.any (fun x => x.slice == k && x.flush == some f.hdr) ||
    s.flow.writes.any (fun w => w.flush == some f.hdr && idxSlice w.index == k)

/-- The slices that have finished their part of a flush. -/
def flushFinished (s : State) : State :=
  { s with flow := { s.flow with flushes := s.flow.flushes.map (fun f => { f with left := f.left.filter (flushBusy s f) }) } }

/-- The domains an AG activity takes (Table 17-5). -/
def agDoms : List Domain := sliceDoms allSlices ++ (List.range 12).map Domain.stack

/-- A flush ends. -/
def flushEnds (f : Flush) (s : State) : State :=
  { s with flow := { s.flow with flushes := s.flow.flushes.filter (fun g => g.hdr ≠ f.hdr) } }

/-- FLOW_FLUSH_DONE: every slice has finished; the command completes with the records removed. -/
def execFlowFlushDone (port : Nat) (s : State) : Host.Outcome State Fault Refusal :=
  within s (
    match s.flow.flushes.find? (fun f => f.port == port && f.left.isEmpty) with
    | none => .next s
    | some f => .next (finish f.hdr 0x0603 .ok none [fld "REMOVED" f.removed] (flushEnds f s)))

/-! ### The headway's part -/

/-- The messages a slice has put off are sent in this headway first (R124). -/
def pacedHeadway (s : State) : State :=
  { s with flow := { s.flow with
    msgSent := s.flow.msgSent.filterMap (fun e => if e.2 ≤ 2 then none else some (e.1, e.2 - 2)) } }

/-- Quotas of the new headway (R13), the learns of the headway that has ended, visibility that has come, filter entries older than
4 headways (R120). -/
def flowHeadway (h : Nat) (s : State) : State :=
  let s := learnPlacement h (pacedHeadway s)
  let hw := hwNow s
  { s with flow := { s.flow with
      usedOps := [], winOps := [], sent := []
      fresh := s.flow.fresh.filter (fun e => e.2 > hw)
      filter := s.flow.filter.map (fun e => (e.1, e.2.filter (fun x => x.1 + 4 > hw))) } }

/-- A commit that changes B or the stash size empties the HBM store and the stash, counted in FLUSHED (R110); a half that stood there
takes its partner with it (R123). -/
def flowResize (b stash : Nat) (s : State) : State :=
  if b = s.flow.b ∧ stash = s.flow.stash then s
  else
    let gone := s.flow.hbm.map (fun e => hbmIndex e.1.1 e.1.2) ++
      (s.flow.resident.filter (fun e => e.1.2 ≥ 32768 - s.flow.stash ∧ rowOpen s e.1.1 e.1.2)).map (fun e => dieIndex e.1.1 e.1.2)
    let s := gone.foldl (fun s i => removeHalf (some .flushed) i s) s
    { s with flow := { s.flow with b := b, stash := stash, scans := [], writes := [] } }

/-! ### Commands (Table 5-8) -/

/-- Bits [355:0] of a record (Table 5-2). -/
def recBits (r : FlowRec) : Nat :=
  let b (x : Bool) (n : Nat) : Nat := x.toNat * 2 ^ n
  let flags := 1 + b r.ext.isSome 1 + b r.orient 2 + b r.paired 3 + b r.pairPending 4 + b r.static 5 + r.zone % 8 * 2 ^ 6 +
    b r.wrap 9 + r.user.toNat * 2 ^ 10
  r.key.toNat + r.domain % 256 * 2 ^ 304 + r.port % 1024 * 2 ^ 312 + r.action % 2 ^ 18 * 2 ^ 322 + flags * 2 ^ 340

/-- The record's bytes as one number (Tables 5-2, 5-4), its reserved bits zero. -/
def recNat (r : FlowRec) : Nat :=
  let lo := recBits r + r.lastSeen * 2 ^ 356 + r.pkts * 2 ^ 388 + r.bytes * 2 ^ 436
  match r.ext with
  | none => lo
  | some e => lo + e.xaddr.toNat * 2 ^ 512 + e.xport * 2 ^ 640 + e.xside.toNat * 2 ^ 656 + e.xv6.toNat * 2 ^ 657 +
      e.pairIndex.toNat * 2 ^ 664 + e.firstSeen * 2 ^ 696 + e.minLen * 2 ^ 728 + e.maxLen * 2 ^ 744 +
      e.tcpOr.toNat * 2 ^ 760 + e.dscp * 2 ^ 768 + e.exportOrbit * 2 ^ 776 + e.agentData.toNat * 2 ^ 808

/-- The reserved bits of a record, whose read is undefined (R112, R114). -/
def recUndef (r : FlowRec) : Nat :=
  bitsMask 511 500 + (if r.ext.isSome then bitsMask 663 658 + bitsMask 775 774 + bitsMask 1023 872 else 0)

/-- A record as a command returns it; `n` is the draw of its reserved bits. -/
def recFld (r : FlowRec) (n : Nat) : RField := ⟨"RECORD", 64 * recRows r, [withUndefined (recNat r) (recUndef r) n]⟩
def idxFld (i : BitVec 32) : RField := ⟨"INDEX", 4, [i.toNat]⟩

/-- Records as a command returns them, each with its index. -/
def recFlds : List (BitVec 32 × FlowRec) → State → List RField × State
  | [], s => ([], s)
  | e :: es, s =>
    let (n, s) := draw s
    let (l, s) := recFlds es s
    (idxFld e.1 :: recFld e.2 n :: l, s)

/-- Whether a key's record lies in a region of the secure world (R111). -/
def secureHas (s : State) (k : Nat) (key : FlowKey) : Bool :=
  s.flow.resident.any (fun e => e.1.1 == k && !rowOpen s k e.1.2 && recKey e.2 == key)

/-- The command of the secure world's row is refused (R111, R323). -/
def secureRow (code : Nat) (s : State) : Out := .reply .worldViolation none [] (violate .nonSecure code s)

/-- A walk joins those that wait for bucket reads (R219). -/
def walkWaits (w : Walk) (s : State) : State := { s with flow := { s.flow with walks := s.flow.walks ++ [w] } }

/-- FLOW_SEARCH: the answer at once where the record stands on die or no record stands in the key's bucket; else it waits for its
bucket's read. -/
def execFlowSearch (h : Hdr) (domain : Nat) (key : BitVec 304) (s : State) : Host.Outcome State Fault Refusal :=
  within s (
    .next (qcp { code := 0x0601, world := .nonSecure } h (fun s =>
      let hash := hashOfKey s key
      let k := homeOf hash
      let b := bucketOf hash s.flow.b
      match (recsOf s k).find? (fun e => recKey e.2 == ⟨domain, key⟩ && standsOnDie s e.1) with
      | some (i, r) => .done (recFlds [(i, withPending s i r)] s).1 (recFlds [(i, withPending s i r)] s).2
      | none =>
        if secureHas s k ⟨domain, key⟩ then secureRow 0x0601 s
        else if (storedPlaces s k).any (fun p => p / 2 == b) then .start (walkWaits (.search h k b ⟨domain, key⟩) s)
        else .refuse .notFound none) s))

/-- The order of FLOW_NEXT's walk: slices ascending, on-die rows before places. -/
def walkKey (i : BitVec 32) : Nat := idxSlice i * 2 ^ 27 + (if idxOnDie i then 0 else 2 ^ 26) + idxPlace i

/-- A flow index whose reserved bits are clear and whose place exists (Table 5-5). -/
def idxOk (s : State) (i : BitVec 32) : Bool :=
  if idxOnDie i then decide (idxPlace i < 32768) else decide (idxPlace i < 2 * s.flow.b)

/-- The records from a cursor on, in the walk's order. -/
def walkRest (s : State) (cursor : BitVec 32) : List (BitVec 32 × FlowRec) :=
  if cursor = 0xFFFFFFFF then [] else (allSlices.flatMap (recsOf s)).filter (fun e => decide (walkKey e.1 ≥ walkKey cursor))

/-- Whether a record matches a value under a mask over its bits [355:0]. -/
def walkHit (value mask : BitVec 356) (r : FlowRec) : Bool := ((BitVec.ofNat 356 (recBits r) ^^^ value) &&& mask) == 0

/-- A walk goes on over records whose buckets it may read: `open_` says which channels still have their read, `read` the buckets
read already. It answers what it has found, the buckets it read, and where it stopped: none where it has to wait. -/
def walkOn (s : State) (open_ : Nat → Bool) (value mask : BitVec 356) :
    List (BitVec 32 × FlowRec) → Nat → List (BitVec 32 × FlowRec) → List (Nat × Nat) →
      List (BitVec 32 × FlowRec) × List (Nat × Nat) × BitVec 32 × Bool
  | [], _, found, read => (found, read, 0xFFFFFFFF, true)
  | e :: es, n, found, read =>
    if n = 0 then (found, read, e.1, true)
    else
      let b := (idxSlice e.1, idxPlace e.1 / 2)
      let hit := walkHit value mask e.2
      let found' := if hit then found ++ [(e.1, withPending s e.1 e.2)] else found
      let n' := if hit then n - 1 else n
      if standsOnDie s e.1 || read.contains b then walkOn s open_ value mask es n' found' read
      else if open_ (b.2 % 384) && !read.any (fun x => x.2 % 384 == b.2 % 384) then
        walkOn s open_ value mask es n' found' (read ++ [b])
      else (found, read, e.1, false)

/-- The fields FLOW_NEXT returns: the records found with their indices, and where the walk goes on. -/
def nextFlds (found : List (BitVec 32 × FlowRec)) (cursor : BitVec 32) (s : State) : List RField × State :=
  let (l, s) := recFlds found s
  (l ++ [⟨"NEXT_CURSOR", 4, [cursor.toNat]⟩], s)

/-- Whether a cursor names a row of the secure world (R111). -/
def cursorSecure (s : State) (i : BitVec 32) : Bool :=
  i != 0xFFFFFFFF && idxOnDie i && !rowOpen s (idxSlice i) (idxPlace i)

/-- FLOW_NEXT: what stands on die is walked at once; where the walk comes to a bucket it waits for the read. -/
def execFlowNext (h : Hdr) (cursor : BitVec 32) (value : BitVec 356) (mask : BitVec 356) (count : Nat) (s : State) :
    Host.Outcome State Fault Refusal :=
  within s (
    .next (qcp { code := 0x0602, world := .nonSecure } h (fun s =>
      if cursor ≠ 0xFFFFFFFF ∧ !idxOk s cursor then badParam (po 0)
      else if count < 1 ∨ count > 64 then badParam (po 13)
      else if cursorSecure s cursor then secureRow 0x0602 s
      else
        match walkOn s (fun _ => false) value mask (walkRest s cursor) count [] [] with
        | (found, _, next, true) => .done (nextFlds found next s).1 (nextFlds found next s).2
        | (found, _, next, false) => .start (walkWaits (.next h next value mask count found) s)) s))

def execFlowFlushPort (h : Hdr) (port : Nat) (domains : BitVec 256) (s : State) : Host.Outcome State Fault Refusal :=
  within s (
    .next (qcp { code := 0x0603, world := .nonSecure } h (fun s =>
      if s.flow.flushes.any (fun f => f.port = port) then .refuse .busy none
      else if (portOf s port).isNone then badParam (po 0)
      else withTablets .ag agDoms s (.pend (tabletTake .ag agDoms h 0x0603 { s with flow := { s.flow with
        flushes := s.flow.flushes ++ [⟨h, port, domains, allSlices, allSlices, 0⟩] } }))) s))

/-- Whether a record's fields fit their widths (Table 5-2). -/
def recOk (r : FlowRec) : Bool :=
  decide (r.domain < 256) && decide (r.port < 1024) && decide (r.action < 2 ^ 18) && decide (r.zone < 8) &&
    decide (r.lastSeen < 2 ^ 32) && decide (r.pkts < 2 ^ 48) && decide (r.bytes < 2 ^ 64)

/-- FLOW_INSERT writes a record; its maintenance write comes after those of learns, pairs and removals (R219). -/
def insertRec (i : BitVec 32) (r : FlowRec) (s : State) : State :=
  let s := putRec i r (hwNow s + 1) s
  if idxOnDie i then s else { s with flow := { s.flow with inserts := s.flow.inserts ++ [(idxSlice i, idxPlace i)] } }

def execFlowInsert (h : Hdr) (r : FlowRec) (resident : Bool) (s : State) : Host.Outcome State Fault Refusal :=
  within s (
    .next (qcp { code := 0x0604, world := .nonSecure } h (fun s =>
      let hash := hashOfKey s r.key
      let k := homeOf hash
      if r.paired || r.pairPending || !recOk r then badParam (po 0)
      else
        match findRec s k (recKey r) with
        | some (i, _) => .refuse .exists_ (some (.entry i.toNat))
        | none =>
          let c := bucketOf hash s.flow.b % 384
          if !resident && ((chanOf s c).st == .frozen || (chanOf s c).st == .retraining) then .refuse .channelFrozen none
          else
            match placeFor s k r resident with
            | .inl _ => .refuse .tableFull none
            | .inr i => .done [idxFld i] (insertRec i r s)) s))

/-- The other half of a confirmed pair, where it still carries its key. -/
def otherHalf (s : State) (r : FlowRec) : Option (BitVec 32) :=
  match partnerOf r with
  | some p => match recAt s p with
    | some q => if recKey q = partnerKey r then some p else none
    | none => none
  | none => none

/-- A record and the other half of its pair removed; the half named may still wait for its maintenance write (R219). -/
def deletePair (index : BitVec 32) (r : FlowRec) (s : State) : State :=
  match otherHalf s r with
  | some p => remove none false none p (dropRec none index s)
  | none => dropRec none index s

/-- FLOW_DELETE: a record on die goes at once, a stored one with its channel's maintenance write, which completes the command. -/
def execFlowDelete (h : Hdr) (index : BitVec 32) (domain : Nat) (key : BitVec 304) (s : State) :
    Host.Outcome State Fault Refusal :=
  within s (
    .next (qcp { code := 0x0605, world := .nonSecure } h (fun s =>
      if idxOnDie index && !rowOpen s (idxSlice index) (idxPlace index) then secureRow 0x0605 s
      else
        match recAt s index with
        | none => .refuse .notFound none
        | some r =>
          if recKey r ≠ ⟨domain, key⟩ then .refuse .notFound none
          else if standsOnDie s index then .done [] (deletePair index r s)
          else .start (queueWrite ⟨index, recKey r, .remove none false, none, some h⟩ s)) s))

def execFlowZoneSet (h : Hdr) (zone : Nat) (limit : Nat) (s : State) : Host.Outcome State Fault Refusal :=
  within s (
    .next (qcp { code := 0x0606, world := .nonSecure } h (fun s =>
      if zone ≥ 8 then badParam (po 0)
      else if limit < 1 ∨ limit > 1073741824 then badParam (po 1)
      else withTablets .ag agDoms s (.done [] { s with flow := { s.flow with zones := tset s.flow.zones zone limit } })) s))

def execFlowSweepSet (h : Hdr) (period : Nat) (s : State) : Host.Outcome State Fault Refusal :=
  within s (
    .next (qcp { code := 0x0607, world := .nonSecure } h (fun s =>
      if period < 128 ∨ period > 65536 then badParam (po 0)
      else withTablets .ag agDoms s (.done [] { s with flow := { s.flow with sweep := period } })) s))

def execFlowLearnLimit (h : Hdr) (port : Nat) (limit : Nat) (s : State) : Host.Outcome State Fault Refusal :=
  within s (
    .next (qcp { code := 0x0608, world := .nonSecure } h (fun s =>
      match portOf s port with
      | none => badParam (po 0)
      | some ps =>
        if limit < 1 ∨ limit > 400000 then badParam (po 1)
        else .done [] (setPort port { ps with learnLim := limit } s)) s))

/-- The fields of FLOW_STATUS: B, stash size, and the records of each store of a slice. -/
def flowStatusFlds (s : State) (slice : Nat) : List RField :=
  let die := s.flow.resident.filter (fun e => e.1.1 == slice && rowOpen s slice e.1.2)
  [fld "B" s.flow.b, fld "STASH" s.flow.stash,
    fld "HBM_RECORDS" (s.flow.hbm.filter (fun e => e.1.1 = slice)).length,
    fld "POOL_RECORDS" (die.filter (fun e => e.1.2 < 32768 - s.flow.stash)).length,
    fld "STASH_RECORDS" (die.filter (fun e => e.1.2 ≥ 32768 - s.flow.stash)).length,
    fld "STASH_USE_MAX" (ctr s .stashUseMax slice 0)]

def execFlowStatus (h : Hdr) (slice : Nat) (s : State) : Host.Outcome State Fault Refusal :=
  within s (
    .next (qcp { code := 0x0609, reads := true } h (fun s =>
      if slice ≥ 32 then badParam (po 0)
      else
        .done (flowStatusFlds s slice) s) s))

/-- The counters of R130, kept per slice. -/
def flowCtrs : List Ctr :=
  [.flowHitOnDie, .flowHitHbm, .flowMiss, .flowDeferred, .flowDeferQuota, .flowDeferWindow, .flowDeferChannel,
   .learnDedup, .learnExists, .learnAccepted, .learnRefusedQuota, .learnRefusedResident, .learnRefusedChannel,
   .learnRefusedStash, .learnRefusedFlush, .learnRingFull, .pairRefused, .aged, .flushed]

/-- LEARN_REFUSED_PORT of a slice's ports. -/
def portsOfSlice (k : Nat) : List Nat := (List.range 32).map (fun i => 32 * k + i)

def flowClear (slice : Nat) (s : State) : State :=
  (portsOfSlice slice).foldl (fun s p => clearCtr .learnRefusedPort p 0 s) (flowCtrs.foldl (fun s c => clearCtr c slice 0 s) s)

def execFlowCounters (h : Hdr) (slice : Nat) (clear : Bool) (s : State) : Host.Outcome State Fault Refusal :=
  within s (
    .next (qcp { code := 0x060A, reads := true } h (fun s =>
      if slice ≥ 32 then badParam (po 0)
      else
        .done [flds "COUNTERS" (flowCtrs.map (fun c => ctr s c slice 0)),
            flds "LEARN_REFUSED_PORT" ((portsOfSlice slice).map (fun p => ctr s .learnRefusedPort p 0))]
          (if clear then flowClear slice s else s)) s))

end Sys2Proof.Machine
end

