-- ==== Sys2Proof/Machine/Hbm.lean ====
section
/-! DEFINITION. Lost resources (R19, R404) and the HBM channels (chapter 10): activations, refreshes, corrections, freezes and
recovery. -/

namespace Sys2Proof.Machine

/-! ### Lost resources -/

/-- A resource code (R19): kind 1 slice, 2 engine, 3 stack, 4 lane. -/
def resCode (kind n : Nat) : BitVec 32 := BitVec.ofNat 32 (kind * 2 ^ 28 + n)

/-- Counts a resource lost from now on; R28 acts on it at an orbit boundary. -/
def loseResource (c : BitVec 32) (s : State) : State :=
  if s.tt.lost.contains c then s
  else { s with tt := { s.tt with lost := s.tt.lost ++ [c], lostNow := s.tt.lostNow ++ [(c, s.time.now)] } }

/-! ### Row activations (R215, R222) -/

/-- The bank and row of a channel offset (Table 10-2). -/
def bankRow (s : State) (off : Nat) : Nat × Nat :=
  let region := off / 2 ^ 21
  let bits (lo n : Nat) : Nat := off / 2 ^ lo % 2 ^ n
  match tget s.hbm.orders region .hashed with
  | .rowBankCol => (bits 10 5, region * 64 + bits 15 6)
  | .bankRowCol => (bits 16 5, region * 64 + bits 10 6)
  | .hashed => (Nat.xor (bits 10 5) (bits 15 5), region * 64 + bits 15 6)

/-- The entry an activation of a new row replaces: the lowest count, the first among equals. -/
def lowestAct (l : List ActCount) : Nat :=
  (l.foldl (fun (acc : Nat × Nat × Nat) a =>
    if a.count < acc.2.1 then (acc.2.2, a.count, acc.2.2 + 1) else (acc.1, acc.2.1, acc.2.2 + 1))
    (0, (l.head?.map (fun a => a.count)).getD 0, 0)).1

/-- Counts an activation in the table of 32 entries. -/
def countAct (bank row : Nat) (l : List ActCount) : List ActCount :=
  if l.any (fun a => a.bank == bank && a.row == row) then
    l.map (fun a => if a.bank = bank ∧ a.row = row then { a with count := a.count + 1 } else a)
  else if l.length < 32 then l ++ [⟨bank, row, 1⟩]
  else
    let n := lowestAct l
    l.set n ⟨bank, row, (l[n]?.map (fun a => a.count)).getD 0 + 1⟩

/-- An access at a channel offset activates its row (R222): bucket reads, write-backs, siding transfers and maintenance accesses, at
most 36, 36, 13 and 2 a headway (R223). -/
def activate (c off : Nat) (s : State) : State :=
  let (b, r) := bankRow s off
  updChan c (fun x => { x with acts := countAct b r x.acts }) s

/-- The channel offset of a bucket (R214). -/
def bucketOff (s : State) (k bucket : Nat) : Nat := (k * ((s.flow.b + 383) / 384) + bucket / 384) * 128

/-- The rows a trigger refreshes: r ± 1 and r ± 2 inside the bank. -/
def neighbours (bank row : Nat) : List (Nat × Nat) :=
  ((if row ≥ 2 then [row - 2] else []) ++ (if row ≥ 1 then [row - 1] else []) ++ [row + 1, row + 2]).filterMap
    (fun r => if r < 16384 then some (bank, r) else none)

/-- The block of the performance counters of a channel's stack, and its qualifier. -/
def hbmBlock (c : Nat) : Nat := 33 + c / 32

/-- A row's activation count has reached the threshold. -/
def overThresh (channel bank row : Nat) (s : State) : Bool :=
  (chanOf s channel).acts.any (fun a => a.bank == bank && a.row == row && decide (a.count ≥ s.hbm.thresh))

/-- The refresh of a row's neighbours is queued and its count returns to 0. -/
def refreshQueued (channel bank row : Nat) : State → State :=
  updChan channel (fun x => { x with
    trq := x.trq ++ neighbours bank row
    acts := x.acts.map (fun a => if a.bank = bank ∧ a.row = row then { a with count := 0 } else a) })

/-- ROW_ACTIVATION_TRIGGER (R222): the count has reached the threshold; the neighbours' refresh is queued, the count returns
to 0. -/
def execRowActivationTrigger (channel : Nat) (bank : Nat) (row : Nat) (s : State) : Host.Outcome State Fault Refusal :=
  within s (if overThresh channel bank row s then .next (refreshQueued channel bank row s) else .next s)

/-- TARGETED_REFRESH (R223): the spare window refreshes up to 2 rows; a frozen or retired channel issues nothing. -/
def chanRefresh (c : Nat) (s : State) : State :=
  let x := chanOf s c
  let n := min 2 x.trq.length
  if x.st ≠ .active ∨ n = 0 then s
  else pmcCount (hbmBlock c) 0x203 (c % 32) n (bumpLife .hbmTrr c 0 n (updChan c (fun x => { x with trq := x.trq.drop 2 }) s))

/-! ### Corrections (R224) -/

/-- A corrected read: the 32-bit saturating counter of the channel and region, and the log's, which does not saturate. -/
def eccCorrect (c region : Nat) (s : State) : State :=
  let s := if ctr s .eccCorrections c region ≥ 2 ^ 32 - 1 then s else bump .eccCorrections c region s
  pmcCount (hbmBlock c) 0x204 (c % 32) 1 (lifeAdd .eccCorrections c region 1 s)

/-! ### Freeze (R225-R227) -/

/-- Frozen or retired channels of a stack. -/
def stackDead (s : State) (k : Nat) : Bool := (List.range 32).all (fun i => !chanActive s (32 * k + i))

/-- STACK_LOST (R227). -/
def stackCheck (c : Nat) (s : State) : State :=
  if stackDead s (c / 32) then loseResource (resCode 3 (c / 32)) s else s

/-- Siding cells on a channel are lost, writes that wait are abandoned, and the allocator skips its position in every stripe that is
being filled (R190). -/
def sidingLose (c : Nat) (s : State) : State :=
  let k := c % 32
  let sd := sideOf s k
  let gone := sd.cells.filter (fun x => x.chan = c)
  let waiting := (gone.filter (fun x => !x.wrote && !x.lost)).length
  let s := updSide k (fun sd => { sd with
    cells := sd.cells.map (fun x => if x.chan = c then { x with lost := true, readAt := none } else x)
    stripes := sd.stripes.map (fun e => (e.1, { e.2 with left := e.2.left.filter (· ≠ c / 32) })) }) s
  let s := noteFreed k waiting (updBuf k (fun b => { b with pend := b.pend - waiting, poolE := b.poolE - waiting }) s)
  { s with frames := s.frames.map (fun f => if gone.any (fun x => x.fid = f.fid) then { f with lost := true } else f) }

/-- Write-backs that wait for the channel are abandoned; records bound for it in learn write buffers are removed. -/
def flowLose (c : Nat) (s : State) : State :=
  let mine (w : WriteBack) : Bool := !idxOnDie w.index && chanOfPlace (idxPlace w.index) == c
  let n := (s.flow.wbs.filter mine).length
  let s := bumpBy .hbmWbAbandoned c 0 n { s with flow := { s.flow with wbs := s.flow.wbs.filter (fun w => !mine w) } }
  (s.flow.wbuf.filter (fun e => chanOfPlace e.2 == c)).foldl
    (fun s e => removeHalf (some .flushed) (hbmIndex e.1 e.2) s) s

/-- A channel freezes with its diagnosis: its siding cells and what waited for it are lost, and its stack may be. -/
def freezeChan (channel : Nat) (d : Diag) (s : State) : State :=
  let s := updChan channel (fun x => { x with st := .frozen, diag := some d }) s
  let s := logAdd .memory "HBM_FREEZE" none [channel, d.cause, d.cmd, d.window, d.beat, d.address, d.syndrome] s
  stackCheck channel (sidingLose channel (flowLose channel s))

/-- HBM_FREEZE: an active channel stops and records its diagnosis (Table 10-4). -/
def execHbmFreeze (channel : Nat) (cause : Nat) (cmd : Nat) (window : Nat) (beat : Nat) (address : Nat) (syndrome : Nat)
    (s : State) : Host.Outcome State Fault Refusal :=
  within s (
    if channel ≥ 384 ∨ !chanActive s channel then .next s
    else
      .next (freezeChan channel ⟨cause, cmd, window, beat, address, s.time.orbit, s.time.headway, syndrome⟩ s))

/-! ### Recovery (R228) -/

/-- The diagnosis record goes to the service log and is cleared. -/
def clearDiag (c : Nat) (s : State) : State :=
  match (chanOf s c).diag with
  | some d => updChan c (fun x => { x with diag := none })
      (logAdd .memory "FREEZE_DIAGNOSIS" none [c, d.cause, d.cmd, d.window, d.beat, d.address, d.orbit, d.headway, d.syndrome] s)
  | none => s

def chanFrozen (s : State) (c : Nat) : Bool := (chanOf s c).st == .frozen || (chanOf s c).st == .retraining

def execRetrainAndResume (h : Hdr) (channel : Nat) (s : State) : Host.Outcome State Fault Refusal :=
  within s (
    .next (qcp { code := 0x0A04, modeOk := s.mode.mode == .service || s.mode.mode == .holdover } h (fun s =>
      if channel ≥ 384 || !chanFrozen s channel then badParam (po 0)
      else withTablets .hb [.stack (channel / 32)] s
        (.pend (tabletTake .hb [.stack (channel / 32)] h 0x0A04
          (updChan channel (fun x => { x with st := .retraining, retrain := some h }) (clearDiag channel s))))) s))

/-- A retrained channel is to rejoin at the next headway boundary. -/
def rejoins (channel : Nat) (s : State) : State :=
  let s := updChan channel (fun x => { x with retrain := none }) s
  { s with hbm := { s.hbm with rejoin := s.hbm.rejoin ++ [channel] } }

/-- RETRAIN_DONE: the channel rejoins at the next headway boundary, or stays frozen. -/
def execRetrainDone (channel : Nat) (ok : Bool) (s : State) : Host.Outcome State Fault Refusal :=
  within s (
    match (chanOf s channel).retrain with
    | none => .next s
    | some h =>
      if ok then .next (finish h 0x0A04 .ok none [] (rejoins channel s))
      else .next (finish h 0x0A04 .hardwareFault (some (.entry channel)) []
        (updChan channel (fun x => { x with retrain := none, st := .frozen }) s)))

/-- Every record of a channel's buckets. -/
def chanRecs (s : State) (c : Nat) : List (BitVec 32) :=
  (s.flow.hbm.filter (fun e => chanOfPlace e.1.2 == c)).map (fun e => hbmIndex e.1.1 e.1.2)

/-- A channel retires: its diagnosis is logged, its records go, its siding cells are lost; it does not rejoin. -/
def retireChan (channel : Nat) (s : State) : State :=
  let s := clearDiag channel s
  let s := updChan channel (fun x => { x with st := .retired, retrain := none }) s
  let s := { s with hbm := { s.hbm with rejoin := s.hbm.rejoin.filter (· ≠ channel), recover := tdel s.hbm.recover channel } }
  let s := (chanRecs s channel).foldl (fun s i => removeHalf (some .flushed) i s) s
  stackCheck channel (logAdd .memory "CHANNEL_RETIRED" none [channel] (sidingLose channel s))

def execRetire (h : Hdr) (channel : Nat) (s : State) : Host.Outcome State Fault Refusal :=
  within s (
    .next (qcp { code := 0x0A05, modeOk := s.mode.mode == .service || s.mode.mode == .holdover } h (fun s =>
      if channel ≥ 384 || !chanFrozen s channel then badParam (po 0)
      else withTablets .hb [.stack (channel / 32)] s
        (.done [] (retireChan channel s))) s))

/-- A retrained channel rejoins, and its recovery sweep begins (R131, R228). -/
def rejoined (c : Nat) (s : State) : State :=
  let s := logAdd .memory "CHANNEL_RESUMED" none [c] s
  if (chanOf s c).st = .retraining then
    let s := updChan c (fun x => { x with st := .active }) s
    { s with hbm := { s.hbm with recover := tset s.hbm.recover c 0 } }
  else s

/-- The bank and the first of the 4 rows that the refresh window of a headway refreshes (R221). DESIGN CHOICE (log entry 114): banks
turn fastest. -/
def refreshRows (n : Nat) : Nat × Nat := (n % 32, n / 32 * 4)

/-- The refresh window moves on; where it begins anew the activation tables are cleared (R221, R222). -/
def refreshHeadway (s : State) : State :=
  let n := (s.hbm.refresh + 1) % 131072
  let s := { s with hbm := { s.hbm with refresh := n } }
  if n = 0 then { s with hbm := { s.hbm with chans := s.hbm.chans.map (fun e => (e.1, { e.2 with acts := [] })) } } else s

/-- A headway boundary at the channels: the refresh window, rejoined channels, the new threshold, targeted refreshes. -/
def hbmHeadway (s : State) : State :=
  let s := refreshHeadway s
  let s : State := s.hbm.rejoin.foldl (fun (s : State) c => rejoined c s) s
  let s := { s with hbm := { s.hbm with
    rejoin := [], thresh := s.hbm.threshNx.getD s.hbm.thresh, threshNx := none, busyR := [], busyW := [] } }
  s.hbm.chans.foldl (fun (s : State) e => if e.2.trq.isEmpty then s else chanRefresh e.1 s) s

/-- Every count that has reached the threshold triggers (R222). -/
def triggersCycle (s : State) : State :=
  s.hbm.chans.foldl (fun (s : State) e =>
    (e.2.acts.filter (fun a => decide (a.count ≥ s.hbm.thresh))).foldl (fun s a => refreshQueued e.1 a.bank a.row s) s) s

/-! ### Commands (Table 10-6) -/

def chStCode : ChState → Nat
  | .active => 0 | .frozen => 1 | .retraining => 2 | .retired => 3

/-- Siding cells per channel (R185). -/
def sidingN (g : Nat) : Nat := g * 131072 / 12

/-- Regions the flow store takes (R214). -/
def flowRegions (b : Nat) : Nat :=
  if b ≤ 524288 then 3 else if b ≤ 1048576 then 6 else if b ≤ 2097152 then 11 else 22

/-- Regions the siding takes (R214). -/
def sidingRegions (g : Nat) : Nat := (sidingN g + 8191) / 8192

/-- Whether a first and a count name elements of a range. -/
def rangeOk (first count n : Nat) : Bool := decide (count ≥ 1) && decide (first + count ≤ n)

/-- The fields of HBM_STATUS for some channels. -/
def hbmFlds (s : State) (cs : List Nat) : List RField :=
  [⟨"STATE", 1, cs.map (fun c => chStCode (chanOf s c).st)⟩,
    fld "FLOW_REGIONS" (flowRegions s.flow.b), fld "SIDING_REGIONS" (sidingRegions s.egr.gib),
    flds "HBM_TRR" (cs.map (fun c => ctr s .hbmTrr c 0)),
    flds "HBM_WB_ABANDONED" (cs.map (fun c => ctr s .hbmWbAbandoned c 0))]

def execHbmStatus (h : Hdr) (first : Nat) (count : Nat) (s : State) : Host.Outcome State Fault Refusal :=
  within s (
    .next (qcp { code := 0x0A01, reads := true } h (fun s =>
      if !rangeOk first count 384 then badParam (po 1)
      else
        .done (hbmFlds s ((List.range count).map (fun i => first + i))) s) s))

def execHbmOrderSet (h : Hdr) (regions : BitVec 256) (order : HbmOrder) (s : State) : Host.Outcome State Fault Refusal :=
  within s (
    .next (qcp { code := 0x0A02, world := .secure,
                 modeOk := s.mode.mode == .boot && !s.tt.committed } h (fun s =>
      if !s.mode.zeroed then .refuse .busy none
      else .pend { s with hbm := { s.hbm with ordering := s.hbm.ordering ++ [(h, bitsOf regions, order)] } }) s))

/-- Regions take an order; their contents are zeroed. The earliest command that waits is done. -/
def ordersSet (rs : List Nat) (o : HbmOrder) (s : State) : State :=
  { s with hbm := { s.hbm with
    ordering := s.hbm.ordering.drop 1, orders := rs.foldl (fun t r => tset t r o) s.hbm.orders
    words := s.hbm.words.filter (fun e => !rs.contains (Config.hbmRegion e.1 % 256)) } }

def execHbmOrderSetDone (s : State) : Host.Outcome State Fault Refusal :=
  within s (
    match s.hbm.ordering with
    | [] => .next s
    | (h, rs, o) :: _ => .next (finish h 0x0A02 .ok none [] (ordersSet rs o s)))

/-- A freeze's diagnosis as the record of Table 10-4, its reserved bits zero. -/
def freezeWord (channel : Nat) (d : Diag) : Nat :=
  channel + d.cause * 2 ^ 9 + d.cmd * 2 ^ 11 + d.window * 2 ^ 14 + d.beat * 2 ^ 17 + d.address * 2 ^ 32 + d.orbit * 2 ^ 64 +
    d.headway * 2 ^ 96 + d.syndrome * 2 ^ 128

/-- Its reserved bits, whose read is undefined. -/
def freezeUndef : Nat := bitsMask 31 26 + bitsMask 63 61 + bitsMask 127 109 + bitsMask 255 160

def execHbmFreezeRead (h : Hdr) (channel : Nat) (s : State) : Host.Outcome State Fault Refusal :=
  within s (
    .next (qcp { code := 0x0A03, reads := true } h (fun s =>
      if channel ≥ 384 then badParam (po 0)
      else if (chanOf s channel).st ≠ .frozen then .refuse .notFound none
      else
        let (n, s) := draw s
        let d := (chanOf s channel).diag.getD ⟨0, 0, 0, 0, 0, 0, 0, 0⟩
        .done [⟨"RECORD", 32, [withUndefined (freezeWord channel d) freezeUndef n]⟩] s) s))

def execHbmEccRead (h : Hdr) (channel : Nat) (first : Nat) (count : Nat) (s : State) :
    Host.Outcome State Fault Refusal :=
  within s (
    .next (qcp { code := 0x0A06, reads := true } h (fun s =>
      if channel ≥ 384 then badParam (po 0)
      else if !rangeOk first count 256 then badParam (po 2)
      else .done [⟨"CORRECTIONS", 4, (List.range count).map (fun i => ctr s .eccCorrections channel (first + i))⟩] s) s))

def execHbmRdThreshSet (h : Hdr) (threshold : Nat) (s : State) : Host.Outcome State Fault Refusal :=
  within s (
    .next (qcp { code := 0x0A07, world := .secure } h (fun s =>
      if threshold < 256 ∨ threshold > 8192 then badParam (po 0)
      else .done (effectFlds s) { s with hbm := { s.hbm with threshNx := some threshold } }) s))

end Sys2Proof.Machine
end

