-- ==== Sys2Proof/Machine/Maint.lean ====
section
/-! DEFINITION. The flow window's write-backs and the maintenance window of the HBM calendar (R217-R220): at each headway boundary,
what the windows of every channel carry in the headway that begins. -/

namespace Sys2Proof.Machine

/-! ### Write-backs (R218) -/

/-- The channel a write-back goes to; none for an on-die record. -/
def wbChan (w : WriteBack) : Option Nat := if idxOnDie w.index then none else some (chanOfPlace (idxPlace w.index))

/-- An access to a bucket activates its row. -/
def activateAt (k place : Nat) (s : State) : State := activate (chanOfPlace place) (bucketOff s k (place / 2)) s

/-- A write-back reaches its record; nothing where the record has gone (R219). -/
def wbApplied (w : WriteBack) (s : State) : State :=
  let s := { s with flow := { s.flow with wbs := s.flow.wbs.erase w } }
  match wbChan w with
  | none => writeBack w s
  | some _ => activateAt (idxSlice w.index) (idxPlace w.index) (writeBack w s)

/-- HBM_WRITE_BACK: the write-back of a lookup is applied. -/
def execHbmWriteBack (fid : Nat) (s : State) : Host.Outcome State Fault Refusal :=
  within s (
    match s.flow.wbs.find? (fun w => w.fid = fid) with
    | none => .next s
    | some w => .next (wbApplied w s))

/-- The flow window of a headway carries up to 36 write-backs on each channel, an extended record's counting twice (Table 10-3). -/
def wbHeadway (s : State) : State :=
  (s.flow.wbs.foldl (fun (acc : Tab Nat Nat × State) w =>
    let c := (wbChan w).getD 384
    let n := tget acc.1 c 0 + (if w.ext then 2 else 1)
    if n > 36 then acc else (tset acc.1 c n, wbApplied w acc.2)) ([], s)).2

/-! ### The maintenance window's write (R219, R220) -/

def readBusy (s : State) (c : Nat) : Bool := s.hbm.busyR.contains c
def writeBusy (s : State) (c : Nat) : Bool := s.hbm.busyW.contains c

/-- A channel's maintenance read, or write, of this headway is used. -/
def useRead (c : Nat) (s : State) : State := { s with hbm := { s.hbm with busyR := insertNew c s.hbm.busyR } }
def useWrite (c : Nat) (s : State) : State := { s with hbm := { s.hbm with busyW := insertNew c s.hbm.busyW } }

/-- A placed record is written and leaves the learn write buffer; an extended one takes the window's read too. -/
def writePlaced (e : Nat × Nat) (s : State) : State :=
  let c := chanOfPlace e.2
  if !chanActive s c || writeBusy s c then s
  else
    let s := { s with flow := { s.flow with
      wbuf := s.flow.wbuf.filter (· ≠ e), inserts := s.flow.inserts.filter (· ≠ e) } }
    let ext := ((tfind s.flow.hbm e).map (fun r => r.ext.isSome)).getD false
    activateAt e.1 e.2 (useWrite c (if ext then useRead c s else s))

def isConfirm (w : MaintWrite) : Bool := match w.op with
  | .confirm _ => true
  | .remove _ _ => false

/-- What a maintenance write is part of: a flush counts a record it has removed, a FLOW_DELETE takes the pair's other half with it and
completes. -/
def writeDone (w : MaintWrite) (r : Option FlowRec) (s : State) : State :=
  let gone := (r.map (fun r => recKey r == w.key)).getD false
  let s := match w.flush with
    | some h => if gone then flushCount h s else s
    | none => s
  match w.hdr, r with
  | some h, some r =>
    let s := match (if gone then otherHalf s r else none) with
      | some p => remove none false none p s
      | none => s
    answer h 0x0605 (if gone then .ok else .notFound) none [] s
  | some h, none => answer h 0x0605 .notFound none [] s
  | none, _ => s

/-- A write that waits is made, where its channel's write is still free. -/
def writeWaiting (w : MaintWrite) (s : State) : State :=
  let c := chanOfPlace (idxPlace w.index)
  if !chanActive s c || writeBusy s c then s
  else
    let r := recAt s w.index
    let s := { s with flow := { s.flow with writes := s.flow.writes.erase w } }
    let s := activateAt (idxSlice w.index) (idxPlace w.index) (useWrite c (applyWrite w s))
    writeDone w r s

/-- The one write of every channel: learn placements, pair confirmations, removals, then FLOW_INSERT, each oldest first. -/
def maintWrites (s : State) : State :=
  let learns := s.flow.wbuf.filter (fun e => !s.flow.inserts.contains e)
  let s := learns.foldl (fun s e => writePlaced e s) s
  let ws := s.flow.writes
  let s := (ws.filter isConfirm).foldl (fun s w => writeWaiting w s) s
  let s := (ws.filter (fun w => !isConfirm w)).foldl (fun s w => writeWaiting w s) s
  s.flow.inserts.foldl (fun s e => writePlaced e s) s

/-! ### The maintenance window's read (R219) -/

/-- A bucket is read: its row is activated and the read may need a correction (R224), which is free. -/
def bucketRead (k bucket : Nat) (s : State) : State :=
  let c := bucket % 384
  let (n, s) := draw (useRead c (activate c (bucketOff s k bucket) s))
  if Config.readCorrected c n then eccCorrect c (bucketOff s k bucket / 2 ^ 21) s else s

/-- A record under the recovery sweep goes where it fails its check; which fail is a free value (R131; log entry 37). -/
def recoverRec (i : BitVec 32) (s : State) : State :=
  let (n, s) := draw s
  if Config.eccFails i.toNat n then remove (some .flushed) true none i s else s

/-- The buckets of a channel that hold stored records, in the order of its offsets: slice, then bucket. -/
def chanBuckets (s : State) (c : Nat) : List (Nat × Nat) :=
  (allSlices.flatMap (fun k => ((storedPlaces s k).filter (fun p => chanOfPlace p == c)).map (fun p => (k, p / 2)))).dedup

/-- The place of a bucket in that order. -/
def bucketRank (e : Nat × Nat) : Nat := e.1 * 2 ^ 22 + e.2

/-- The recovery sweep of a channel reads one bucket. -/
def recoverStep (c : Nat) (s : State) : State :=
  if !chanActive s c || readBusy s c then s
  else
    match (chanBuckets s c).find? (fun e => decide (bucketRank e ≥ tget s.hbm.recover c 0)) with
    | none => { s with hbm := { s.hbm with recover := tdel s.hbm.recover c } }
    | some (k, b) =>
      let s := bucketRead k b { s with hbm := { s.hbm with recover := tset s.hbm.recover c (bucketRank (k, b) + 1) } }
      [2 * b, 2 * b + 1].foldl (fun s p => if (tfind s.flow.hbm (k, p)).isSome then recoverRec (hbmIndex k p) s else s) s

/-- A bucket's records under a scan: swept, or flushed. -/
def scanBucket (x : Scan) (b : Nat) (s : State) : State :=
  [2 * b, 2 * b + 1].foldl (fun (s : State) p =>
    let i := hbmIndex x.slice p
    match x.flush with
    | none => sweepRec x.slice i s
    | some h =>
      match s.flow.flushes.find? (fun f => f.hdr = h) with
      | some f => flushRec f i s
      | none => s) s

/-- The buckets a scan has still to read, on channels that will be read; a retired channel holds none. -/
def scanLeft (s : State) (x : Scan) : List Nat :=
  ((storedPlaces s x.slice).map (fun p => p / 2)).dedup.filter (fun b => decide (b ≥ tget x.next (b % 384) 0))

/-- A scan takes the read of every channel on which it has still a bucket; on a frozen channel it waits (Table 10-5). -/
def scanStep (x : Scan) (s : State) : State :=
  if agentDown s x.slice then s
  else
    let (x', s) := (scanLeft s x).foldl (fun (acc : Scan × State) b =>
      let c := b % 384
      if !chanActive acc.2 c || readBusy acc.2 c then acc
      else ({ acc.1 with next := tset acc.1.next c (b + 1) }, scanBucket x b (bucketRead x.slice b acc.2))) (x, s)
    { s with flow := { s.flow with scans := s.flow.scans.flatMap (fun y =>
        if y = x then (if (scanLeft s x').isEmpty then [] else [x']) else [y]) } }

/-- FLOW_SEARCH's bucket has been read. -/
def searchRead (h : Hdr) (k bucket : Nat) (key : FlowKey) (s : State) : State :=
  let r := (recsOf s k).find? (fun e => recKey e.2 == key && (standsOnDie s e.1 || idxPlace e.1 / 2 == bucket))
  match r with
  | none => answer h 0x0601 .notFound none [] s
  | some (i, r) =>
    let (l, s) := recFlds [(i, withPending s i r)] s
    answer h 0x0601 .ok none l s

/-- A command's walk takes the reads it needs, in the order of the walk. -/
def walkStep (w : Walk) (s : State) : State :=
  let gone (s : State) : State := { s with flow := { s.flow with walks := s.flow.walks.erase w } }
  match w with
  | .search h k b key =>
    let c := b % 384
    if (chanOf s c).st = .retired then searchRead h k b key (gone s)
    else if !chanActive s c || readBusy s c then s
    else searchRead h k b key (bucketRead k b (gone s))
  | .next h cursor value mask count found =>
    match walkOn s (fun c => chanActive s c && !readBusy s c) value mask (walkRest s cursor) (count - found.length) found [] with
    | (found, read, next, done) =>
      let s := read.foldl (fun s e => bucketRead e.1 e.2 s) s
      if done then
        let (l, s) := nextFlds found next (gone s)
        answer h 0x0602 .ok none l s
      else
        { s with flow := { s.flow with walks := s.flow.walks.map (fun x => if x = w then .next h next value mask count found else x) } }

/-- The one read of every channel: the recovery sweep, sweeps and flushes by home slice in rotation from slice h mod 32, then commands. -/
def maintReads (h : Nat) (s : State) : State :=
  let s := s.hbm.recover.foldl (fun s e => recoverStep e.1 s) s
  let s := (List.range 32).foldl (fun (s : State) n =>
    (s.flow.scans.filter (fun x => x.slice == (h + n) % 32)).foldl (fun s x => scanStep x s) s) s
  s.flow.walks.foldl (fun s w => walkStep w s) s

/-! ### The headway -/

/-- Ageing sweeps that are due begin (R125). -/
def startSweeps (s : State) : State :=
  if s.flow.resident.isEmpty && s.flow.hbm.isEmpty then s
  else allSlices.foldl (fun s k => if agentDown s k || !sweepDue k s then s else sweepSlice k s) s

/-- The flow and maintenance windows of the headway `h` that begins. -/
def maintHeadway (h : Nat) (s : State) : State :=
  flushFinished (maintReads h (maintWrites (flushStep (startSweeps (wbHeadway s)))))

/-- A command that ends without its commit point has nothing left to take effect. -/
def dropWaits (h : Hdr) (s : State) : State :=
  let keep (w : Walk) : Bool := match w with
    | .search x _ _ _ => x != h
    | .next x _ _ _ _ _ => x != h
  { s with flow := { s.flow with
    walks := s.flow.walks.filter keep, writes := s.flow.writes.filter (fun w => w.hdr != some h) } }

end Sys2Proof.Machine
end

