-- ==== Sys2Proof/Machine/Memory.lean ====
section
/-! DEFINITION. An agent's data memory (Table 14-1): 262,144 bytes, kept as cells with strictly rising addresses and no zero byte;
an unlisted address reads as zero, which SANITIZE leaves there (Table 16-5). -/

namespace Sys2Proof.Machine

/-- The byte at an address. -/
def cellGet (m : List Host.Cell) (a : Nat) : Byte :=
  match m with
  | [] => 0
  | (b, v) :: r => if b = a then v else cellGet r a

/-- Writes a byte, keeping the cells in order; a zero byte takes its cell out. -/
def cellSet (a : Nat) (v : Byte) (m : List Host.Cell) : List Host.Cell :=
  match m with
  | [] => if v = 0 then [] else [(a, v)]
  | (b, w) :: r =>
    if b = a then (if v = 0 then r else (a, v) :: r)
    else if a < b then (if v = 0 then (b, w) :: r else (a, v) :: (b, w) :: r)
    else (b, w) :: cellSet a v r

/-- The canonical form: addresses strictly rising, no zero byte. -/
def Memory.wf (m : List Host.Cell) : Bool :=
  decide (m.Pairwise (fun x y => x.1 < y.1)) && m.all (fun c => c.2 != 0)

/-- The addresses of a 64-bit word, which wrap at the memory's end. -/
def wordAddrs (a : Nat) : List Nat := (List.range 8).map (fun i => (a + i) % 262144)

/-- The little-endian word at an address (R6). -/
def memRead (m : List Host.Cell) (a : Nat) : W64 :=
  BitVec.ofNat 64 ((List.range 8).foldl (fun n i => n + (cellGet m ((a + i) % 262144)).toNat * 256 ^ i) 0)

/-- Stores a little-endian word. -/
def memWrite (m : List Host.Cell) (a : Nat) (v : W64) : List Host.Cell :=
  (List.range 8).foldl (fun m i => cellSet ((a + i) % 262144) (v.extractLsb' (8 * i) 8) m) m

end Sys2Proof.Machine
end

