-- ==== Sys2Proof/Machine/Operands.lean ====
section
/-! DEFINITION. The operands of an agent microword: its fields (Table 14-3), and the thread's registers and FLAGS they name. -/

namespace Sys2Proof.Machine

/-! ### Fields (Table 14-3) -/

def mwClass (w : BitVec 256) : Nat := field w 0 4
def mwCond (w : BitVec 256) : Nat := field w 4 5
def mwCinv (w : BitVec 256) : Bool := w.getLsbD 9
def mwNext (w : BitVec 256) : Nat := field w 10 13
def mwBranch (w : BitVec 256) : Nat := field w 23 13
def mwDst (w : BitVec 256) : Nat := field w 36 4
def mwSrcA (w : BitVec 256) : Nat := field w 40 4
def mwSrcB (w : BitVec 256) : Nat := field w 44 4
def mwSubop (w : BitVec 256) : Nat := field w 48 6
def mwImm (w : BitVec 256) : W64 := w.extractLsb' 54 64
def mwBound (w : BitVec 256) : Nat := field w 118 24
def mwWcond (w : BitVec 256) : Nat := field w 142 8
def mwChan (w : BitVec 256) : Nat := field w 150 4
/-- The words of a message that a SEND with FIRST begins: MLEN + 1. -/
def mwWords (w : BitVec 256) : Nat := field w 154 3 + 1
def mwFirst (w : BitVec 256) : Bool := w.getLsbD 157

/-- A reserved class or a non-zero reserved field (R293). -/
def mwReserved (w : BitVec 256) : Bool := decide (mwClass w ≥ 14) || field w 158 98 != 0

/-! ### Registers and FLAGS (R290) -/

def xOf (th : Thread) (n : Nat) : W64 := th.xs.getD n 0
def setX (n : Nat) (v : W64) (th : Thread) : Thread := { th with xs := th.xs.set n v }

/-- Writes consecutive registers from `n` on. -/
def setXs (n : Nat) (vs : List W64) (th : Thread) : Thread :=
  (vs.zipIdx).foldl (fun (th : Thread) x => setX (n + x.2) x.1 th) th

/-- A word with one bit written. -/
def withBit {n : Nat} (f : BitVec n) (i : Nat) (b : Bool) : BitVec n :=
  if b then f ||| BitVec.ofNat n (2 ^ i) else f &&& ~~~(BitVec.ofNat n (2 ^ i))

def flagK : Nat := 4
def flagT : Nat := 5
def setFlag (i : Nat) (b : Bool) (th : Thread) : Thread := { th with flags := withBit th.flags i b }

/-- LEN, bits [11:8]. -/
def setLen (n : Nat) (th : Thread) : Thread :=
  { th with flags := (th.flags &&& 0xF0FF) ||| BitVec.ofNat 16 (n % 16 * 256) }

/-- Z, N, C and V, bits [3:0]. -/
def setZncv (v : BitVec 4) (th : Thread) : Thread := { th with flags := (th.flags &&& 0xFFF0) ||| v.setWidth 16 }

/-- The flag or agent flag that COND names (its codes are free), inverted where CINV is set (Table 14-3). -/
def condTrue (a : AgentSt) (th : Thread) (w : BitVec 256) : Bool :=
  (match Config.condBit (mwCond w) with
   | 0 => false
   | v + 1 => if v < 16 then th.flags.getLsbD v else a.aflags.getLsbD (v % 8)) != mwCinv w

/-- The word that follows one whose effect is done. -/
def nextWord (a : AgentSt) (th : Thread) (w : BitVec 256) : Nat := if condTrue a th w then mwBranch w else mwNext w

end Sys2Proof.Machine
end

