-- ==== Sys2Proof/Machine/Tasks.lean ====
section
/-! DEFINITION. Task descriptors, the dispatcher, cancels and the dispatch trace (R304–R309), and the task commands of Table 14-11. -/

namespace Sys2Proof.Machine

/-- The agent cycle counter (Table 14-1). -/
def agentClock (s : State) (k : Nat) : Nat := (s.time.now - (agentOf s k).base) % 2 ^ 48

def taskOf (s : State) (k id : Nat) : Task := tget (agentOf s k).tasks id Task.init
def updTask (k id : Nat) (f : Task → Task) (s : State) : State :=
  updAgent k (fun a => { a with tasks := tset a.tasks id (f (tget a.tasks id Task.init)) }) s

/-- The high-priority thread (R291). -/
def hpOf (a : AgentSt) : Nat :=
  match a.image with
  | none => 0
  | some i => i.roles.findIdx (fun r => r.enable && r.highPrio)

def roleOf (a : AgentSt) (t : Nat) : Option Role := a.image.bind (fun i => i.roles[t]?)

/-- The world of an agent's thread and of its channel (Table 16-1). -/
def threadWorld (s : State) (k t : Nat) : World := worldOf s .thread (8 * k + t)
def chanWorld (s : State) (k c : Nat) : World := worldOf s .channel (16 * k + c)

/-- Whether an agent runs: an image is active, no reset is in progress, it is not halted, and the module's mode keeps it running. -/
def agentRuns (s : State) (k : Nat) : Bool :=
  decide (k < 32) && (agentOf s k).image.isSome && (agentOf s k).reset.isNone && (agentOf s k).halted.isNone &&
    s.mode.mode != .standby && s.mode.mode != .sanitize && s.mode.mode != .halt

/-! ### The dispatch trace (R308, R309) -/

/-- The order of the events of one cycle: CANCEL, CANCEL_REFUSED, READY, PREFETCH, START, DONE. -/
def eventRank : Nat → Nat
  | 5 => 0 | 6 => 1 | 1 => 2 | 2 => 3 | 3 => 4 | _ => 5

/-- Whether an entry is recorded after another of its cycle: by event, then by thread. -/
def recordedAfter (x e : TraceEnt) : Bool :=
  x.cycle == e.cycle && x.orbit == e.orbit &&
    (decide (eventRank x.event > eventRank e.event) || (x.event == e.event && decide (x.thread > e.thread)))

/-- An entry takes its place among those of its cycle, at the end. -/
def recordEntry (l : List TraceEnt) (e : TraceEnt) : List TraceEnt :=
  let n := l.length - (l.reverse.takeWhile (fun x => recordedAfter x e)).length
  l.take n ++ e :: l.drop n

/-- Records a dispatch event; the oldest of 256 entries is overwritten. A streamed entry waits for its ring. -/
def traceEvent (k event : Nat) (host : Bool) (thread id : Nat) (s : State) : State :=
  let t := taskOf s k id
  let e : TraceEnt := ⟨agentClock s k, event, host, thread, id, t.prio, t.type, s.time.orbit⟩
  updAgent k (fun a => { a with
    trace := (recordEntry a.trace e).drop ((a.trace.length + 1) - 256)
    sPend := if a.stream.isSome then recordEntry a.sPend e else a.sPend }) s

/-! ### Ready lists (R305) -/

def readyList (a : AgentSt) (p : Nat) : List Nat := tget a.lists p []

/-- Makes an IDLE task ready: the tail of the list of its priority. `by_` is the command that asks for it. -/
def makeReady (k id : Nat) (by_ : Option Hdr) (thread : Nat) (s : State) : State :=
  let p := (taskOf s k id).prio
  let s := updTask k id (fun t => { t with st := .ready, readyAt := s.time.now, readyBy := by_ }) s
  let s := updAgent k (fun a => { a with lists := tset a.lists p (readyList a p ++ [id]) }) s
  traceEvent k 1 by_.isSome thread id s

/-- Whether a cancel of the same task stands in this cycle; it wins over a make-ready (R307). -/
def justCancelled (s : State) (t : Task) : Bool := t.cancelAt == s.time.now + 1

/-- A cancel in the cycle of a task's make-ready wins: the make-ready has had no effect, so its READY is not traced and its reply, where it
still waits, is CANCELLED (R307). -/
def unready (k id : Nat) (s : State) : State :=
  let t := taskOf s k id
  if t.readyAt ≠ s.time.now then s
  else
    let ready (e : TraceEnt) : Bool := e.event == 1 && e.task == id && e.cycle == agentClock s k
    let s := updAgent k (fun a => { a with trace := a.trace.filter (fun e => !ready e), sPend := a.sPend.filter (fun e => !ready e) }) s
    match t.readyBy with
    | none => s
    | some h => { s with qcp := { s.qcp with waiting := tset s.qcp.waiting h.ring ((tget s.qcp.waiting h.ring []).map (fun r =>
        if r.hdr = h ∧ r.opcode = 0x0C05 ∧ r.status = .ok then { r with status := .cancelled } else r)) } }

/-- The cancel of a task (Table 14-8): OK, RUNNING or NOT_FOUND. -/
def cancelTask (k id : Nat) (host : Bool) (thread : Nat) (s : State) : Status × State :=
  let t := taskOf s k id
  let noted (f : Task → Task) (s : State) : State := updTask k id (fun t => f { t with cancelAt := s.time.now + 1 }) s
  match t.st with
  | .ready =>
    let s := noted (fun t => { t with st := .idle }) (unready k id s)
    let s := updAgent k (fun a => { a with lists := tset a.lists t.prio ((readyList a t.prio).filter (· ≠ id)) }) s
    (.ok, traceEvent k 5 host thread id s)
  | .prefetched =>
    let s := noted (fun t => { t with st := .idle }) s
    let s := updThread k t.thread (fun th => { th with slot := none }) s
    (.ok, traceEvent k 5 host thread id s)
  | .running => (.running, traceEvent k 6 host thread id (bump .cancelRefused k 0 s))
  | .idle => (.notFound, noted (fun t => t) s)
  | .free => (.notFound, s)

/-! ### The dispatcher (R305) -/

/-- The task an empty slot takes: the first of the highest level that the thread accepts, is of its world and was made ready in an
earlier cycle. -/
def pickTask (s : State) (k t : Nat) : Option Nat :=
  let a := agentOf s k
  let mask := ((roleOf a t).map (fun r => r.typeMask)).getD 0
  let fits (id : Nat) : Bool :=
    let x := taskOf s k id
    mask.getLsbD x.type && x.world == threadWorld s k t && decide (x.readyAt < s.time.now)
  [7, 6, 5, 4, 3, 2, 1, 0].findSome? (fun p => (readyList a p).find? fits)

def prefetchInto (k t : Nat) (s : State) : State :=
  if (threadOf (agentOf s k) t).slot.isSome then s
  else
    match pickTask s k t with
    | none => s
    | some id =>
      let p := (taskOf s k id).prio
      let s := updTask k id (fun x => { x with st := .prefetched, thread := t }) s
      let s := updAgent k (fun a => { a with lists := tset a.lists p ((readyList a p).filter (· ≠ id)) }) s
      traceEvent k 2 false t id (updThread k t (fun th => { th with slot := some id }) s)

/-- The threads in the dispatcher's order: hp, then ascending. -/
def threadOrder (a : AgentSt) : List Nat := hpOf a :: (List.range 8).filter (fun t => t ≠ hpOf a)

/-- The dispatcher visits every empty slot of an agent. -/
def dispatch (slice : Nat) (s : State) : State :=
  if agentRuns s slice then (threadOrder (agentOf s slice)).foldl (fun s t => prefetchInto slice t s) s else s

/-- TASK_PREFETCH: the dispatcher's visit comes at the end of the cycle. -/
def execTaskPrefetch (slice : Nat) (s : State) : Host.Outcome State Fault Refusal :=
  within s (.next (deferWrite (.prefetch slice) s))

/-! ### Task commands (Table 14-11) -/

/-- The world of the task a command names; none where no such task exists. -/
def taskWorld (s : State) (k id : Nat) : Option World :=
  if k < 32 ∧ id < 4096 ∧ (taskOf s k id).st ≠ .free then some (taskOf s k id).world else none

def taskIndexBad (k id : Nat) : Option Out :=
  if k ≥ 32 then some (badParam (po 0)) else if id ≥ 4096 then some (badParam (po 1)) else none

/-- The lowest FREE task of an agent. -/
def freeTask (s : State) (slice : Nat) : Option Nat := (List.range 4096).find? (fun id => (taskOf s slice id).st == .free)

def execTaskCreate (h : Hdr) (slice : Nat) (type : Nat) (prio : Nat) (autoFree : Bool) (args : List W64) (s : State) :
    Host.Outcome State Fault Refusal :=
  within s (
    .next (qcp { code := 0x0C04 } h (fun s =>
      if slice ≥ 32 then badParam (po 0)
      else if type > 31 then badParam (po 1)
      else if prio > 7 then badParam (po 2)
      else if args.length ≠ 3 then badParam (po 4)
      else
        match freeTask s slice with
        | none => .refuse .tableFull none
        | some id =>
          .done [fld "TASK" id] (updTask slice id (fun t => { Task.init with
            type := type, prio := prio, st := .idle, autoFree := autoFree, gen := t.gen, args := args
            world := (ringWorld s h.ring).getD .nonSecure }) s)) s))

def execTaskReady (h : Hdr) (slice : Nat) (task : Nat) (s : State) : Host.Outcome State Fault Refusal :=
  within s (
    .next (qcp { code := 0x0C05, world := .owned (taskWorld s slice task) } h (fun s =>
      match taskIndexBad slice task with
      | some o => o
      | none =>
        match (taskOf s slice task).st with
        | .free => .refuse .notFound none
        | .idle => if justCancelled s (taskOf s slice task) then .refuse .cancelled none else .done [] (makeReady slice task (some h) 0 s)
        | .ready | .prefetched | .running => .refuse .exists_ (some (.entry task))) s))

def execTaskCancel (h : Hdr) (slice : Nat) (task : Nat) (s : State) : Host.Outcome State Fault Refusal :=
  within s (
    .next (qcp { code := 0x0C06, world := .owned (taskWorld s slice task) } h (fun s =>
      match taskIndexBad slice task with
      | some o => o
      | none =>
        if (cancelTask slice task true 0 s).1 = .ok then .done [] (cancelTask slice task true 0 s).2
        else .reply (cancelTask slice task true 0 s).1 none [] (cancelTask slice task true 0 s).2) s))

/-- STATE codes (Table 14-7). -/
def taskStCode : TaskState → Nat
  | .free => 0 | .idle => 1 | .ready => 2 | .prefetched => 3 | .running => 4

/-- The fields of a task descriptor (Table 14-7); the draws from `n` on fill the reserved bits, and THREAD where no thread has the task. -/
def taskFlds (t : Task) (n : Nat) : List RField :=
  [⟨"TYPE", 1, [withUndefined t.type (bitsMask 7 5) n]⟩, ⟨"PRIO", 1, [t.prio]⟩, ⟨"STATE", 1, [taskStCode t.st]⟩,
    ⟨"FLAGS", 1, [withUndefined (t.autoFree.toNat + 2 * t.restart.toNat) (bitsMask 7 2) (n + 1)]⟩,
    ⟨"THREAD", 1, [if t.st = .prefetched ∨ t.st = .running then withUndefined t.thread (bitsMask 7 3) (n + 2)
      else withUndefined 0 (bitsMask 7 0) (n + 2)]⟩, ⟨"RESERVED", 1, [withUndefined 0 (bitsMask 7 0) (n + 3)]⟩,
    ⟨"GEN", 2, [t.gen]⟩, flds "ARGS" (t.args.map (fun v => v.toNat))]

def execTaskRead (h : Hdr) (slice : Nat) (task : Nat) (s : State) : Host.Outcome State Fault Refusal :=
  within s (
    .next (qcp { code := 0x0C07, world := .owned (taskWorld s slice task), reads := true } h (fun s =>
      match taskIndexBad slice task with
      | some o => o
      | none =>
        .done (taskFlds (taskOf s slice task) s.fresh) (draws 4 s)) s))

def execTaskFree (h : Hdr) (slice : Nat) (task : Nat) (s : State) : Host.Outcome State Fault Refusal :=
  within s (
    .next (qcp { code := 0x0C08, world := .owned (taskWorld s slice task) } h (fun s =>
      match taskIndexBad slice task with
      | some o => o
      | none =>
        if (taskOf s slice task).st = .idle then .done [] (updTask slice task (fun t => { t with st := .free }) s)
        else .refuse .resourceClaimed (some (.holder 5 0 slice 0))) s))

/-! ### Trace commands -/

/-- A trace entry (Table 14-9); the draw `n` fills its reserved bits. -/
def traceFlds (e : TraceEnt) (n : Nat) : List RField :=
  [⟨"CYCLE", 6, [e.cycle]⟩, ⟨"EVENT", 1, [e.event]⟩,
   ⟨"SOURCE", 1, [withUndefined (e.thread + 128 * e.host.toNat) (bitsMask 6 3) n]⟩,
   ⟨"TASK", 2, [withUndefined e.task (bitsMask 15 12) n]⟩,
   ⟨"PRIO", 1, [e.prio]⟩, ⟨"TYPE", 1, [e.type]⟩, ⟨"ORBIT", 4, [e.orbit]⟩]

def execTraceRead (h : Hdr) (slice : Nat) (s : State) : Host.Outcome State Fault Refusal :=
  within s (
    .next (qcp { code := 0x0C09, reads := true } h (fun s =>
      if slice ≥ 32 then badParam (po 0)
      else
        let l := (agentOf s slice).trace
        .done (l.zipIdx.flatMap (fun e => traceFlds e.1 (s.fresh + e.2))) (draws l.length s)) s))

/-- A stream ring of R309: base aligned to 4 KiB, a power of two of 256 to 65,536 entries. -/
def streamBad (addr entries : Nat) : Option Out :=
  if addr % 4096 ≠ 0 then some (badParam (po 1))
  else if [256, 512, 1024, 2048, 4096, 8192, 16384, 32768, 65536].contains entries then none
  else some (badParam (po 2))

/-- A stream starts or stops; its indices are 0 and entries not yet sent are dropped. -/
def streamSet (slice : Nat) (x : Option (Hdr × Nat × Nat)) (s : State) : State :=
  updAgent slice (fun a => { a with stream := x, sTail := 0, sHead := 0, sPend := [] }) s

def execTraceStream (h : Hdr) (slice : Nat) (addr : Nat) (entries : Nat) (enable : Bool) (s : State) :
    Host.Outcome State Fault Refusal :=
  within s (
    .next (qcp { code := 0x0C0A, host := true } h (fun s =>
      if slice ≥ 32 then badParam (po 0)
      else
        match (if enable then streamBad addr entries else none) with
        | some o => o
        | none =>
          match (agentOf s slice).stream with
          | some (g, _, _) =>
            if g.ring ≠ h.ring then .refuse .resourceClaimed (some (holdDetail g 0x0C0A))
            else .done [] (streamSet slice (if enable then some (h, addr, entries) else none) s)
          | none => .done [] (streamSet slice (if enable then some (h, addr, entries) else none) s)) s))

/-- Whether a stream ring is full. -/
def streamFull (a : AgentSt) (entries : Nat) : Bool := decide ((a.sTail + entries - a.sHead) % entries ≥ entries - 1)

/-- An entry leaves the wait for the stream ring. -/
def unpend (slice : Nat) (rest : List TraceEnt) (s : State) : State := updAgent slice (fun a => { a with sPend := rest }) s

/-- An entry is copied to the stream ring. -/
def streamed (slice entries : Nat) (e : TraceEnt) (s : State) : State :=
  updAgent slice (fun a => { a with sTail := (a.sTail + 1) % entries, sOut := a.sOut ++ [(e, s.fresh)] }) (drawn s)

/-- A streamed entry as its 16 bytes stand in the host's ring (Table 14-9). -/
def traceImage (e : TraceEnt × Nat) : List Byte := (traceFlds e.1 e.2).flatMap (fun f => f.vals.flatMap (leNum f.width))

/-- TRACE_STREAM_ENTRY: the oldest entry still to be streamed is copied, or dropped where the ring is full; while PERST# is low it
is discarded (R366). -/
def execTraceStreamEntry (slice : Nat) (s : State) : Host.Outcome State Fault Refusal :=
  within s (
    match (agentOf s slice).stream, (agentOf s slice).sPend with
    | some (_, _, entries), e :: rest =>
      if s.mmc.perst then .next (bump .pcieResetDiscard 0 0 (unpend slice rest s))
      else if streamFull (agentOf s slice) entries then .next (bump .traceDrop slice 0 (unpend slice rest s))
      else .next (streamed slice entries e (unpend slice rest s))
    | _, _ => .next s)

end Sys2Proof.Machine
end

