-- ==== Sys2Proof/Machine/Agent.lean ====
section
/-! DEFINITION. How a table agent issues microwords (R292–R303): the pick of a thread, traps, waits, channels, timers, and the
meaning of each class of word. -/

namespace Sys2Proof.Machine

/-! ### The pick (R292) -/

/-- Issuable: enabled and not waiting, stalled, stopped by HALT or stopped by the debugger; from the cycle after its last word. -/
def issuable (s : State) (a : AgentSt) (t : Nat) : Bool :=
  let th := threadOf a t
  th.enabled && th.wait.isNone && !th.halted && !th.dbg && decide (th.freeFrom ≤ s.time.now)

def pickThread (s : State) (k : Nat) : Option Nat :=
  let a := agentOf s k
  let hp := hpOf a
  if issuable s a hp then some hp
  else ((List.range 7).map (fun n => (a.last + n + 1) % 8)).find? (fun t => t != hp && issuable s a t)

/-- A word of an image; one the image does not list is all zeros. -/
def agentWord (i : AgentImage) (n : Nat) : BitVec 256 := tget i.words n 0

def wordOf (s : State) (k t : Nat) : BitVec 256 :=
  let a := agentOf s k
  match a.image with
  | none => 0
  | some i => agentWord i (threadOf a t).pc

/-- The word that issues in this cycle, where none has yet. -/
def pickWord (s : State) (k : Nat) : Option (Nat × BitVec 256) :=
  if agentRuns s k && (agentOf s k).issuedAt != s.time.now + 1 then (pickThread s k).map (fun t => (t, wordOf s k t)) else none

/-- The issue itself: counted, and remembered for the pick that follows. -/
def noteIssue (k t : Nat) (s : State) : State :=
  let s := updAgent k (fun a => { a with
    issuedAt := s.time.now + 1, last := if t = hpOf a then a.last else t }) s
  pmcCount k 0x00A t 1 (bump .agentIssued k t s)

/-! ### Traps (R298, Tables 14-5, 14-6) -/

/-- The agent halts with its state kept: cause 1 TRAP_OVERFLOW, 2 DEADLOCK. -/
def haltAgent (k cause : Nat) (s : State) : State :=
  bump .agentHalts k 0 (updAgent k (fun a => { a with halted := some cause }) s)

/-- The save area of a depth. -/
def saveOf (th : Thread) (depth : Nat) : Option SaveArea := th.saves.find? (fun x => x.depth = depth)

/-- Whether a trap of a thread would raise its depth to 3. -/
def trapOverflows (s : State) (k t : Nat) : Bool := decide ((threadOf (agentOf s k) t).depth ≥ 2)

/-- Where a trap continues: DL_VECTOR for DEADLOCK (2), else TRAP_VECTOR. -/
def vectorOf (a : AgentSt) (t cause : Nat) : Nat :=
  match roleOf a t with
  | none => 0
  | some r => if cause = 2 then r.dlVector else r.trapVector

/-- A micro-trap: saves the thread's state for the new depth and continues at its vector, or halts the agent. -/
def takeTrap (k t cause info saved : Nat) (s : State) : State :=
  if trapOverflows s k t then haltAgent k 1 s
  else
    let a := agentOf s k
    let th := threadOf a t
    let area : SaveArea := {
      pc := saved, cause := cause, depth := th.depth + 1, flags := th.flags, cycle := agentClock s k, info := info
      timer := th.timer, xs := th.xs
      scratch := ((saveOf th (th.depth + 1)).map (fun x => x.scratch)).getD (List.replicate 8 0) }
    let s := updThread k t (fun th => { th with
      saves := th.saves.filter (fun x => x.depth ≠ area.depth) ++ [area]
      depth := area.depth
      pc := vectorOf a t cause
      wait := none
      halted := false
      freeFrom := s.time.now + 1 }) s
    bump .agentTraps k cause s

/-! ### What a word's effect comes to -/

inductive WordOut where
  /-- The word completes. -/
  | done (s : State)
  /-- It cannot proceed and stalls on a condition of Table 14-4 (R297). -/
  | stalls (cond : Nat)
  /-- It traps, with a cause of Table 14-6 and its INFO. -/
  | traps (cause info : Nat) (s : State)
  deriving DecidableEq, Repr

/-- A word that completes: COND is tested after its effect, and the thread may issue from the next cycle. -/
def completeWord (k t : Nat) (w : BitVec 256) (s : State) : State :=
  let a := agentOf s k
  updThread k t (fun th => { th with pc := nextWord a th w, freeFrom := s.time.now + 1 }) s

/-- A thread begins a wait or a stall in this cycle (R296, R297). -/
def beginWait (k t cond : Nat) (stall : Bool) (w : BitVec 256) (s : State) : State :=
  updThread k t (fun th => { th with
    wait := some ⟨cond, mwChan w, field (mwImm w) 0 3, mwBound w, s.time.now, stall⟩ }) s

def settleWord (k t : Nat) (w : BitVec 256) (o : WordOut) (s : State) : State :=
  match o with
  | .done s' => completeWord k t w s'
  | .stalls c => beginWait k t c true w s
  | .traps c info s' => takeTrap k t c info (threadOf (agentOf s' k) t).pc s'

/-- A misuse: the ILLEGAL trap. -/
def illegal (s : State) : WordOut := .traps 4 0 s

/-- An access across worlds (R293, R323): aborted, counted and logged without its address and data; INFO holds the address. -/
def crossWorld (k t addr obj op : Nat) (s : State) : WordOut :=
  .traps 6 addr (violateBy (256 + 8 * k + t) obj op (threadWorld s k t) s)

/-- The same for an object without an address, whose INFO is free. -/
def crossObject (k t obj op : Nat) (s : State) : WordOut :=
  let (n, s) := draw s
  crossWorld k t (Config.undefinedRead n % 2 ^ 64) obj op s

/-! ### ALU and MEM (R293) -/

/-- An ALU word's result in its register, and Z, N, C and V. -/
def aluDone (k t : Nat) (w : BitVec 256) (s : State) : State :=
  let th := threadOf (agentOf s k) t
  let a := xOf th (mwSrcA w)
  let b := xOf th (mwSrcB w)
  updThread k t (fun th => setZncv (Config.aluFlags (mwSubop w) a b (mwImm w))
    (setX (mwDst w) (Config.aluResult (mwSubop w) a b (mwImm w)) th)) s

def effAlu (k t : Nat) (w : BitVec 256) (s : State) : WordOut := .done (aluDone k t w s)

/-- The world of each of the 32 KiB segments that a word at an address touches. -/
def segmentWorlds (s : State) (k addr : Nat) : List World :=
  (wordAddrs addr).map (fun a => worldOf s .segment (8 * k + a / 32768))

/-- A word of data memory written from SRC_B. -/
def memStored (k t : Nat) (w : BitVec 256) (addr : Nat) (s : State) : State :=
  updAgent k (fun a => { a with mem := memWrite a.mem addr (xOf (threadOf (agentOf s k) t) (mwSrcB w)) }) s

/-- A word of data memory read into DST. -/
def memLoaded (k t : Nat) (w : BitVec 256) (addr : Nat) (s : State) : State :=
  updThread k t (setX (mwDst w) (memRead (agentOf s k).mem addr)) s

/-- Reads or writes a word of data memory. -/
def memData (k t : Nat) (w : BitVec 256) (write : Bool) (addr : Nat) (s : State) : WordOut :=
  if (segmentWorlds s k addr).any (fun x => x != threadWorld s k t) then crossWorld k t addr 1 write.toNat s
  else .done (if write then memStored k t w addr s else memLoaded k t w addr s)

/-- The resident row an address names. -/
def rowNamed (addr : Nat) : Nat := Config.rowOfAddr addr % 32768

/-- A word of a resident row written from SRC_B; what it makes of the record is free. -/
def rowStored (k t : Nat) (w : BitVec 256) (addr : Nat) (s : State) : State :=
  let r := Config.rowWrite (tfind s.flow.resident (k, rowNamed addr)) addr (xOf (threadOf (agentOf s k) t) (mwSrcB w))
  { s with flow := { s.flow with resident := match r with
    | some x => tset s.flow.resident (k, rowNamed addr) x
    | none => tdel s.flow.resident (k, rowNamed addr) } }

/-- A word of a record read into DST; what it holds is free. -/
def wordLoaded (k t : Nat) (w : BitVec 256) (addr : Nat) (s : State) : State :=
  updThread k t (setX (mwDst w) (Config.rowWord k addr s.fresh)) (drawn s)

/-- Reads or writes a word of a row of the agent's resident store. -/
def memRow (k t : Nat) (w : BitVec 256) (write : Bool) (addr : Nat) (s : State) : WordOut :=
  if worldOf s .resRegion (16 * k + rowNamed addr / 2048) ≠ threadWorld s k t then crossWorld k t addr 2 write.toNat s
  else .done (if write then rowStored k t w addr s else wordLoaded k t w addr s)

/-- A word of the occupancy map (R220) written from SRC_B. -/
def occStored (k t : Nat) (w : BitVec 256) (addr : Nat) (s : State) : State :=
  updAgent k (fun a => { a with occ := tset a.occ addr (xOf (threadOf (agentOf s k) t) (mwSrcB w)) }) s

/-- A word of the occupancy map read into DST; one no word wrote is free. -/
def occLoaded (k t : Nat) (w : BitVec 256) (addr : Nat) (s : State) : State :=
  match tfind (agentOf s k).occ addr with
  | some v => updThread k t (setX (mwDst w) v) s
  | none => wordLoaded k t w addr s

/-- The address a MEM or HBM word names. -/
def addrOf (k t : Nat) (w : BitVec 256) (s : State) : Nat :=
  Config.memAddr (xOf (threadOf (agentOf s k) t) (mwSrcA w)) (mwImm w)

def effMem (k t : Nat) (w : BitVec 256) (s : State) : WordOut :=
  match Config.memKind (mwSubop w) % 6 with
  | 0 => memData k t w false (addrOf k t w s % 262144) s
  | 1 => memData k t w true (addrOf k t w s % 262144) s
  | 2 => memRow k t w false (addrOf k t w s) s
  | 3 => memRow k t w true (addrOf k t w s) s
  | 4 => .done (occLoaded k t w (addrOf k t w s) s)
  | _ => .done (occStored k t w (addrOf k t w s) s)

/-! ### Channels (R300–R302) -/

def msgsOf (a : AgentSt) (c : Nat) : List (Nat × List W64) := tget a.chans c []

/-- A thread that holds a channel with a staged message. -/
def holds (a : AgentSt) (c t : Nat) : Bool :=
  match (threadOf a t).staged with
  | some (c', _, _) => c' == c
  | none => false

/-- A channel is free to stage a message: no thread holds it and one of its 4 places is free. -/
def chanFree (a : AgentSt) (c : Nat) : Bool :=
  !(List.range 8).any (holds a c) && decide ((msgsOf a c).length < 4)

/-- The oldest committed message, visible from the cycle after its commit. -/
def chanMsg (s : State) (a : AgentSt) (c : Nat) : Option (List W64) :=
  match msgsOf a c with
  | [] => none
  | (at_, m) :: _ => if at_ < s.time.now then some m else none

/-- Stages a word; the message's last word commits it and releases the channel. -/
def stageWord (k t c len : Nat) (words : List W64) (s : State) : State :=
  if words.length ≥ len then
    updAgent k (fun a => { a with chans := tset a.chans c (msgsOf a c ++ [(s.time.now, words)]) })
      (updThread k t (fun th => { th with staged := none }) s)
  else updThread k t (fun th => { th with staged := some (c, len, words) }) s

/-- A message's first word is staged, of SRC_A. -/
def firstStaged (k t : Nat) (w : BitVec 256) (s : State) : State :=
  stageWord k t (mwChan w) (mwWords w) [xOf (threadOf (agentOf s k) t) (mwSrcA w)] (updThread k t (fun th => { th with
    aborted := th.aborted.filter (fun b => b != mwChan w) }) s)

/-- A message's next word is staged behind those before it. -/
def nextStaged (k t len : Nat) (ws : List W64) (w : BitVec 256) (s : State) : State :=
  stageWord k t (mwChan w) len (ws ++ [xOf (threadOf (agentOf s k) t) (mwSrcA w)]) s

def effSend (k t : Nat) (w : BitVec 256) (s : State) : WordOut :=
  let th := threadOf (agentOf s k) t
  let c := mwChan w
  if chanWorld s k c ≠ threadWorld s k t then crossObject k t 3 1 s
  else if mwFirst w then
    if th.staged.isSome then illegal s
    else if chanFree (agentOf s k) c then .done (firstStaged k t w s)
    else .stalls 2
  else
    match th.staged with
    | some (c', len, ws) => if c' = c then .done (nextStaged k t len ws w s) else illegal s
    | none =>
      if th.aborted = some c then .traps 7 c (updThread k t (fun th => { th with aborted := none }) s) else illegal s

/-- A message is received: its words from DST on, its length, its place freed. -/
def received (k t : Nat) (m : List W64) (w : BitVec 256) (s : State) : State :=
  updThread k t (fun th => setLen m.length (setXs (mwDst w) m th))
    (updAgent k (fun a => { a with chans := tset a.chans (mwChan w) ((msgsOf a (mwChan w)).drop 1) }) s)

def effRecv (k t : Nat) (w : BitVec 256) (s : State) : WordOut :=
  if chanWorld s k (mwChan w) ≠ threadWorld s k t then crossObject k t 3 0 s
  else
    match chanMsg s (agentOf s k) (mwChan w) with
    | none => .stalls 1
    | some m => if mwDst w + m.length > 16 then illegal s else .done (received k t m w s)

/-! ### TASK words (R305–R307) -/

def taskSubop (w : BitVec 256) : Nat := Config.taskOp (mwSubop w) % 4

/-- The task a TASK READY or CANCEL names. -/
def taskNamed (s : State) (k t : Nat) (w : BitVec 256) : Nat := (xOf (threadOf (agentOf s k) t) (mwSrcA w)).toNat % 4096

/-- The task of a thread's slot runs on it: its index and arguments from DST on. -/
def taken (k t id : Nat) (w : BitVec 256) (s : State) : State :=
  let s := updTask k id (fun x => { x with st := .running, thread := t }) s
  let s := updThread k t (fun th =>
    { setXs (mwDst w) (BitVec.ofNat 64 id :: (taskOf s k id).args) th with slot := none, running := some id }) s
  traceEvent k 3 false t id s

def effTake (k t : Nat) (w : BitVec 256) (s : State) : WordOut :=
  if mwDst w > 12 then illegal s
  else
    match (threadOf (agentOf s k) t).slot with
    | none => .stalls 3
    | some id => .done (taken k t id w s)

/-- The task a thread runs is done: FREE or IDLE by AUTO_FREE, its generation one higher. -/
def finished (k t id : Nat) (s : State) : State :=
  let s := updTask k id (fun x => { x with
    st := if x.autoFree then .free else .idle, gen := (x.gen + 1) % 65536 }) s
  let s := updThread k t (fun th => { th with running := none }) s
  traceEvent k 4 false t id (bump .tasksDone k 0 s)

def effDone (k t : Nat) (_w : BitVec 256) (s : State) : WordOut :=
  match (threadOf (agentOf s k) t).running with
  | none => illegal s
  | some id => .done (finished k t id s)

/-- A task of the other world. -/
def taskForeign (s : State) (k t id : Nat) : Bool :=
  (taskOf s k id).st != .free && (taskOf s k id).world != threadWorld s k t

/-- READY of an IDLE task that no cancel of this cycle names succeeds. -/
def readyOk (s : State) (x : Task) : Bool := x.st == .idle && !justCancelled s x

/-- TASK READY: K says whether the task was made ready. -/
def readied (k t id : Nat) (s : State) : State :=
  updThread k t (setFlag flagK (readyOk s (taskOf s k id))) (if readyOk s (taskOf s k id) then makeReady k id none t s else s)

def effReady (k t : Nat) (w : BitVec 256) (s : State) : WordOut :=
  if taskForeign s k t (taskNamed s k t w) then crossObject k t 4 2 s else .done (readied k t (taskNamed s k t w) s)

/-- TASK CANCEL: K says whether the task was cancelled. -/
def cancelled (k t id : Nat) (s : State) : State :=
  updThread k t (setFlag flagK ((cancelTask k id false t s).1 == .ok)) (cancelTask k id false t s).2

def effCancel (k t : Nat) (w : BitVec 256) (s : State) : WordOut :=
  if taskForeign s k t (taskNamed s k t w) then crossObject k t 4 3 s else .done (cancelled k t (taskNamed s k t w) s)

/-! ### HBM, RING, FLAG, TIMER, RESUME, HALT, WAIT, NOP -/

/-- HBM places a request in the maintenance window. -/
def requested (k t : Nat) (w : BitVec 256) (s : State) : State :=
  updThread k t (fun th => { th with
    hbmDone := false
    hbmBusy := some ⟨Config.hbmIsWrite (mwSubop w), addrOf k t w s, xOf (threadOf (agentOf s k) t) (mwSrcB w), mwDst w⟩ }) s

def effHbm (k t : Nat) (w : BitVec 256) (s : State) : WordOut :=
  if worldOf s .hbmRegion (Config.hbmRegion (addrOf k t w s) % 256) ≠ threadWorld s k t then
    crossWorld k t (addrOf k t w s % 2 ^ 64) 5 (Config.hbmIsWrite (mwSubop w)).toNat s
  else .done (requested k t w s)

/-- A word of the learn ring read into DST; what it holds is free. -/
def ringRead (k t : Nat) (w : BitVec 256) (s : State) : State :=
  updThread k t (setX (mwDst w) (BitVec.ofNat 64 (Config.undefinedRead s.fresh))) (drawn s)

/-- SRC_A joins the export queue. -/
def exported (k t : Nat) (w : BitVec 256) (s : State) : State :=
  updAgent k (fun a => { a with exports := a.exports ++ [xOf (threadOf (agentOf s k) t) (mwSrcA w)] }) s

def effRing (k t : Nat) (w : BitVec 256) (s : State) : WordOut :=
  if Config.ringReads (mwSubop w) then
    if (tget s.flow.arrived k []).isEmpty then .stalls 4 else .done (ringRead k t w s)
  else if (agentOf s k).exports.length ≥ 1024 then .stalls 5
  else .done (exported k t w s)

/-- An agent flag set or cleared. -/
def flagged (k : Nat) (w : BitVec 256) (s : State) : State :=
  updAgent k (fun a => { a with aflags := withBit a.aflags (field (mwImm w) 0 3) (Config.flagSets (mwSubop w)) }) s

def effFlag (k _t : Nat) (w : BitVec 256) (s : State) : WordOut := .done (flagged k w s)

/-- An IMM that R295 admits for a TIMER word. -/
def spanOk (w : BitVec 256) : Bool := decide (1 ≤ (mwImm w).toNat) && decide ((mwImm w).toNat < 2 ^ 47)

/-- The compare a TIMER word arms: the cycle counter plus IMM; a free value for an IMM outside its range (log entry 98). -/
def compareOf (k : Nat) (w : BitVec 256) (s : State) : Nat :=
  (if spanOk w then agentClock s k + (mwImm w).toNat else Config.undefinedRead s.fresh) % 2 ^ 48

/-- A timer armed, with T cleared. -/
def armed (k t : Nat) (w : BitVec 256) (s : State) : State :=
  let s' := updThread k t (fun th => setFlag flagT false { th with timer := some (compareOf k w s) }) s
  if spanOk w then s' else drawn s'

def disarmed (k t : Nat) (s : State) : State := updThread k t (fun th => { th with timer := none }) s

/-- TIMER (R295): arms, or disarms. -/
def effTimer (k t : Nat) (w : BitVec 256) (s : State) : WordOut :=
  .done (if Config.timerArms (mwSubop w) then armed k t w s else disarmed k t s)

def effNop (_k _t : Nat) (_w : BitVec 256) (s : State) : WordOut := .done s

/-- The saved PC, FLAGS and registers come back and the depth falls to `d`. -/
def restored (k t d : Nat) (x : SaveArea) (s : State) : State :=
  updThread k t (fun th => { th with
    pc := x.pc, flags := x.flags, xs := x.xs, depth := d, freeFrom := s.time.now + 1 }) s

/-- RESUME (R299): the saved PC, FLAGS and registers as they stand; the depth falls by 1. -/
def resumeThread (k t : Nat) (s : State) : State :=
  let th := threadOf (agentOf s k) t
  match th.depth, saveOf th th.depth with
  | d + 1, some x => restored k t d x s
  | _, _ => takeTrap k t 4 0 th.pc s

/-- WAIT begins its wait; a condition on a channel of the other world is an access to it (R301). -/
def startWait (k t : Nat) (w : BitVec 256) (s : State) : State :=
  if (mwWcond w = 1 ∨ mwWcond w = 2) ∧ chanWorld s k (mwChan w) ≠ threadWorld s k t then
    settleWord k t w (crossObject k t 3 4 s) s
  else beginWait k t (mwWcond w) false w s

/-! ### The effect of the word of a thread, whatever its class -/

/-- A trap that a word's issue takes whatever it does: UCODE_ECC (R294), ILLEGAL for a reserved word, SOFT for a TRAP word. -/
def issueTrap (s : State) (k t : Nat) (w : BitVec 256) : Option Nat :=
  let a := agentOf s k
  if a.badWords.contains (threadOf a t).pc then some 5
  else if mwReserved w then some 4
  else if mwClass w = 8 then some 3
  else none

/-- SOFT saves the word after, every other cause the trapping word. -/
def takeIssueTrap (k t cause : Nat) (w : BitVec 256) (s : State) : State :=
  let a := agentOf s k
  let th := threadOf a t
  takeTrap k t cause 0 (if cause = 3 then nextWord a th w else th.pc) s

def effTask (k t : Nat) (w : BitVec 256) (s : State) : WordOut :=
  match taskSubop w with
  | 0 => effTake k t w s
  | 1 => effDone k t w s
  | 2 => effReady k t w s
  | _ => effCancel k t w s

/-- The effect of a word that can stall (R297); others do not come here. -/
def stallEffect (k t : Nat) (w : BitVec 256) (s : State) : WordOut :=
  match mwClass w with
  | 3 => effSend k t w s
  | 4 => effRecv k t w s
  | 7 => effTask k t w s
  | _ => effRing k t w s

/-- HALT stops its thread at the word. -/
def haltThread (k t : Nat) (s : State) : State := updThread k t (fun th => { th with halted := true }) s

/-- One word of a thread, run in full. -/
def runWord (k t : Nat) (w : BitVec 256) (s : State) : State :=
  match issueTrap s k t w with
  | some c => takeIssueTrap k t c w s
  | none =>
    match mwClass w with
    | 0 => completeWord k t w s
    | 1 => settleWord k t w (effAlu k t w s) s
    | 2 => settleWord k t w (effMem k t w s) s
    | 5 => startWait k t w s
    | 6 => settleWord k t w (effTimer k t w s) s
    | 9 => resumeThread k t s
    | 10 => settleWord k t w (effHbm k t w s) s
    | 12 => settleWord k t w (effFlag k t w s) s
    | 13 => haltThread k t s
    | _ => settleWord k t w (stallEffect k t w s) s

/-! ### One row for each class of word -/

/-- The next word issues, where it is one of those a row names. -/
def issueRow (k : Nat) (is : BitVec 256 → Bool) (run : Nat → BitVec 256 → State → State) (s : State) : State :=
  match pickWord s k with
  | none => s
  | some (t, w) => if (issueTrap s k t w).isNone && is w then run t w (noteIssue k t s) else s

/-- A row of a word whose effect is an outcome. -/
def effectRow (k cls : Nat) (eff : Nat → Nat → BitVec 256 → State → WordOut) (s : State) : State :=
  issueRow k (fun w => mwClass w == cls) (fun t w s => settleWord k t w (eff k t w s) s) s

def taskRow (k sub : Nat) (eff : Nat → Nat → BitVec 256 → State → WordOut) (s : State) : State :=
  issueRow k (fun w => mwClass w == 7 && taskSubop w == sub) (fun t w s => settleWord k t w (eff k t w s) s) s

def execAgentNop (slice : Nat) (s : State) : Host.Outcome State Fault Refusal := within s (.next (effectRow slice 0 effNop s))
def execAgentAlu (slice : Nat) (s : State) : Host.Outcome State Fault Refusal := within s (.next (effectRow slice 1 effAlu s))
def execAgentMem (slice : Nat) (s : State) : Host.Outcome State Fault Refusal := within s (.next (effectRow slice 2 effMem s))
def execAgentSend (slice : Nat) (s : State) : Host.Outcome State Fault Refusal := within s (.next (effectRow slice 3 effSend s))
def execAgentRecv (slice : Nat) (s : State) : Host.Outcome State Fault Refusal := within s (.next (effectRow slice 4 effRecv s))
def execAgentWait (slice : Nat) (s : State) : Host.Outcome State Fault Refusal :=
  within s (.next (issueRow slice (fun w => mwClass w == 5) (startWait slice) s))
def execAgentTimer (slice : Nat) (s : State) : Host.Outcome State Fault Refusal := within s (.next (effectRow slice 6 effTimer s))
/-- AGENT_TASK_TAKE: it waits for the end of the cycle, since a cancel in the same cycle wins (R307). -/
def execAgentTaskTake (slice : Nat) (s : State) : Host.Outcome State Fault Refusal := within s (.next (deferWrite (.take slice) s))
def execAgentTaskDone (slice : Nat) (s : State) : Host.Outcome State Fault Refusal := within s (.next (taskRow slice 1 effDone s))
def execAgentTaskReady (slice : Nat) (s : State) : Host.Outcome State Fault Refusal := within s (.next (taskRow slice 2 effReady s))
def execAgentTaskCancel (slice : Nat) (s : State) : Host.Outcome State Fault Refusal := within s (.next (taskRow slice 3 effCancel s))
def execAgentHbm (slice : Nat) (s : State) : Host.Outcome State Fault Refusal := within s (.next (effectRow slice 10 effHbm s))
def execAgentRing (slice : Nat) (s : State) : Host.Outcome State Fault Refusal := within s (.next (effectRow slice 11 effRing s))
def execAgentFlag (slice : Nat) (s : State) : Host.Outcome State Fault Refusal := within s (.next (effectRow slice 12 effFlag s))
def execAgentResume (slice : Nat) (s : State) : Host.Outcome State Fault Refusal :=
  within s (.next (issueRow slice (fun w => mwClass w == 9) (fun t _ s => resumeThread slice t s) s))
def execAgentHaltWord (slice : Nat) (s : State) : Host.Outcome State Fault Refusal :=
  within s (.next (issueRow slice (fun w => mwClass w == 13) (fun t _ s => haltThread slice t s) s))

/-- AGENT_TRAP: the next word's issue takes a trap. -/
def execAgentTrap (slice : Nat) (s : State) : Host.Outcome State Fault Refusal :=
  within s (
    match pickWord s slice with
    | none => .next s
    | some (t, w) =>
      match issueTrap s slice t w with
      | none => .next s
      | some c => .next (takeIssueTrap slice t c w (noteIssue slice t s)))

/-! ### The end of a wait (R296, R297, Table 14-4) -/

/-- The writers before a thread in issue order that stall on a channel (R301); a halted one waits for its resume (R302). -/
def stalledBefore (a : AgentSt) (t c : Nat) : Bool :=
  ((threadOrder a).takeWhile (fun u => u ≠ t)).any (fun u =>
    let th := threadOf a u
    th.enabled && !th.dbg && match th.wait with
      | some x => x.stall && x.cond == 2 && x.chan == c
      | none => false)

/-- A condition of Table 14-4 for a waiting thread; a reserved code is never true. -/
def waitTrue (s : State) (k t : Nat) (x : WaitSt) : Bool :=
  let a := agentOf s k
  let th := threadOf a t
  match x.cond with
  | 1 => (chanMsg s a x.chan).isSome
  | 2 => chanFree a x.chan && !(x.stall && stalledBefore a t x.chan)
  | 3 => th.slot.isSome
  | 4 => !(tget s.flow.arrived k []).isEmpty
  | 5 => decide (a.exports.length < 1024)
  | 6 => th.hbmDone
  | 7 => decide (s.time.hwStart ≥ x.since)
  | 8 => a.aflags.getLsbD x.flag
  | _ => false

/-- Ends a wait: the thread waits no more, with K and T as R296 leaves them. -/
def leaveWait (k t : Nat) (kSet : Bool) (s : State) : State :=
  updThread k t (fun th =>
    let th := setFlag flagK kSet { th with wait := none }
    if kSet then th else setFlag flagT false th) s

/-- The first outcome of R296 that holds in this cycle. -/
def evalWait (k t : Nat) (s : State) : State :=
  let th := threadOf (agentOf s k) t
  let w := wordOf s k t
  match th.wait with
  | none => s
  | some x =>
    if waitTrue s k t x then
      let s := leaveWait k t true s
      if x.stall then settleWord k t w (stallEffect k t w s) s else completeWord k t w s
    else if th.flags.getLsbD flagT then
      let s := leaveWait k t false s
      if x.stall then updThread k t (fun th => { th with pc := mwNext w, freeFrom := s.time.now + 1 }) s
      else completeWord k t w s
    else if x.bound ≠ 0 ∧ s.time.now ≥ x.since + x.bound then
      takeTrap k t 1 (x.cond + x.bound * 256) th.pc (noteIssue k t s)
    else s

/-- Whether a wait is evaluated in this cycle. -/
def waitRuns (s : State) (k t : Nat) : Bool := agentRuns s k && !(threadOf (agentOf s k) t).dbg

/-- Whether a wait ends in this cycle on its condition or on the timer. -/
def waitOver (s : State) (k t : Nat) : Bool :=
  let th := threadOf (agentOf s k) t
  th.wait.any (fun x => waitTrue s k t x) || th.flags.getLsbD flagT

/-- The end of a wait, whatever ends it. -/
def endWait (k t : Nat) (s : State) : State := if waitRuns s k t then evalWait k t s else s

/-- AGENT_WAIT_END: a bound waits for the end of the cycle, since a condition that comes true in it wins (R296, R10). -/
def execAgentWaitEnd (slice : Nat) (thread : Nat) (s : State) : Host.Outcome State Fault Refusal :=
  within s (.next (if waitOver s slice thread then endWait slice thread s else deferWrite (.waitEnd slice thread) s))

/-- The agent's counter equals a compare. -/
def timerMet (s : State) (k c : Nat) : Bool := agentClock s k == c

/-- A timer fires: T is set and it is disarmed. -/
def fired (k t : Nat) (s : State) : State := updThread k t (fun th => setFlag flagT true { th with timer := none }) s

/-- AGENT_TIMER_FIRE (R295): the counter has met the compare. -/
def execAgentTimerFire (slice : Nat) (thread : Nat) (s : State) : Host.Outcome State Fault Refusal :=
  within s (
    match (threadOf (agentOf s slice) thread).timer with
    | none => .next s
    | some c => if agentRuns s slice && timerMet s slice c then .next (fired slice thread s) else .next s)

/-! ### Deadlock (R303) -/

/-- The internal conditions of Table 14-4. -/
def internalCond (c : Nat) : Bool := c == 1 || c == 2 || c == 8 || c == 9

/-- The four points of R303. -/
def deadlocked (a : AgentSt) : Bool :=
  let ths := ((List.range 8).map (threadOf a)).filter (fun th => th.enabled)
  !ths.any (fun th => th.dbg) && ths.any (fun th => th.wait.isSome) &&
    ths.all (fun th => match th.wait with
      | some x => internalCond x.cond && x.bound == 0 && th.timer.isNone
      | none => th.halted)

/-- A deadlock of an agent has stood for 16 cycles. -/
def deadlockDue (k : Nat) (s : State) : Bool :=
  agentRuns s k && deadlocked (agentOf s k) && decide ((agentOf s k).dead ≠ 0) && decide (s.time.now + 1 ≥ (agentOf s k).dead + 15)

/-- The deadlock is counted; its time starts again. -/
def deadlockSeen (k : Nat) (s : State) : State := bump .agentDeadlocks k 0 (updAgent k (fun a => { a with dead := 0 }) s)

/-- Whether T0's role installs a deadlock routine. -/
def dlInstalled (a : AgentSt) : Bool := (roleOf a 0).any (fun r => r.dlValid)

/-- In the 16th cycle of a deadlock T0 is trapped, or the agent halts where no deadlock routine is installed. -/
def deadlockNow (k : Nat) (s : State) : State :=
  if deadlockDue k s then
    if dlInstalled (agentOf s k) then
      takeTrap k 0 2 0 (threadOf (agentOf s k) 0).pc (noteIssue k 0 (deadlockSeen k s))
    else haltAgent k 2 (deadlockSeen k s)
  else s

/-- AGENT_DEADLOCK. -/
def execAgentDeadlock (slice : Nat) (s : State) : Host.Outcome State Fault Refusal := within s (.next (deadlockNow slice s))

/-! ### The control-store scrub (R294) -/

/-- AGENT_UCODE_SCRUB: a single-bit error is corrected; an uncorrectable word is found, and rewritten when the scrub comes to it
again. -/
def execAgentUcodeScrub (slice : Nat) (word : Nat) (uncorrectable : Bool) (s : State) : Host.Outcome State Fault Refusal :=
  within s (
    if slice ≥ 32 ∨ word ≥ 8192 ∨ (agentOf s slice).image.isNone then .next s
    else if (agentOf s slice).badWords.contains word then
      .next (updAgent slice (fun a => { a with badWords := a.badWords.filter (· ≠ word) }) s)
    else if uncorrectable then .next (updAgent slice (fun a => { a with badWords := a.badWords ++ [word] }) s)
    else .next (bump .agentUcodeCorrected slice 0 s))

/-! ### What a cycle and a headway do -/

/-- Timers whose compare the counter meets fire. -/
def timersCycle (k : Nat) (s : State) : State :=
  (List.range 8).foldl (fun (s : State) t =>
    match (threadOf (agentOf s k) t).timer with
    | some c => if timerMet s k c then fired k t s else s
    | none => s) s

/-- The word that issues in this cycle, where no row has run it. -/
def issueCycle (k : Nat) (s : State) : State :=
  match pickWord s k with
  | none => s
  | some (t, w) => runWord k t w (noteIssue k t s)

/-- What a running agent does in a cycle whose rows have run: timers, a deadlock's trap, one word (R292), every wait in issue order
(R296), and the dispatcher (R305). -/
def agentStep (k : Nat) (s : State) : State :=
  if !agentRuns s k then s
  else
    let s := issueCycle k (deadlockNow k (timersCycle k s))
    dispatch k ((threadOrder (agentOf s k)).foldl (fun s t => endWait k t s) s)

/-- At the end of a cycle: an agent that issued nothing was idle, and a deadlock is timed (R303, R312). -/
def agentCycle (s : State) : State :=
  (s.agents.map (fun e => e.1)).foldl (fun (s : State) k =>
    if agentRuns s k then
      let a := agentOf s k
      let s := if a.issuedAt = s.time.now + 1 then s else bump .agentIdleCycles k 0 s
      updAgent k (fun a => { a with
        dead := if deadlocked a then (if a.dead = 0 then s.time.now + 1 else a.dead) else 0 }) s
    else s) s

/-- The maintenance window serves a thread's request: its row is activated, a read may need a correction (R219, R222, R224). -/
def serveHbm (k t : Nat) (r : HbmReq) (s : State) : State :=
  let place := Config.hbmPlace r.addr
  let c := place.1 % 384
  let store := decide (Config.hbmRegion r.addr % 256 < flowRegions s.flow.b)
  let s := updThread k t (fun th => { th with hbmBusy := none, hbmDone := true }) (activate c place.2 s)
  if r.write then
    let s := useWrite c s
    if store then
      let key := (k, Config.rowOfAddr r.addr)
      { s with flow := { s.flow with hbm := match Config.rowWrite (tfind s.flow.hbm key) r.addr r.data with
        | some x => tset s.flow.hbm key x
        | none => tdel s.flow.hbm key } }
    else { s with hbm := { s.hbm with words := tset s.hbm.words r.addr r.data } }
  else
    let (n, s) := draw (useRead c s)
    let s := if Config.readCorrected c n then eccCorrect c (place.2 / 2 ^ 21) s else s
    updThread k t (setX r.dst (if store then Config.hbmWord k r.addr n else tget s.hbm.words r.addr 0)) s

/-- Whether a request can be served in this headway: its channel runs, and the read or write of its window is free. A request to a
channel that does not run waits (log entry 123). -/
def hbmFree (s : State) (r : HbmReq) : Bool :=
  let c := (Config.hbmPlace r.addr).1 % 384
  chanActive s c && !(if r.write then writeBusy s c else readBusy s c)

/-- At a headway boundary the windows serve the requests of agents' threads, from slice h mod 32 on, after all else (R219; log entry
123). -/
def agentHeadway (h : Nat) (s : State) : State :=
  if s.agents.isEmpty then s
  else
    (List.range 32).foldl (fun (s : State) n =>
      let k := (h + n) % 32
      if agentRuns s k then
        (List.range 8).foldl (fun (s : State) t =>
          match (threadOf (agentOf s k) t).hbmBusy with
          | some r => if hbmFree s r then serveHbm k t r s else s
          | none => s) s
      else s) s

end Sys2Proof.Machine
end

