-- ==== Sys2Proof/Machine/World.lean ====
section
/-! DEFINITION. Worlds, life cycle, keys, signatures, firmware images and debug authorisation (chapter 16), and the firmware
switch (R348). -/

namespace Sys2Proof.Machine

/-! ### Signatures and images (R332, R333) -/

/-- Whether an owner-key slot holds a key that is not revoked. -/
def ownerLive (s : State) (n : Nat) : Bool :=
  match tfind s.world.owners n with
  | some k => !k.revoked
  | none => false

/-- Whether an image's two signatures verify under a signer set the module accepts. -/
def signerOk (s : State) (g : Sig) : Bool :=
  g.ecdsaOk && g.mldsaOk &&
    match g.signer with
    | .dvorhel => true
    | .owner n => s.world.lifecycle != .manufacture && ownerLive s n

/-- Whether both signatures verify under the Dvorhel key set. -/
def dvorhelOk (g : Sig) : Bool := g.signer == .dvorhel && g.ecdsaOk && g.mldsaOk

/-- R332: both signatures, and a security version not below the fused counter. -/
def fwPasses (s : State) (i : FwImage) : Bool := dvorhelOk i.sig && decide (i.svn ≥ s.world.svnFused)

/-- The image of a firmware slot. -/
def fwSlot (s : State) (b : Bool) : Option FwImage := if b then s.world.fwB else s.world.fwA

def setFwSlot (b : Bool) (i : Option FwImage) (s : State) : State :=
  if b then { s with world := { s.world with fwB := i } } else { s with world := { s.world with fwA := i } }

/-- A slot's image where it passes R332. -/
def fwValid (s : State) (b : Bool) : Option FwImage := (fwSlot s b).filter (fwPasses s)

/-- The running firmware. -/
def fwRunning (s : State) : Option FwImage := fwSlot s s.world.runB

def lifeCode : Lifecycle → Nat
  | .manufacture => 0 | .provisioned => 1 | .deployed => 2 | .returned => 3 | .decommissioned => 4

/-! ### Attributes (Table 16-1) -/

/-- How many objects of a kind there are. -/
def objCount : WObj → Nat
  | .thread => 256 | .segment => 256 | .channel => 512 | .counterBlock => 46 | .timeIo => 4 | .laContext => 16
  | .hbmRegion => 256 | .resRegion => 512

/-- HBM regions that hold the flow store or the siding must stay non-secure (R214). -/
def regionInUse (s : State) (r : Nat) : Bool :=
  decide (r < flowRegions s.flow.b) || decide (r ≥ 256 - sidingRegions s.egr.gib)

/-- The objects a first and a count name. -/
def objRange (first count : Nat) : List Nat := (List.range count).map (fun i => first + i)

def execWorldAssign (h : Hdr) (kind : WObj) (first : Nat) (count : Nat) (world : World) (s : State) :
    Host.Outcome State Fault Refusal :=
  within s (
    .next (qcp { code := 0x0920, world := .secure, modeOk := s.mode.mode == .boot && !s.world.locked } h (fun s =>
      if !rangeOk first count (objCount kind) then badParam (po 1)
      else
        match (if kind = .hbmRegion ∧ world = .secure then (objRange first count).find? (regionInUse s) else none) with
        | some r => badEntry r
        | none => .done [] { s with world := { s.world with
            attrs := (objRange first count).foldl (fun t n => tset t (kind, n) world) s.world.attrs } }) s))

def execWorldLock (h : Hdr) (s : State) : Host.Outcome State Fault Refusal :=
  within s (
    .next (qcp { code := 0x0921, world := .secure, modeOk := !s.world.locked } h (fun s =>
      .done [] { s with world := { s.world with locked := true } }) s))

def execWorldStatus (h : Hdr) (kind : WObj) (first : Nat) (count : Nat) (s : State) : Host.Outcome State Fault Refusal :=
  within s (
    .next (qcp { code := 0x0922, reads := true } h (fun s =>
      if !rangeOk first count (objCount kind) then badParam (po 1)
      else
        .done [flds "WORLDS" ((List.range count).map (fun i => worldIx (worldOf s kind (first + i)))),
          flag "LOCKED" s.world.locked,
          fld "WORLD_VIOLATIONS" (ctr s .worldViolations (((ringWorld s h.ring).map worldIx).getD 0) 0)] s) s))

/-! ### Key store (R327) -/

def execKeyStoreWrite (h : Hdr) (entry : Nat) (data : List Byte) (s : State) : Host.Outcome State Fault Refusal :=
  within s (
    .next (qcp { code := 0x0923, world := .secure } h (fun s =>
      if entry > 31 then badParam (po 0)
      else if data.length < 1 ∨ data.length > 64 then badParam (po 1)
      else .done [] { s with world := { s.world with keys := tset s.world.keys entry data } }) s))

def zeroKeys (s : State) : State := { s with world := { s.world with keys := [] } }

def execKeyStoreZero (h : Hdr) (s : State) : Host.Outcome State Fault Refusal :=
  within s (.next (qcp { code := 0x0924, world := .secure } h (fun s => .done [] (zeroKeys s)) s))

/-! ### Life cycle (R325, R326, Table 16-4) -/

/-- The transitions of Table 16-4. -/
def lifeEdge (a b : Lifecycle) : Bool :=
  match a, b with
  | .manufacture, .provisioned | .provisioned, .deployed | .deployed, .returned | .returned, .provisioned => true
  | .decommissioned, _ => false
  | _, .decommissioned => true
  | _, _ => false

/-- What the authority of a transition comes to: a refusal, or none. -/
def lifeAuth (s : State) (target : Lifecycle) (auth : LcAuth) : Option Out :=
  match target with
  | .provisioned =>
    match auth with
    | .token t =>
      if !dvorhelOk t.sig then some (.refuse .signatureFail none)
      else if s.world.challenge == some t.challenge then none
      else some (badParam (po 1))
    | _ => some (badParam (po 1))
  | .deployed => if [0, 1, 2, 3].any (ownerLive s) then none else some (.refuse .notFound none)
  | .decommissioned => if auth = .serial Config.serial then none else some (badParam (po 1))
  | _ => none

/-- The accepted transition: fuses written, key store zeroed, the reset requested (R326). -/
def lifeMove (target : Lifecycle) (s : State) : State :=
  let owners := if target = .provisioned ∧ s.world.lifecycle = .returned
    then s.world.owners.map (fun e => (e.1, { e.2 with revoked := true })) else s.world.owners
  let s := logAdd .security "LIFECYCLE" (some .secure) [lifeCode s.world.lifecycle, lifeCode target] s
  let s := zeroKeys { s with world := { s.world with
    lifecycle := target, owners := owners, idGone := s.world.idGone || target == .decommissioned } }
  { s with mode := { s.mode with resetReq := true } }

def execLifecycleSet (h : Hdr) (target : Lifecycle) (auth : LcAuth) (s : State) : Host.Outcome State Fault Refusal :=
  within s (
    .next (qcp { code := 0x0925, world := .secure, modeOk := s.mode.mode == .boot || s.mode.mode == .calibrate,
                 lifeOk := lifeEdge s.world.lifecycle target } h (fun s =>
      match lifeAuth s target auth with
      | some o => o
      | none => .done [] (lifeMove target s)) s))

/-! ### Owner keys (R333) -/

def execOwnerKeyEnroll (h : Hdr) (ecdsa : Nat) (mldsa : Nat) (s : State) : Host.Outcome State Fault Refusal :=
  within s (
    .next (qcp { code := 0x0926, world := .secure, lifeOk := s.world.lifecycle == .provisioned } h (fun s =>
      match [0, 1, 2, 3].find? (fun n => (tfind s.world.owners n).isNone) with
      | none => .refuse .tableFull none
      | some n => .done [fld "SLOT" n] { s with world := { s.world with
          owners := tset s.world.owners n ⟨ecdsa, mldsa, false⟩ } }) s))

def execOwnerKeyRevoke (h : Hdr) (slot : Nat) (s : State) : Host.Outcome State Fault Refusal :=
  within s (
    .next (qcp { code := 0x0927, world := .secure,
                 lifeOk := s.world.lifecycle == .provisioned || s.world.lifecycle == .deployed } h (fun s =>
      if slot > 3 then badParam (po 0)
      else
        match tfind s.world.owners slot with
        | none => .refuse .notFound none
        | some k =>
          if s.world.lifecycle == .deployed && !k.revoked && !([0, 1, 2, 3].any (fun n => n != slot && ownerLive s n)) then
            .refuse .resourceClaimed (some (.entry slot))
          else .done [] { s with world := { s.world with
              owners := tset s.world.owners slot { k with revoked := true } } }) s))

/-! ### Challenges, debug grants, attestation (R325, R328, R335) -/

/-- A fresh challenge replaces the one before. -/
def challenged (s : State) : State := { drawn s with world := { s.world with challenge := some (Config.challenge s.fresh) } }

def execAuthChallenge (h : Hdr) (s : State) : Host.Outcome State Fault Refusal :=
  within s (
    .next (qcp { code := 0x0928, world := .secure } h (fun s =>
      .done [⟨"CHALLENGE", 32, [Config.challenge s.fresh]⟩] (challenged s)) s))

/-- Whether a debug token's signer is one that the life-cycle state asks for. -/
def debugSigner (s : State) (g : Sig) : Bool :=
  let owner : Bool := match g.signer with
    | .owner n => ownerLive s n
    | .dvorhel => false
  g.ecdsaOk && g.mldsaOk &&
    match s.world.lifecycle with
    | .provisioned | .deployed => owner
    | .returned => g.signer == .dvorhel
    | .manufacture => owner || g.signer == .dvorhel
    | .decommissioned => false

def scopeNs (x : DebugScope) : Bool := x != .secure
def scopeS (x : DebugScope) : Bool := x != .nonSecure
def scopeCode : DebugScope → Nat
  | .nonSecure => 0 | .secure => 1 | .both => 2

/-- A debug scope granted, and logged. -/
def granted (scope : DebugScope) (s : State) : State :=
  logAdd .security "DEBUG_GRANT" (some .secure) [scopeCode scope] { s with world := { s.world with
    dbgNs := s.world.dbgNs || scopeNs scope, dbgS := s.world.dbgS || scopeS scope } }

/-- A debug scope revoked, and logged. -/
def revoked (scope : DebugScope) (s : State) : State :=
  logAdd .security "DEBUG_REVOKE" (some .secure) [scopeCode scope] { s with world := { s.world with
    dbgNs := s.world.dbgNs && !scopeNs scope, dbgS := s.world.dbgS && !scopeS scope } }

def execDebugAuth (h : Hdr) (scope : DebugScope) (token : Token) (s : State) : Host.Outcome State Fault Refusal :=
  within s (
    .next (qcp { code := 0x0929, world := .secure, lifeOk := s.world.lifecycle != .decommissioned } h (fun s =>
      if !debugSigner s token.sig then .refuse .signatureFail none
      else if s.world.challenge != some token.challenge then badParam (po 1)
      else
        .done [] (granted scope s)) s))

def execDebugRevoke (h : Hdr) (scope : DebugScope) (s : State) : Host.Outcome State Fault Refusal :=
  within s (
    .next (qcp { code := 0x092A, world := .secure } h (fun s =>
      .done [] (revoked scope s)) s))

/-- What MODULE_ATTEST's signature covers beside the nonce (R328). -/
def measurements (s : State) : List Nat :=
  let dig (o : Option UcodeImage) : Nat := (o.map (fun i => i.digest)).getD 0
  [((fwRunning s).map Config.fwDigest).getD 0] ++
    allSlices.map (fun k => dig (ucOf s k).pAct) ++ allSlices.map (fun k => dig (ucOf s k).aAct) ++
    allSlices.map (fun k => ((agentOf s k).image.map (fun i => i.digest)).getD 0) ++
    [(s.tt.active.map (fun i => i.digest)).getD 0, lifeCode s.world.lifecycle]

/-- MODULE_ATTEST. Without the identity key the module cannot attest (R326); DEDUCED (log entry 126): the state forbids it. -/
def execModuleAttest (h : Hdr) (nonce : List Byte) (s : State) : Host.Outcome State Fault Refusal :=
  within s (
    .next (qcp { code := 0x092B, reads := true, lifeOk := !s.world.idGone } h (fun s =>
      if nonce.length ≠ 32 then badParam (po 0)
      else
        .done [flds "MEASUREMENTS" (measurements s),
          fld "SIGNATURE" (Config.attest (nonce.map (fun b => b.toNat) ++ measurements s)),
          fld "CERTIFICATE" Config.certChain] s) s))

/-! ### Firmware (R332, R336, R348) -/

def execFwImageWrite (h : Hdr) (slotB : Bool) (img : FwImage) (s : State) : Host.Outcome State Fault Refusal :=
  within s (
    .next (qcp { code := 0x0E10, world := .secure, host := true } h (fun s =>
      if slotB == s.world.runB then .refuse .resourceClaimed (some (.holder 4 0 0 0))
      else if !dvorhelOk img.sig then .refuse .signatureFail none
      else withTablets .fw [.firmware] s
        (.pend (tabletTake .fw [.firmware] h 0x0E10 { s with world := { s.world with fwWrite := some (h, slotB, img) } }))) s))

/-- FW_IMAGE_WRITE_DONE: the image is in its slot. -/
def execFwImageWriteDone (s : State) : Host.Outcome State Fault Refusal :=
  within s (
    match s.world.fwWrite with
    | none => .next s
    | some (h, b, img) =>
      .next (finish h 0x0E10 .ok none [] (setFwSlot b (some img) { s with world := { s.world with fwWrite := none } })))

/-- The fused security version after a commit: it never falls (R332). -/
def svnNext (s : State) : Nat := max s.world.svnFused (((fwRunning s).map (fun i => i.svn)).getD 0)

def execFwImageCommitSvn (h : Hdr) (s : State) : Host.Outcome State Fault Refusal :=
  within s (
    .next (qcp { code := 0x0E11, world := .secure } h (fun s =>
      .done [fld "SVN_FUSED" (svnNext s)] { s with world := { s.world with svnFused := svnNext s } }) s))

/-- The two domains of FW_SWITCH (Table 17-5). -/
def switchDoms : List Domain := [.firmware, .timetable]

def execFwSwitch (h : Hdr) (slotB : Bool) (s : State) : Host.Outcome State Fault Refusal :=
  within s (
    .next (qcp { code := 0x0E20, world := .secure,
                 modeOk := s.mode.mode == .boot || s.mode.mode == .service || s.mode.mode == .holdover } h (fun s =>
      if slotB == s.world.runB then badParam (po 0)
      else if (fwValid s slotB).isNone then .refuse .signatureFail none
      else withTablets .fs switchDoms s
        (.pend (tabletTake .fs switchDoms h 0x0E20 { s with
          world := { s.world with fwSwitch := some (h, slotB) }, qcp := { s.qcp with blackout := some s.time.now } }))) s))

/-- The blackout ends: timeouts and the holdover loss timeout go on from where they stood, buffered records are written. -/
def endBlackout (s : State) : State :=
  match s.qcp.blackout with
  | none => s
  | some t =>
    let gone := s.time.now - t
    let recs := s.log.buffered
    let s := { s with
      qcp := { s.qcp with blackout := none, exec := s.qcp.exec.map (fun e => { e with paused := e.paused + min gone (s.time.now - e.fetched) }) }
      clock := { s.clock with lastAccept := s.clock.lastAccept + gone }
      log := { s.log with buffered := [] } }
    recs.foldl (fun (s : State) r => logKeep r s) s

/-- A switch is over, and the blackout with it. -/
def switchOver (s : State) : State := endBlackout { s with world := { s.world with fwSwitch := none } }

/-- The firmware of a slot runs and is marked to boot. -/
def switchedTo (b : Bool) (s : State) : State :=
  let s := switchOver s
  logSum .use "FW_SWITCHES" 1 { s with world := { s.world with runB := b, markB := b } }

/-- FW_SWITCH_DONE: the new firmware answers, or the ROM has restarted the previous image. -/
def execFwSwitchDone (selfCheckOk : Bool) (s : State) : Host.Outcome State Fault Refusal :=
  within s (
    match s.world.fwSwitch with
    | none => .next s
    | some (h, b) =>
      if selfCheckOk then .next (finish h 0x0E20 .ok none [fld "VERSION" (((fwSlot s b).map (fun i => i.version)).getD 0)] (switchedTo b s))
      else .next (finish h 0x0E20 .imageIncompatible none [] (switchOver s)))

end Sys2Proof.Machine
end

