-- ==== Sys2Proof/Machine/AgentCmds.lean ====
section
/-! DEFINITION. Agent images (R291, R293, R334), agent reset (R310), agent status and counters (R311, R312), and the debug
commands (R302, R311, R335). -/

namespace Sys2Proof.Machine

/-! ### Agent images -/

/-- The words that can follow a word: none after HALT and RESUME. -/
def nextAgent (w : BitVec 256) : List Nat :=
  if mwReserved w || mwClass w == 9 || mwClass w == 13 then [] else [mwNext w, mwBranch w]

/-- The words reached from `todo` beside those seen; the fuel is the store's size. -/
def reachAgent (i : AgentImage) : Nat → List Nat → List Nat → List Nat
  | 0, _, seen => seen
  | n + 1, todo, seen =>
    match (todo.dedup).filter (fun x => !seen.contains x) with
    | [] => seen
    | new => reachAgent i n (new.flatMap (fun x => nextAgent (agentWord i x))) (seen ++ new)

/-- Where the threads of an image can start: the entries, trap vectors and deadlock routine of its enabled threads. -/
def agentStarts (i : AgentImage) : List Nat :=
  (i.roles.zipIdx).flatMap (fun x =>
    if x.1.enable then
      [x.1.entry, x.1.trapVector] ++ (if x.2 = 0 ∧ x.1.dlValid then [x.1.dlVector] else [])
    else [])

/-- What is wrong with an image: its roles (R291), a word outside the store, or a reachable reserved word, which is named. -/
def agentImageBad (i : AgentImage) : Option (Option Detail) :=
  if i.roles.length ≠ 8 ∨ (i.roles.filter (fun r => r.enable && r.highPrio)).length ≠ 1 then some none
  else
    match i.words.find? (fun w => decide (w.1 ≥ 8192)) with
    | some w => some (some (.entry w.1))
    | none => ((reachAgent i 8192 (agentStarts i) []).find? (fun x => mwReserved (agentWord i x))).map (fun x => some (.entry x))

def execAgentImageLoad (h : Hdr) (slices : W32) (img : AgentImage) (s : State) : Host.Outcome State Fault Refusal :=
  within s (
    .next (qcp { code := 0x0E12, world := .secure, host := true } h (fun s =>
      let ks := slicesOf slices
      if slices = 0 then badParam (po 0)
      else if !signerOk s img.sig then .refuse .signatureFail none
      else
        match agentImageBad img with
        | some d => .refuse .imageIncompatible d
        | none => withTablets .al (sliceDoms ks) s (.pend (tabletTake .al (sliceDoms ks) h 0x0E12
            { s with world := { s.world with agentLoad := s.world.agentLoad ++ [⟨h, ks, img⟩] } }))) s))

/-- A load's image stands in the staging bank of each slice it names; `rest` are the loads after it. -/
def imageStaged (l : AgentImgLoad) (rest : List AgentImgLoad) (s : State) : State :=
  l.slices.foldl (fun (s : State) k => updAgent k (fun a => { a with staged := some l.img }) s)
    { s with world := { s.world with agentLoad := rest } }

/-- AGENT_IMAGE_LOAD_DONE: the staging banks of the earliest load are written. -/
def execAgentImageLoadDone (s : State) : Host.Outcome State Fault Refusal :=
  within s (
    match s.world.agentLoad with
    | [] => .next s
    | l :: rest =>
      .next (finish l.hdr 0x0E12 .ok none [] (imageStaged l rest s)))

/-! ### Agent reset (R310) -/

/-- A thread stopped by a reset: what R310 does not name is kept. -/
def stopThread (th : Thread) : Thread := { Thread.init with xs := th.xs, flags := th.flags }

/-- The tasks a reset returns to their lists, in the order in which they were made ready. -/
def returning (a : AgentSt) : List (Nat × Task) :=
  sortBy (fun x y => decide (x.2.readyAt ≤ y.2.readyAt))
    (a.tasks.filter (fun e => e.2.st == .prefetched || e.2.st == .running))

/-- Steps 1 to 4; the image to start is the staged one where there is one (R334). -/
def startAgentReset (k : Nat) (who : Option Hdr) (s : State) : State :=
  let a := agentOf s k
  let back := returning a
  let ran := back.filter (fun e => e.2.st == .running)
  let s := bumpBy .exportDiscard k 0 a.exports.length s
  let s := updAgent k (fun a => { a with
    image := if a.staged.isSome then a.staged else a.image
    staged := none
    threads := (List.range 8).map (fun t => (t, stopThread (threadOf a t)))
    chans := []
    exports := []
    base := s.time.now
    last := 0
    dead := 0
    halted := none
    reset := some who
    badWords := if a.staged.isSome then [] else a.badWords
    tasks := a.tasks.map (fun e =>
      if e.2.st == .prefetched || e.2.st == .running then
        (e.1, { e.2 with st := .ready, restart := e.2.restart || e.2.st == .running, readyAt := s.time.now })
      else e)
    lists := (List.range 8).map (fun p => (p, (back.filter (fun e => e.2.prio = p)).map (fun e => e.1) ++ readyList a p)) }) s
  ran.foldl (fun (s : State) e => traceEvent k 1 false e.2.thread e.1 s) s

/-- Step 5: the role entries are read and the enabled threads start. -/
def endAgentReset (k : Nat) (s : State) : State :=
  updAgent k (fun a => { a with
    reset := none
    threads := a.threads.map (fun e =>
      match roleOf a e.1 with
      | some r => if r.enable then (e.1, { e.2 with enabled := true, pc := r.entry, freeFrom := s.time.now }) else e
      | none => e) }) s

def execAgentReset (h : Hdr) (slice : Nat) (s : State) : Host.Outcome State Fault Refusal :=
  within s (
    .next (qcp { code := 0x0C02, world := .secure,
                 modeOk := [Mode.boot, .service, .holdover, .drain].contains s.mode.mode } h (fun s =>
      if slice ≥ 32 then badParam (po 0)
      else withTablets .ar [.slice slice] s
        (.pend (tabletTake .ar [.slice slice] h 0x0C02 (startAgentReset slice (some h) s)))) s))

/-- A reset in progress ends; the command that asked for it completes. -/
def finishReset (k : Nat) (s : State) : State :=
  match (agentOf s k).reset with
  | none => s
  | some none => endAgentReset k s
  | some (some h) => finish h 0x0C02 .ok none [] (endAgentReset k s)

def execAgentResetDone (slice : Nat) (s : State) : Host.Outcome State Fault Refusal := within s (.next (finishReset slice s))

/-- What the agents do in a cycle: each runs (R292); a reset that has taken 4,096 cycles ends (R310). -/
def agentsCycle (s : State) : State :=
  (s.agents.map (fun e => e.1)).foldl (fun (s : State) k =>
    let s := if (agentOf s k).reset.isSome && decide (s.time.now ≥ (agentOf s k).base + 4096) then finishReset k s else s
    agentStep k s) s

/-! ### Status and counters (R311, R312) -/

/-- A thread's state: 0 disabled, 1 running, 2 waiting, 3 stalled, 4 stopped by HALT, 5 stopped by the debugger. -/
def threadCode (th : Thread) : Nat :=
  if !th.enabled then 0
  else if th.dbg then 5
  else if th.halted then 4
  else
    match th.wait with
    | some x => if x.stall then 3 else 2
    | none => 1

/-- The fields of AGENT_STATUS (R311). -/
def agentFlds (s : State) (slice : Nat) : List RField :=
  let a := agentOf s slice
  let ths := (List.range 8).map (threadOf a)
  let count (st : TaskState) : Nat := (a.tasks.filter (fun e => e.2.st == st)).length
  let used := count .idle + count .ready + count .prefetched + count .running
  [flds "STATE" (ths.map threadCode), flds "DEPTH" (ths.map (fun th => th.depth)), flds "PC" (ths.map (fun th => th.pc)),
    flds "WCOND" (ths.map (fun th => (th.wait.map (fun x => x.cond)).getD 0)),
    flag "HALTED" a.halted.isSome, fld "CAUSE" (a.halted.getD 0),
    flds "TASKS" [4096 - used, count .idle, count .ready, count .prefetched, count .running]]

def execAgentStatus (h : Hdr) (slice : Nat) (s : State) : Host.Outcome State Fault Refusal :=
  within s (
    .next (qcp { code := 0x0C01, reads := true } h (fun s =>
      if slice ≥ 32 then badParam (po 0)
      else
        .done (agentFlds s slice) s) s))

/-- The per-agent counters with their second indices (R312). -/
def agentCtrs : List (Ctr × Nat) :=
  (List.range 8).map (fun t => (.agentIssued, t)) ++ [(.agentIdleCycles, 0)] ++
    [1, 2, 3, 4, 5, 6, 7].map (fun c => (.agentTraps, c)) ++
    [(.agentDeadlocks, 0), (.agentHalts, 0), (.agentUcodeCorrected, 0), (.tasksDone, 0), (.cancelRefused, 0), (.traceDrop, 0),
     (.exportDiscard, 0)]

def execAgentCounters (h : Hdr) (slice : Nat) (clear : Bool) (s : State) : Host.Outcome State Fault Refusal :=
  within s (
    .next (qcp { code := 0x0C03, reads := true } h (fun s =>
      if slice ≥ 32 then badParam (po 0)
      else
        .done [flds "COUNTERS" (agentCtrs.map (fun c => ctr s c.1 slice c.2))]
          (if clear then agentCtrs.foldl (fun (s : State) c => clearCtr c.1 slice c.2 s) s else s)) s))

/-! ### Debug commands (R302, R311, R335) -/

/-- Whether a grant opens a thread to a ring: a non-secure thread needs the non-secure scope, a secure one the secure scope and the
secure ring. A thread that does not exist is left to the parameter check, once any grant stands. -/
def dbgOpen (s : State) (h : Hdr) (k t : Nat) : Bool :=
  if k ≥ 32 ∨ t ≥ 8 then s.world.dbgNs || s.world.dbgS
  else
    match threadWorld s k t with
    | .nonSecure => s.world.dbgNs
    | .secure => s.world.dbgS && ringWorld s h.ring == some .secure

/-- The World column of a debug command: the caller's own world where the thread is open to it, else the other. -/
def dbgRule (s : State) (h : Hdr) (k t : Nat) : WRule :=
  if dbgOpen s h k t then .both
  else .owned (some (if ringWorld s h.ring = some .secure then .nonSecure else .secure))

/-- A debug command on a thread. -/
def dbgCmd (code : Nat) (reads : Bool) (h : Hdr) (k t : Nat) (body : Thread → State → Out) (s : State) : State :=
  qcp { code := code, world := dbgRule s h k t, reads := reads } h (fun s =>
    if k ≥ 32 then badParam (po 0)
    else if t ≥ 8 then badParam (po 1)
    else body (threadOf (agentOf s k) t) s) s

def execDbgHalt (h : Hdr) (slice : Nat) (thread : Nat) (s : State) : Host.Outcome State Fault Refusal :=
  within s (
    .next (dbgCmd 0x0C10 false h slice thread (fun th s =>
      if !th.enabled then badParam (po 1)
      else .done [fld "PC" th.pc] (updThread slice thread (fun th => { th with dbg := true }) s)) s))

/-- A wait of a halted thread is evaluated again in the cycle in which it resumes (R302). -/
def execDbgResume (h : Hdr) (slice : Nat) (thread : Nat) (s : State) : Host.Outcome State Fault Refusal :=
  within s (
    .next (dbgCmd 0x0C11 false h slice thread (fun th s =>
      if !th.dbg then .refuse .notFound none
      else .done [] (evalWait slice thread (updThread slice thread (fun th => { th with dbg := false }) s))) s))

/-- One word of a halted thread, or its wait evaluated once; nothing where the agent does not run or HALT stopped the thread. -/
def stepThread (k t : Nat) (s : State) : State :=
  let th := threadOf (agentOf s k) t
  if !agentRuns s k || th.halted then s
  else if th.wait.isSome then evalWait k t s
  else runWord k t (wordOf s k t) (noteIssue k t s)

def execDbgStep (h : Hdr) (slice : Nat) (thread : Nat) (s : State) : Host.Outcome State Fault Refusal :=
  within s (
    .next (dbgCmd 0x0C12 false h slice thread (fun th s =>
      if !th.dbg then .refuse .notFound none
      else .done [fld "PC" (threadOf (agentOf (stepThread slice thread s) slice) thread).pc] (stepThread slice thread s)) s))

/-- A save area's fields (Table 14-5); its reserved bits and bytes read undefined. -/
def saveFlds (u : Nat) (x : SaveArea) : List RField :=
  [⟨"SAVED_PC", 2, [x.pc + (u &&& bitsMask 15 13)]⟩, ⟨"CAUSE", 1, [x.cause]⟩, ⟨"DEPTH", 1, [x.depth]⟩,
   ⟨"SAVED_FLAGS", 4, [x.flags.toNat + (u &&& bitsMask 31 16)]⟩,
   fld "CYCLE" x.cycle, fld "INFO" x.info, fld "SAVED_TIMER" ((x.timer.map (fun c => c + 2 ^ 63)).getD 0),
   ⟨"RESERVED", 1, (List.range 32).map (fun i => u / 256 ^ i % 256)⟩, flds "SAVED_X" (x.xs.map (fun v => v.toNat)),
   flds "SCRATCH" (x.scratch.map (fun v => v.toNat))]

/-- The fields of DBG_READ: a thread's registers, its save areas and its staged message; `u` fills the reserved bytes. -/
def threadFlds (u : Nat) (th : Thread) : List RField :=
  [fld "PC" th.pc, fld "FLAGS" th.flags.toNat, flds "X" (th.xs.map (fun v => v.toNat)),
      fld "TIMER" ((th.timer.map (fun c => c + 2 ^ 63)).getD 0)] ++
    ([1, 2].filterMap (saveOf th)).flatMap (saveFlds u) ++
    match th.staged with
    | some (c, len, ws) => [fld "CHANNEL" c, fld "MESSAGE" len, flds "STAGED" (ws.map (fun v => v.toNat))]
    | none => []

def execDbgRead (h : Hdr) (slice : Nat) (thread : Nat) (s : State) : Host.Outcome State Fault Refusal :=
  within s (
    .next (dbgCmd 0x0C13 true h slice thread (fun th s =>
      .done (threadFlds (Config.undefinedRead s.fresh) th) (drawn s)) s))

def execDbgWrite (h : Hdr) (slice : Nat) (thread : Nat) (pc : Nat) (flags : BitVec 16) (xs : List W64) (s : State) :
    Host.Outcome State Fault Refusal :=
  within s (
    .next (dbgCmd 0x0C14 false h slice thread (fun th s =>
      if pc ≥ 8192 then badParam (po 2)
      else if xs.length ≠ 16 then badParam (po 4)
      else if !th.dbg then .refuse .notFound none
      else .done [] (updThread slice thread (fun th => { th with pc := pc, flags := flags, xs := xs }) s)) s))

def execAbortMessage (h : Hdr) (slice : Nat) (thread : Nat) (s : State) : Host.Outcome State Fault Refusal :=
  within s (
    .next (dbgCmd 0x0C15 false h slice thread (fun th s =>
      match th.staged with
      | some (c, _, _) =>
        if th.dbg then .done [fld "CHANNEL" c] (updThread slice thread (fun th => { th with staged := none, aborted := some c }) s)
        else .refuse .notFound none
      | none => .refuse .notFound none) s))

end Sys2Proof.Machine
end

