-- ==== Sys2Proof/Machine/Flags.lean ====
section
/-! DEFINITION. Status words and flags: the mode status word (Table 17-4), MMC_STATUS (Table 19-3), a ring's control register
(Table 20-4), and the conditions behind them. -/

namespace Sys2Proof.Machine

/-! ### Modes and the degraded flag (R344) -/

def modeCode : Mode → Nat
  | .standby => 0 | .sanitize => 1 | .boot => 2 | .calibrate => 3 | .service => 4 | .holdover => 5 | .drain => 6 | .halt => 7

def phaseCode : DrainPhase → Nat
  | .none => 0 | .hold => 1 | .emptying => 2 | .dark => 3 | .wipe => 4 | .powerOff => 5

/-- A cartridge that reports a fault or is absent without handover (R51). -/
def cartFaulted (s : State) (c : Nat) : Bool := (!(cartOf s c).present || (cartOf s c).fault) && !(cartOf s c).handed

/-- The causes of the degraded flag, bits [16:8] of Table 17-4. -/
def degradeCauses (s : State) : List Bool :=
  [!s.fab.halted.isEmpty, !s.ports.engDown.isEmpty, s.ports.lanes.any (fun e => e.2.lost),
   (List.range 12).any (stackDead s), s.hbm.chans.any (fun e => e.2.st == .frozen || e.2.st == .retraining),
   s.hbm.chans.any (fun e => e.2.st == .retired), (List.range 16).any (cartFaulted s), s.tt.variant.isSome,
   !s.tt.shed.isEmpty]

def degraded (s : State) : Bool := (degradeCauses s).any id

/-- The mode status word's defined bits (Table 17-4). -/
def modeWord (s : State) : Nat :=
  modeCode s.mode.mode + 8 * (degraded s).toNat + 16 * phaseCode s.mode.phase + 256 * bitWord (degradeCauses s)

/-- Its reserved bits: 7 and [31:17]. -/
def modeUndef : Nat := 0xFFFE0080

/-! ### The management controller's status word (Table 19-3) -/

def mmcWord (s : State) : Nat :=
  modeCode s.mode.mode + 8 * bitWord [s.mmc.ready, s.mmc.seated, s.mmc.eject, s.mmc.pwrEn, s.mmc.pwrGood, s.mmc.clear,
    s.mmc.sanFault, s.mmc.noImage] + 2 ^ 11 * s.mmc.latched.toNat

/-- Reserved bits [31:19]. -/
def mmcUndef : Nat := 0xFFF80000

/-- ATTN_L is low (R370). -/
def attention (s : State) : Bool := s.mmc.eject || s.mmc.latched != 0

/-! ### Faceplate indicators (Table 19-8) -/

/-- STATUS. In STANDBY it is off, with clear-to-remove too, where the table names no state (log entry 127). -/
def statusLight (s : State) : Light :=
  if s.mode.mode == .halt || s.mmc.sanFault || s.mmc.noImage then .amberFlash
  else
    match s.mode.mode with
    | .standby => .off
    | .service => if degraded s then .amber else .green
    | .holdover => if degraded s then .amber else .greenFlash
    | _ => .greenFlash

/-- ATTN: amber while ATTN_L is asserted. -/
def attnLight (s : State) : Light := if attention s then .amber else .off

/-- REMOVE: blue for clear-to-remove. -/
def removeLight (s : State) : Light := if s.mmc.clear then .blue else .off

/-- A cartridge bay: blue once handed over (R50), amber for CART_FAULT (R51). -/
def bayLight (s : State) (c : Nat) : Light :=
  if (cartOf s c).handed then .blue else if cartFaulted s c then .amber else .off

/-- An engine's connector: by the ports that use one of its 16 lanes. -/
def engineLight (s : State) (e : Nat) : Light :=
  let lit := s.ports.ports.filter (fun p => decide (p.1 < 16 * e + 16) && decide (16 * e < p.1 + p.2.width))
  if lit.isEmpty then .off
  else if lit.any (fun p => !p.2.link || p.2.degrade) then .amber
  else .green

/-! ### Rings (Table 20-4) -/

/-- The ring of a world. -/
def hostRing : World → Ring
  | .secure => .secure
  | .nonSecure => .nonSecure

/-- IDLE of a ring (R267, R279). -/
def ringIdle (s : State) (w : World) (k : RingKind) : Bool :=
  !(ringOf s w k).enable &&
    match k with
    | .command => inExec s (hostRing w) == 0 && (tget s.qcp.waiting (hostRing w) []).isEmpty
    | _ => true

/-- BAR0 answers from BOOT onward, while PERST# is high (R366, R381). -/
def barOpen (s : State) : Bool := s.mode.mode != .standby && s.mode.mode != .sanitize && !s.mmc.perst

/-- CTRL of a ring. -/
def ringCtrl (s : State) (w : World) (k : RingKind) : Nat :=
  bitWord [(ringOf s w k).enable, ringIdle s w k, (ringOf s w k).cfgErr, (ringOf s w k).dbErr]

end Sys2Proof.Machine
end

