-- ==== Sys2Proof/Machine/Cipher.lean ====
section
/-! DEFINITION. The ciphers that the lookaside modes of Table 12-4 name: AES with 16-byte and 32-byte keys, GHASH of GCM and the
subkeys of CMAC. The manual names them and leaves their definition to the standards, FIPS 197, NIST SP 800-38D and SP
800-38B, from which they are taken (PRESUMED, log entry 29). -/

namespace Sys2Proof.Machine

/-- Sixteen bytes as a block, first byte most significant; missing bytes are zero. -/
def packBlock (bs : List Byte) : BitVec 128 :=
  BitVec.ofNat 128 ((List.range 16).foldl (fun n i => n * 256 + (bs.getD i 0).toNat) 0)

def unpackBlock (b : BitVec 128) : List Byte :=
  (List.range 16).map (fun i => BitVec.ofNat 8 (b.toNat / 2 ^ (8 * (15 - i))))

/-! ### AES (FIPS 197) -/

/-- The S-box, 32 entries a number, entry 0 first. -/
def sBoxRows : List Nat :=
  [0x637c777bf26b6fc53001672bfed7ab76ca82c97dfa5947f0add4a2af9ca472c0,
   0xb7fd9326363ff7cc34a5e5f171d8311504c723c31896059a071280e2eb27b275,
   0x09832c1a1b6e5aa0523bd6b329e32f8453d100ed20fcb15b6acbbe394a4c58cf,
   0xd0efaafb434d338545f9027f503c9fa851a3408f929d38f5bcb6da2110fff3d2,
   0xcd0c13ec5f974417c4a77e3d645d197360814fdc222a908846eeb814de5e0bdb,
   0xe0323a0a4906245cc2d3ac629195e479e7c8376d8dd54ea96c56f4ea657aae08,
   0xba78252e1ca6b4c6e8dd741f4bbd8b8a703eb5664803f60e613557b986c11d9e,
   0xe1f8981169d98e949b1e87e9ce5528df8ca1890dbfe6426841992d0fb054bb16]

/-- The inverse S-box. -/
def invBoxRows : List Nat :=
  [0x52096ad53036a538bf40a39e81f3d7fb7ce339829b2fff87348e4344c4dee9cb,
   0x547b9432a6c2233dee4c950b42fac34e082ea16628d924b2765ba2496d8bd125,
   0x72f8f66486689816d4a45ccc5d65b6926c704850fdedb9da5e154657a78d9d84,
   0x90d8ab008cbcd30af7e45805b8b34506d02c1e8fca3f0f02c1afbd0301138a6b,
   0x3a9111414f67dcea97f2cfcef0b4e67396ac7422e7ad3585e2f937e81c75df6e,
   0x47f11a711d29c5896fb7620eaa18be1bfc563e4bc6d279209adbc0fe78cd5af4,
   0x1fdda8338807c731b11210592780ec5f60517fa919b54a0d2de57a9f93c99cef,
   0xa0e03b4dae2af5b0c8ebbb3c83539961172b047eba77d626e169146355210c7d]

/-- The entry of a box for a byte. -/
def boxAt (rows : List Nat) (b : Byte) : Byte :=
  BitVec.ofNat 8 (rows.getD (b.toNat / 32) 0 / 256 ^ (31 - b.toNat % 32))

/-- Multiplication by x modulo x^8 + x^4 + x^3 + x + 1. -/
def xTime (b : Byte) : Byte := (b <<< 1) ^^^ (if b.getLsbD 7 then 0x1B else 0)

/-- A byte times a constant of at most four bits. -/
def mulBy (c : Nat) (b : Byte) : Byte :=
  let b2 := xTime b
  let b4 := xTime b2
  (if c % 2 = 1 then b else 0) ^^^ (if c / 2 % 2 = 1 then b2 else 0) ^^^ (if c / 4 % 2 = 1 then b4 else 0) ^^^
    (if c / 8 % 2 = 1 then xTime b4 else 0)

def xorBytes (a b : List Byte) : List Byte := List.zipWith (· ^^^ ·) a b

/-- The round constant of the `n`th group, n from 1. -/
def rcon (n : Nat) : Byte := (List.range (n - 1)).foldl (fun b _ => xTime b) 1

/-- One word of the key schedule after the words `ws` (in order) of a key of `nk` words. -/
def nextKeyWord (nk : Nat) (ws : List (List Byte)) : List Byte :=
  let i := ws.length
  let last := ws.getD (i - 1) []
  let t := if i % nk = 0 then
      xorBytes ((last.drop 1 ++ last.take 1).map (boxAt sBoxRows)) [rcon (i / nk), 0, 0, 0]
    else if nk > 6 ∧ i % nk = 4 then last.map (boxAt sBoxRows)
    else last
  xorBytes (ws.getD (i - nk) []) t

/-- The key schedule: the key's words, then `n` more. -/
def keyWords (nk : Nat) (ws : List (List Byte)) : Nat → List (List Byte)
  | 0 => ws
  | n + 1 => keyWords nk (ws ++ [nextKeyWord nk ws]) n

/-- The round keys of a key of 16 or 32 bytes: 11 or 15 of 16 bytes. -/
def roundKeys (key : List Byte) : List (List Byte) :=
  let nk := key.length / 4
  let ws := keyWords nk ((List.range nk).map (fun i => (key.drop (4 * i)).take 4)) (4 * (nk + 7) - nk)
  (List.range (nk + 7)).map (fun r => (ws.drop (4 * r)).take 4 |>.flatten)

/-- Rows of the state shifted: row r left by r, or right for the inverse. -/
def shiftRows (inv : Bool) (st : List Byte) : List Byte :=
  (List.range 16).map (fun i => st.getD ((i % 4) + 4 * ((i / 4 + (if inv then 4 - i % 4 else i % 4)) % 4)) 0)

/-- Columns of the state multiplied by the polynomial whose coefficients are given. -/
def mixColumns (c : List Nat) (st : List Byte) : List Byte :=
  (List.range 16).map (fun i =>
    (List.range 4).foldl (fun (x : Byte) j => x ^^^ mulBy (c.getD ((j + 4 - i % 4) % 4) 0) (st.getD (4 * (i / 4) + j) 0)) 0)

/-- The cipher's rounds after the first key, the last without MixColumns. -/
def encRounds : List (List Byte) → List Byte → List Byte
  | [], st => st
  | [k], st => xorBytes (shiftRows false (st.map (boxAt sBoxRows))) k
  | k :: ks, st => encRounds ks (xorBytes (mixColumns [2, 3, 1, 1] (shiftRows false (st.map (boxAt sBoxRows)))) k)

/-- The inverse cipher's rounds after the last key. -/
def decRounds : List (List Byte) → List Byte → List Byte
  | [], st => st
  | [k], st => xorBytes ((shiftRows true st).map (boxAt invBoxRows)) k
  | k :: ks, st => decRounds ks (mixColumns [14, 11, 13, 9] (xorBytes ((shiftRows true st).map (boxAt invBoxRows)) k))

/-- One block of AES under a key of 16 or 32 bytes. -/
def aesEnc (key : List Byte) (b : BitVec 128) : BitVec 128 :=
  match roundKeys key with
  | [] => b
  | k :: ks => packBlock (encRounds ks (xorBytes (unpackBlock b) k))

/-- Its inverse. -/
def aesDec (key : List Byte) (b : BitVec 128) : BitVec 128 :=
  match (roundKeys key).reverse with
  | [] => b
  | k :: ks => packBlock (decRounds ks (xorBytes (unpackBlock b) k))

/-! ### GHASH (SP 800-38D) and the subkeys of CMAC (SP 800-38B) -/

/-- Multiplication of blocks in GF(2^128), the first bit the coefficient of 1. -/
def blockMul (x y : BitVec 128) : BitVec 128 :=
  ((List.range 128).foldl (fun (zv : BitVec 128 × BitVec 128) i =>
    (if x.getMsbD i then zv.1 ^^^ zv.2 else zv.1,
      (zv.2 >>> 1) ^^^ (if zv.2.getLsbD 0 then (0xE1#128 <<< 120) else 0))) (0, y)).1

/-- One GHASH step: hash key block, accumulator, data block. -/
def ghashStep (h acc b : BitVec 128) : BitVec 128 := blockMul (acc ^^^ b) h

/-- Bytes cut into blocks, the last padded with zeros. -/
def blocksFrom (bs : List Byte) : List (BitVec 128) :=
  (List.range ((bs.length + 15) / 16)).map (fun i => packBlock ((bs.drop (16 * i)).take 16))

/-- GCM encryption of a text under a 96-bit IV: the ciphertext and the tag. -/
def gcmSeal (key : List Byte) (iv : BitVec 96) (aad text : List Byte) : List Byte × BitVec 128 :=
  let count (i : Nat) : BitVec 128 := BitVec.ofNat 128 (iv.toNat * 2 ^ 32 + 1 + i)
  let pad := (List.range ((text.length + 15) / 16)).flatMap (fun i => unpackBlock (aesEnc key (count (i + 1))))
  let out := xorBytes text pad
  let lens := BitVec.ofNat 128 (aad.length * 8 * 2 ^ 64 + out.length * 8)
  let g := (blocksFrom aad ++ blocksFrom out ++ [lens]).foldl (ghashStep (aesEnc key 0)) 0
  (out, g ^^^ aesEnc key (count 0))

/-- A subkey's doubling. -/
def cmacDouble (b : BitVec 128) : BitVec 128 := (b <<< 1) ^^^ (if b.getMsbD 0 then 0x87 else 0)

/-- The last block of a CMAC under its subkey; an incomplete one is padded first. -/
def cmacLast (key : List Byte) (whole : Bool) (bs : List Byte) : BitVec 128 :=
  let k1 := cmacDouble (aesEnc key 0)
  if whole then packBlock bs ^^^ k1 else packBlock (bs ++ [0x80]) ^^^ cmacDouble k1

/-! ### AES key wrap (RFC 3394) -/

/-- The semiblocks of bytes. -/
def semiblocks (bs : List Byte) : List (BitVec 64) :=
  (List.range (bs.length / 8)).map (fun i =>
    BitVec.ofNat 64 ((List.range 8).foldl (fun n j => n * 256 + (bs.getD (8 * i + j) 0).toNat) 0))

/-- The bytes of semiblocks. -/
def semiBytes (l : List (BitVec 64)) : List Byte :=
  l.flatMap (fun x => (List.range 8).map (fun j => x.extractLsb' (8 * (7 - j)) 8))

/-- One step of the wrap at place `i` with count `t`. -/
def wrapStep (key : List Byte) (n : Nat) (x : BitVec 64 × List (BitVec 64)) (t : Nat) : BitVec 64 × List (BitVec 64) :=
  let i := t % n
  let b := aesEnc key (x.1 ++ x.2.getD i 0)
  (b.extractLsb' 64 64 ^^^ BitVec.ofNat 64 (t + 1), x.2.set i (b.extractLsb' 0 64))

/-- Its inverse. -/
def unwrapStep (key : List Byte) (n : Nat) (x : BitVec 64 × List (BitVec 64)) (t : Nat) : BitVec 64 × List (BitVec 64) :=
  let i := t % n
  let b := aesDec key ((x.1 ^^^ BitVec.ofNat 64 (t + 1)) ++ x.2.getD i 0)
  (b.extractLsb' 64 64, x.2.set i (b.extractLsb' 0 64))

/-- The initial value, by which integrity is checked. -/
def wrapIv : BitVec 64 := 0xA6A6A6A6A6A6A6A6#64

/-- Bytes wrapped under a key. -/
def keyWrap (key bs : List Byte) : List Byte :=
  let r := semiblocks bs
  let x := (List.range (6 * r.length)).foldl (wrapStep key r.length) (wrapIv, r)
  semiBytes (x.1 :: x.2)

/-- Wrapped bytes unwrapped; none where the integrity check fails. -/
def keyUnwrap (key bs : List Byte) : Option (List Byte) :=
  match semiblocks bs with
  | [] => none
  | a :: r =>
    let x := (List.range (6 * r.length)).reverse.foldl (unwrapStep key r.length) (a, r)
    if x.1 = wrapIv then some (semiBytes x.2) else none

end Sys2Proof.Machine
end

