-- ==== Sys2Proof/Machine/Macsec.lean ====
section
/-! DEFINITION. MACsec (chapter 12): channels, associations, receive checks, packet numbers, and their commands. A channel's
number is 512 × slice + its place: transmit channels 0–31, receive channels 256 + 0–255 (log entry 13). -/

namespace Sys2Proof.Machine

def scOf (s : State) (c : Nat) : Option ScSt := tfind s.sec.chans c
def setSc (c : Nat) (v : ScSt) (s : State) : State := { s with sec := { s.sec with chans := tset s.sec.chans c v } }

def isXpn : Suite → Bool
  | .xpn128 | .xpn256 => true
  | _ => false

/-- A suite's largest packet number (Table 12-1). -/
def pnMax (x : Suite) : Nat := if isXpn x then 2 ^ 64 - 1 else 2 ^ 32 - 1

def keyLen : Suite → Nat
  | .gcm128 | .xpn128 => 16
  | .gcm256 | .xpn256 => 32

/-- The thresholds of a channel for a suite (R258). -/
def softOf (c : ScSt) (x : Suite) : Nat := c.soft.getD (if isXpn x then 0xC000000000000000 else 0xC0000000)
def hardOf (c : ScSt) (x : Suite) : Nat := c.hard.getD (pnMax x)

/-- The transmit channel of a port. -/
def txChan (s : State) (p : Nat) : Option (Nat × ScSt) := s.sec.chans.find? (fun e => e.2.tx && e.2.port == p)

/-- The receive channel of a port for an SCI. -/
def rxChan (s : State) (p sci : Nat) : Option (Nat × ScSt) :=
  s.sec.chans.find? (fun e => !e.2.tx && e.2.port == p && e.2.sci == sci)

/-- An SA that sends no more frames (R258). -/
def saDone (c : ScSt) (a : SaSt) : Bool := a.done || a.next > hardOf c a.p.suite

/-! ### Receive (Table 12-3) -/

/-- The lowest acceptable PN of an SA. -/
def lowestPn (a : SaSt) (window : Nat) : Nat := a.next - window

/-- The checks known from the SecTAG: whether the frame fails one, and the counts. -/
def rxHeaderCheck (p : Nat) (pol : SecPolicy) (eapol : Bool) (tag : Option SecTag) (s : State) : Bool × State :=
  if pol.rxValidate = .disabled ∨ eapol then (false, s)
  else
    match tag with
    | none => (true, bump .rxUntagged p 0 s)
    | some t =>
      match rxChan s p t.sci with
      | none => (true, bump .rxUnknownSci p 0 s)
      | some (_, c) =>
        match tfind c.sas t.an with
        | none => (true, bump .rxNotUsingSa p 0 s)
        | some a => if t.pn < lowestPn a pol.replay then (true, bump .rxLate p 0 s) else (false, s)

/-- The checks known at the tail (R253, R254): whether the frame is bad by them, the counts, and the next PN. -/
def rxTailCheck (p : Nat) (pol : SecPolicy) (tag : Option SecTag) (icv : Bool) (s : State) : Bool × State :=
  match pol.rxValidate, tag with
  | .disabled, _ => (false, s)
  | _, none => (false, s)
  | v, some t =>
    match rxChan s p t.sci with
    | none => (false, s)
    | some (n, c) =>
      match tfind c.sas t.an with
      | none => (false, s)
      | some a =>
        if !icv then (v == .strict, bump .rxNotValid p 0 s)
        else if t.pn < lowestPn a pol.replay then (v == .strict, bump .rxLate p 0 s)
        else (false, bump .rxOk p 0
          (setSc n { c with sas := tset c.sas t.an { a with next := max a.next (t.pn + 1) } } s))

/-- A frame, not a copy of one, is dropped before its tail is known: the checks of its tail still count (R253). -/
def endTail (f : Frame) (s : State) : State :=
  match portOf s f.port with
  | some ps => if f.tailKnown || f.orig.isSome then s else (rxTailCheck f.port ps.pol f.an f.icv s).2
  | none => s

/-! ### Transmit (R255–R258) -/

/-- What protecting a frame at selection comes to: its length on the wire, or its discard. -/
def protectFrame (p : Nat) (len : Nat) (eapol : Bool) (s : State) : Option Nat × State :=
  match portOf s p with
  | none => (some len, s)
  | some ps =>
    if ps.pol.txProtect = .off ∨ eapol then (some len, s)
    else
      match txChan s p with
      | none => (none, bump .txSaExhaustedDrop p 0 s)
      | some (n, c) =>
        match c.enc.bind (fun an => (tfind c.sas an).map (fun a => (an, a))) with
        | none => (none, bump .txSaExhaustedDrop p 0 s)
        | some (an, a) =>
          if saDone c a then (none, bump .txSaExhaustedDrop p 0 s)
          else
            let soft := a.next == softOf c a.p.suite && !a.softUp
            let hard := a.next == hardOf c a.p.suite
            let s := setSc n { c with sas := tset c.sas an { a with
              next := a.next + 1, softUp := a.softUp || soft, done := hard } } s
            let s := if soft then raise (32 * (p / 32) + 7) s else s
            (some (len + (if ps.pol.includeSci then 16 else 8) + 16), bump .txProtected p 0 s)

/-- `n` bytes of a number, most significant first. -/
def beOf (n v : Nat) : List Byte := (List.range n).map (fun i => BitVec.ofNat 8 (v / 256 ^ (n - 1 - i)))

/-- The IV of a frame: SCI and PN, or SSCI and PN under the salt for XPN (PRESUMED from IEEE 802.1AE, log entry 128). -/
def secIv (c : ScSt) (a : SaSt) : BitVec 96 :=
  if isXpn a.p.suite then BitVec.ofNat 96 (a.p.ssci.toNat * 2 ^ 64 + a.next % 2 ^ 64) ^^^ a.p.salt
  else BitVec.ofNat 96 (c.sci % 2 ^ 64 * 2 ^ 32 + a.next % 2 ^ 32)

/-- The SecTAG of a frame with `n` bytes of user data (R256; its layout PRESUMED from IEEE 802.1AE, log entry 128): ES set where the SCI is
omitted, E and C set for confidentiality, the short length, the low 32 bits of the PN. -/
def secTagBytes (pol : SecPolicy) (c : ScSt) (an n : Nat) (a : SaSt) : List Byte :=
  let tci := (if pol.includeSci then 0x20 else 0x40) + (if pol.txProtect = .confidential then 0x0C else 0) + an % 4
  [0x88, 0xE5] ++ beOf 1 tci ++ beOf 1 (if n < 48 then n else 0) ++ beOf 4 (a.next % 2 ^ 32) ++
    (if pol.includeSci then beOf 8 c.sci else [])

/-- A frame's bytes protected by an SA (R251): addresses, SecTAG and the first CONF_OFFSET bytes of user data authenticated only, the rest
encrypted where the policy says so, the ICV behind. -/
def secured (pol : SecPolicy) (c : ScSt) (an : Nat) (a : SaSt) (bs : List Byte) : List Byte :=
  let user := bs.drop 12
  let off := if pol.txProtect = .confidential then pol.confOffset else user.length
  let head := bs.take 12 ++ secTagBytes pol c an user.length a ++ user.take off
  let (out, icv) := gcmSeal a.p.key (secIv c a) head (user.drop off)
  head ++ out ++ unpackBlock icv

/-- A frame's bytes as its port sends them: protected under the encoding SA where the port protects (R255). -/
def sentBytes (s : State) (p : Nat) (eapol : Bool) (bs : List Byte) : List Byte :=
  match portOf s p, txChan s p with
  | some ps, some (_, c) =>
    if ps.pol.txProtect = .off ∨ eapol then bs
    else
      match c.enc.bind (fun an => (tfind c.sas an).map (fun a => (an, a))) with
      | some (an, a) => secured ps.pol c an a bs
      | none => bs
  | _, _ => bs

/-! ### Commands (Table 12-6) -/

/-- The aggregate that keeps a port from starting to protect where the timetable does not declare it (R257). -/
def protClaim (s : State) (port : Nat) (ps : PortSt) (policy : SecPolicy) : Option Nat :=
  if policy.txProtect ≠ .off ∧ ps.pol.txProtect = .off ∧ !(features s).prot.getLsbD port then carriesOut s port else none

def execMacsecPortSet (h : Hdr) (port : Nat) (policy : SecPolicy) (s : State) : Host.Outcome State Fault Refusal :=
  within s (
    .next (qcp { code := 0x0901, world := .secure } h (fun s =>
      match portOf s port with
      | none => badParam (po 0)
      | some ps =>
        if policy.confOffset ≠ 0 ∧ policy.confOffset ≠ 30 ∧ policy.confOffset ≠ 50 then badParam (po 3)
        else if policy.replay > 4294967295 then badParam (po 5)
        else
          match protClaim s port ps policy with
          | some a => .refuse .resourceClaimed (some (.aggregate a))
          | none => .done (effectFlds s) (setPort port { ps with polNx := some policy } s)) s))

/-- The lowest free channel of a slice and direction. -/
def freeSc (s : State) (slice : Nat) (tx : Bool) : Option Nat :=
  ((List.range (if tx then 32 else 256)).map (fun i => 512 * slice + (if tx then 0 else 256) + i)).find?
    (fun c => (scOf s c).isNone)

def execMacsecScAdd (h : Hdr) (port : Nat) (tx : Bool) (sci : Nat) (s : State) : Host.Outcome State Fault Refusal :=
  within s (
    .next (qcp { code := 0x0902, world := .secure } h (fun s =>
      if (portOf s port).isNone then badParam (po 0)
      else
        match s.sec.chans.find? (fun e => e.2.port == port && (e.2.sci == sci || (tx && e.2.tx))) with
        | some (c, _) => .refuse .exists_ (some (.entry c))
        | none =>
          match freeSc s (port / 32) tx with
          | none => .refuse .tableFull none
          | some c => .done [fld "CHANNEL" c] (setSc c ⟨port, tx, sci, [], none, none, none, none⟩ s)) s))

def execMacsecScRemove (h : Hdr) (channel : Nat) (s : State) : Host.Outcome State Fault Refusal :=
  within s (
    .next (qcp { code := 0x0903, world := .secure } h (fun s =>
      match scOf s channel with
      | none => .refuse .notFound none
      | some c =>
        if c.tx && (match portOf s c.port with
            | some ps => ps.pol.txProtect != .off
            | none => false) then .refuse .resourceClaimed none
        else .done [] { s with sec := { s.sec with chans := tdel s.sec.chans channel } }) s))

def execMacsecSaInstall (h : Hdr) (channel : Nat) (an : Nat) (sa : SaParams) (s : State) :
    Host.Outcome State Fault Refusal :=
  within s (
    .next (qcp { code := 0x0904, world := .secure } h (fun s =>
      match scOf s channel with
      | none => badParam (po 0)
      | some c =>
        if an ≥ 4 then badParam (po 1)
        else if sa.key.length ≠ keyLen sa.suite then badParam (po 3)
        else if sa.nextPn = 0 ∨ sa.nextPn > pnMax sa.suite then badParam (po 6)
        else if c.enc = some an then .refuse .resourceClaimed none
        else if (tfind c.sas an).isSome then .refuse .exists_ (some (.entry an))
        else .done [] (setSc channel { c with sas := tset c.sas an ⟨sa, sa.nextPn, false, false⟩ } s)) s))

def execMacsecSaSelect (h : Hdr) (channel : Nat) (an : Nat) (s : State) : Host.Outcome State Fault Refusal :=
  within s (
    .next (qcp { code := 0x0907, world := .secure } h (fun s =>
      match scOf s channel with
      | none => badParam (po 0)
      | some c =>
        if !c.tx then badParam (po 0)
        else if an ≥ 4 then badParam (po 1)
        else if (tfind c.sas an).isNone then .refuse .notFound none
        else .done (effectFlds s) (setSc channel { c with encNx := some an } s)) s))

def execMacsecSaRemove (h : Hdr) (channel : Nat) (an : Nat) (s : State) : Host.Outcome State Fault Refusal :=
  within s (
    .next (qcp { code := 0x0908, world := .secure } h (fun s =>
      match scOf s channel with
      | none => .refuse .notFound none
      | some c =>
        if (tfind c.sas an).isNone then .refuse .notFound none
        else if c.enc = some an then .refuse .resourceClaimed none
        else .done [] (setSc channel { c with sas := tdel c.sas an } s)) s))

/-- The suite a channel's thresholds are judged by: the encoding SA's, else any SA's, else an XPN suite's. -/
def chanSuite (c : ScSt) : Suite :=
  match c.enc.bind (fun an => tfind c.sas an) with
  | some a => a.p.suite
  | none =>
    match c.sas with
    | (_, a) :: _ => a.p.suite
    | [] => .xpn128

def execMacsecPnLimitsSet (h : Hdr) (channel : Nat) (soft : Nat) (hard : Nat) (s : State) :
    Host.Outcome State Fault Refusal :=
  within s (
    .next (qcp { code := 0x0909, world := .secure } h (fun s =>
      match scOf s channel with
      | none => badParam (po 0)
      | some c =>
        if !c.tx then badParam (po 0)
        else if soft < 1 ∨ soft ≥ hard then badParam (po 1)
        else if hard > pnMax (chanSuite c) then badParam (po 2)
        else .done [] (setSc channel { c with soft := some soft, hard := some hard } s)) s))

def txpCode : TxProtect → Nat
  | .off => 0 | .integrity => 1 | .confidential => 2
def rxvCode : RxValidate → Nat
  | .disabled => 0 | .check => 1 | .strict => 2

/-- The fields of MACSEC_STATUS: a port's policy, its channels, and each association with its next PN. -/
def macsecFlds (s : State) (port : Nat) (pol : SecPolicy) : List RField :=
  let cs := s.sec.chans.filter (fun e => e.2.port == port)
  [flds "POLICY" [txpCode pol.txProtect, pol.includeSci.toNat, pol.confOffset, rxvCode pol.rxValidate, pol.replay],
    flds "CHANNELS" (cs.map (fun e => e.1)),
    flds "ANS" (cs.flatMap (fun e => e.2.sas.flatMap (fun a => [e.1, a.1, (e.2.enc == some a.1).toNat, a.2.next])))]

def execMacsecStatus (h : Hdr) (port : Nat) (s : State) : Host.Outcome State Fault Refusal :=
  within s (
    .next (qcp { code := 0x090A, reads := true } h (fun s =>
      match portOf s port with
      | none => badParam (po 0)
      | some ps =>
        .done (macsecFlds s port ps.pol) s) s))

def macsecCtrs : List Ctr :=
  [.rxUntagged, .rxUnknownSci, .rxNotUsingSa, .rxLate, .rxNotValid, .rxOk, .txProtected, .txSaExhaustedDrop]

def execMacsecCounters (h : Hdr) (port : Nat) (clear : Bool) (s : State) : Host.Outcome State Fault Refusal :=
  within s (
    .next (qcp { code := 0x090B, reads := true } h (fun s =>
      if (portOf s port).isNone then badParam (po 0)
      else .done [flds "COUNTERS" (macsecCtrs.map (fun c => ctr s c port 0))]
        (if clear then macsecCtrs.foldl (fun s c => clearCtr c port 0 s) s else s)) s))

/-- At a headway boundary waiting encoding SAs and port policies come into force (R259, Table 12-6). -/
def macsecBoundary (s : State) : State :=
  { s with
    sec := { s.sec with chans := s.sec.chans.map (fun e => match e.2.encNx with
      | some an => (e.1, { e.2 with enc := if (tfind e.2.sas an).isSome then some an else e.2.enc, encNx := none })
      | none => e) }
    ports := { s.ports with ports := s.ports.ports.map (fun e => match e.2.polNx with
      | some p => (e.1, { e.2 with pol := p, polNx := none })
      | none => e) } }

/-- A reset zeroes the channels and draws a new wrapping key (R264, Table 16-5). -/
def macsecWipe (s : State) : State := { s with sec := { s.sec with chans := [], la := [] } }

end Sys2Proof.Machine
end

