-- ==== Sys2Proof/Machine/Buffers.lean ====
section
/-! DEFINITION. Buffers, thresholds and the siding (chapter 8), the credit meters' accrual (R204, R205), and how a frame joins
or leaves an egress queue. -/

namespace Sys2Proof.Machine

/-! ### Ports' rates (Table 2-1, R48, R55) -/

/-- A port's link is up. -/
def portUp (s : State) (p : Nat) : Bool :=
  match portOf s p with
  | some x => x.link
  | none => false

def portWidth (s : State) (p : Nat) : Nat := ((portOf s p).map (fun x => x.width)).getD 1
def opWidth (s : State) (p : Nat) : Nat := ((portOf s p).map (fun x => x.opWidth)).getD 1
def portMax (s : State) (p : Nat) : Nat := ((portOf s p).map (fun x => x.maxLen)).getD 9216

/-- The width R48 judges a port by: its mapped width until R28 has acted on a loss of its lanes. -/
def judgedWidth (s : State) (p : Nat) : Nat :=
  let w := portWidth s p
  if s.tt.lostNow.any (fun e => field e.1 28 4 == 4 && decide (p ≤ field e.1 0 10) && decide (field e.1 0 10 < p + w)) then w
  else opWidth s p

/-- Whether a frame from one port to another is stored whole before it is sent (R48). -/
def storeFirst (s : State) (ingress egress : Nat) (preempt : Bool) : Bool :=
  preempt || decide (judgedWidth s egress < judgedWidth s ingress)

/-- X of R147. -/
def startDelay (s : State) (ingress egress : Nat) : Nat :=
  let bi := bitsPerCycle (judgedWidth s ingress)
  let be := bitsPerCycle (judgedWidth s egress)
  if be ≤ bi then 0
  else
    let m := 8 * portMax s ingress
    (m + bi - 1) / bi - m / be

/-- The cycle from which a queued frame may be selected (R146); none while its tail is unknown. -/
def eligOf (s : State) (f : Frame) : Option Nat :=
  match f.zcycle with
  | none => none
  | some z =>
    if f.store then f.tcycle.map (fun t => max z t + 2) else some (z + 2 + startDelay s f.port f.egress)

/-! ### A frame's arrival (R15, R148, R200) -/

/-- The bits of the wire up to a frame's first `n` bytes: its own, and the gaps before the fragments that carry them. -/
def wireBits : List (Nat × Nat) → Nat → Nat
  | [], n => 8 * n
  | (gap, len) :: fs, n => gap + (if n ≤ len then 8 * n else 8 * len + wireBits fs (n - len))

/-- The cycle in which the bytes of a frame up to `n` are complete. -/
def dataCycle (s : State) (f : Frame) (n : Nat) : Nat :=
  let b := bitsPerCycle (opWidth s f.port)
  f.ref + ((wireBits f.frags n + b - 1) / b - 1)

/-- The cycle in which a frame's tail status is known at its ingress slice (R148): the cycle after its last bit, of its final fragment
where it came in fragments (R200). -/
def tailCycle (s : State) (f : Frame) : Nat := dataCycle s f f.len + 1

/-- The bytes of a frame that its cell at a position ends with. -/
def cellEnd (f : Frame) (pos : Nat) : Nat := min f.len (192 + 256 * pos)

/-- Whether the data of a frame's cell at a position has arrived; a cell beyond the frame's end has none. -/
def cellCame (s : State) (f : Frame) (pos : Nat) : Bool :=
  decide (pos < cellsOf f.len) && (f.tailKnown || decide (dataCycle s f (cellEnd f pos) ≤ s.time.now))

/-- A frame's cells whose data has arrived. -/
def cellsCame (s : State) (f : Frame) : Nat := ((List.range (cellsOf f.len)).filter (cellCame s f)).length

/-- Replaces a frame, or adds it. -/
def putFrame (f : Frame) (s : State) : State :=
  if s.frames.any (fun g => g.fid = f.fid) then setFrame f s else { s with frames := s.frames ++ [f] }

/-! ### Credit meters (Tables 9-2, 9-3, R205) -/

def mSlope (w : BitVec 64) : Int := field w 0 27
def mByte (w : BitVec 64) : Bool := w.getLsbD 51
def mHi (w : BitVec 64) : Int := field w 27 12 * (if mByte w then 2 ^ 20 else 2 ^ 24)
def mLo (w : BitVec 64) : Int := field w 39 12 * (if mByte w then 2 ^ 20 else 2 ^ 24)
def mEmptyReset (w : BitVec 64) : Bool := w.getLsbD 59
def mEn (w : BitVec 64) : Bool := w.getLsbD 60
/-- OVERHEAD, a two's complement field of 7 bits. -/
def mOverhead (w : BitVec 64) : Int :=
  let v : Int := field w 52 7
  if v < 64 then v else v - 128

/-- A frame's charge in CREDIT's units. -/
def mCharge (w : BitVec 64) (bytes : Nat) : Int :=
  if mByte w then max 1 ((bytes : Int) + mOverhead w) * 2 ^ 14 else 2 ^ 24

/-- CREDIT after `n` cycles without a selection, in closed form. -/
def accrue (w : BitVec 64) (held : Bool) (n : Nat) (c : Int) : Int :=
  if n = 0 ∨ !mEn w then c
  else if held ∨ !mEmptyReset w then min (c + n * mSlope w) (mHi w)
  else if c ≥ 0 then 0
  else if c + n * mSlope w ≤ 0 then c + n * mSlope w
  else if mSlope w > 0 ∧ n ≤ ((-c) + mSlope w - 1) / mSlope w then min (c + n * mSlope w) (mHi w)
  else 0

def queueHolds (q : QueueSt) : Bool := !q.items.isEmpty || !q.side.isEmpty

/-- CREDIT at the start of a cycle: what every cycle from `creditAt` on has added (R205). -/
def creditAtCycle (q : QueueSt) (t : Nat) : Int :=
  if t ≤ q.creditAt then q.credit
  else
    accrue q.word (queueHolds q) (t - q.creditAt - 1) (accrue q.word (q.heldAt.getD (queueHolds q)) 1 q.credit)

/-- Notes, before a queue's occupancy changes in a cycle, CREDIT and occupancy at the start of that cycle. -/
def settle (t : Nat) (q : QueueSt) : QueueSt :=
  if q.creditAt > t ∨ (q.creditAt = t ∧ q.heldAt.isSome) then q
  else { q with credit := creditAtCycle q t, creditAt := t, heldAt := some (queueHolds q) }

/-! ### Occupancy (R179-R184) -/

/-- The staging carve and a queue's pool carve in force. -/
def stagCarve (s : State) (k : Nat) : Nat := tget s.tt.stagCarve k 0
def poolCarve (s : State) (p q : Nat) : Nat := tget s.tt.poolCarve (p, q) 0

/-- Cells of PTP_TX frames in a port's Q0; they count against no carve (log entry 42). -/
def ptpCells (s : State) (p q : Nat) : Nat :=
  if q = 0 then ((s.frames.filter (fun f => f.ptp.isSome && f.stage == .queued && f.egress == p)).map (fun f => f.charged)).sum else 0

/-- Carve cells of a guaranteed queue in use. -/
def carveUse (s : State) (p q : Nat) : Nat := (queueOf s p q).d - ptpCells s p q

/-- Cells of a slice's pool that belong to its guaranteed queues: the carve, or what a queue still holds beyond it. -/
def guarHold (s : State) (k : Nat) : Nat :=
  let keys := ((s.tt.poolCarve.map (fun e => e.1)) ++ (s.egr.queues.map (fun e => e.1))).filter
    (fun x => x.1 / 32 == k && decide (x.2 < 4))
  (keys.dedup.map (fun x => max (poolCarve s x.1 x.2) (carveUse s x.1 x.2))).sum

/-- The carves of a slice's pool together. -/
def carves (s : State) (k : Nat) : Nat := ((s.tt.poolCarve.filter (fun e => e.1.1 / 32 == k)).map (fun e => e.2)).sum

/-- The cycle in which a cell arrives at its egress slice (Table 7-1). -/
def arrivalOf (c : Cell) : Nat := c.inj + 48 - (c.via + 32 - c.src) % 32 + (c.dst + 32 - c.via) % 32

/-- Elastic cells that had arrived at a slice before a cycle and await release. -/
def landedBy (s : State) (k t : Nat) : Nat :=
  (s.fab.transit.filter (fun c => c.dst == k && !c.guar && decide (arrivalOf c < t))).length

/-- Those that had arrived at the start of this cycle. -/
def transitE (s : State) (k : Nat) : Nat := landedBy s k s.time.now

/-- Free elastic pool cells at the start of this cycle, the landing reserve not counted, less what has been admitted since (R183): cells
freed in this cycle are free from the next. -/
def freePool (s : State) (k : Nat) : Nat :=
  40960 - 384 - guarHold s k - (bufOf s k).poolE - tget s.egr.freed k 0 - transitE s k

/-- A frame on its own slice whose cells pass from staging to the pool as their data arrives (R181). -/
def passing (f : Frame) : Bool := decide (f.stag > 0) && f.stage != .front && f.stage != .voq

/-- Staging cells that the passing frames of a slice have left already, guaranteed or elastic. -/
def passed (s : State) (k : Nat) (guar : Bool) : Nat :=
  ((s.frames.filter (fun f => f.port / 32 == k && passing f && decide (f.queue < 4) == guar)).map
    (fun f => min f.stag (cellsCame s f))).sum

/-- Staging cells in use by guaranteed and by elastic frames. -/
def stagGuar (s : State) (k : Nat) : Nat := (bufOf s k).stagG - passed s k true
def stagElastic (s : State) (k : Nat) : Nat := (bufOf s k).stagE - passed s k false

/-- Free elastic staging cells beyond the landing area. -/
def freeStag (s : State) (k : Nat) : Nat := 8192 - 2304 - max (stagCarve s k) (stagGuar s k) - stagElastic s k

/-- Whether a count exceeds 2^k times a free count. -/
def overAlpha (k : Int) (x free : Nat) : Bool :=
  if k ≥ 0 then decide (x > free * 2 ^ k.toNat) else decide (x * 2 ^ (-k).toNat > free)

/-- Raises the running maxima of a slice's elastic occupancy (R192). -/
def noteUse (k : Nat) (s : State) : State :=
  let b := bufOf s k
  maxCtr .sidingUseMax k 0 b.sideUse (maxCtr .stagingUseMax k 0 (stagElastic s k)
    (maxCtr .poolUseMax k 0 (b.poolE + landedBy s k (s.time.now + 1)) s))

/-! ### The siding (R185-R190) -/

/-- Channel positions of a slice that the allocator uses in a stripe it begins: those of active channels (R187, R190). -/
def openPos (s : State) (k : Nat) : List Nat := (List.range 12).filter (fun i => chanActive s (32 * i + k))

/-- The skipped positions' channels. -/
def skippedChans (s : State) (k : Nat) : List Nat :=
  ((List.range 12).filter (fun i => !chanActive s (32 * i + k))).map (fun i => 32 * i + k)

/-- Free siding cells of a slice: the places of its open positions that no cell takes. -/
def freeSide (s : State) (k : Nat) : Nat :=
  sidingN s.egr.gib * (openPos s k).length - ((sideOf s k).cells.filter (fun c => (openPos s k).contains (c.chan / 32))).length

/-- Stripes in use: those of cells, those being filled, and those to be filled next. -/
def stripesUsed (sd : SideSt) : List Nat :=
  (sd.cells.map (fun c => c.stripe) ++ sd.stripes.flatMap (fun e =>
    (if e.2.left.isEmpty then [] else [e.2.stripe]) ++ e.2.next.toList)).dedup

/-- The lowest free stripe. -/
def freeStripe (n : Nat) (sd : SideSt) : Option Nat :=
  let used := stripesUsed sd
  (List.range (min n (used.length + 1))).find? (fun x => !used.contains x)

/-- A queue begins the stripe that was to be its next, or the lowest free one; its own next is taken with it, so that every cell's tag
names it (R187; log entry 115). None where no stripe is free. -/
def beginStripe (s : State) (k p q : Nat) (sd : SideSt) : Option SideSt :=
  let n := sidingN s.egr.gib
  match ((tfind sd.stripes (p, q)).bind (fun c => c.next)).or (freeStripe n sd) with
  | none => none
  | some x =>
    let sd := { sd with stripes := tset sd.stripes (p, q) ⟨x, openPos s k, none⟩ }
    some { sd with stripes := tset sd.stripes (p, q) ⟨x, openPos s k, freeStripe n sd⟩ }

/-- The next place of a queue: the next open position of the stripe it fills, or the first of the stripe it begins. -/
def sidePlace (s : State) (k p q : Nat) (sd : SideSt) : Option (SideSt × StripeSt × Nat) :=
  let take (sd : SideSt) : Option (SideSt × StripeSt × Nat) :=
    match tfind sd.stripes (p, q) with
    | some c => match c.left with
      | i :: r => some ({ sd with stripes := tset sd.stripes (p, q) { c with left := r } }, c, i)
      | [] => none
    | none => none
  match take sd with
  | some r => some r
  | none => (beginStripe s k p q sd).bind take

/-- Places the cells of a frame, from position `pos` on; none where the siding has no place for all. -/
def sidePut (s : State) (k : Nat) (f : Frame) (seq total : Nat) : Nat → Nat → SideSt → Option SideSt
  | 0, _, sd => some sd
  | n + 1, pos, sd =>
    match sidePlace s k f.egress f.queue sd with
    | none => none
    | some (sd, c, i) =>
      let x : SideCell := ⟨f.fid, seq, pos, pos + 1 == total, f.hw, c.next, f.egress, f.queue, 32 * i + k, c.stripe, false, false, none⟩
      sidePut s k f seq total n (pos + 1) { sd with cells := sd.cells ++ [x] }

/-! ### Joining and leaving a queue -/

/-- Staging cells a frame still holds are free (R181). -/
def freeStaging (fid : Nat) (s : State) : State :=
  match frameOf s fid with
  | none => s
  | some f =>
    if f.stag = 0 then s
    else updBuf (f.port / 32)
      (fun b => if f.queue < 4 then { b with stagG := b.stagG - f.stag } else { b with stagE := b.stagE - f.stag })
      (setFrame { f with stag := 0 } s)

/-- A frame is gone: discarded or dropped. A PTP_TX command whose frame is discarded ends (log entry 33). -/
def loseFrame (f : Frame) (s : State) : State :=
  let s := dropFrame f.fid (freeStaging f.fid (endTail f s))
  match f.ptp with
  | some (h, _, _, _) => finish h 0x0808 .cancelled none []
      { s with clock := { s.clock with ptpPending := s.clock.ptpPending - 1 } }
  | none => s

/-- This cycle's delay of a frame at its selection waits for the cycle's end (R209, R210). -/
def observeDelay (p q d : Nat) (s : State) : State := { s with egr := { s.egr with delays := s.egr.delays ++ [((p, q), d)] } }

/-- Puts a frame at the tail of a queue's on-die part with `n` cells. -/
def joinQueue (f : Frame) (n : Nat) (s : State) : State :=
  let f := { f with stage := .queued, charged := n, elig := eligOf s f }
  let s := putFrame f s
  let s := updQueue f.egress f.queue (fun q =>
    { settle s.time.now q with items := q.items ++ [f.fid], d := q.d + n }) s
  if f.queue < 4 then s else updBuf (f.egress / 32) (fun b => { b with poolE := b.poolE + n }) s

/-- Sends a frame of `n` cells to the siding, whose slice's cells with the frame's are given (R183, R187). -/
def joinSiding (f : Frame) (n : Nat) (sd : SideSt) (s : State) : State :=
  let k := f.egress / 32
  let f := { f with stage := .siding, charged := n, store := true }
  let s := putFrame f s
  let s := updQueue f.egress f.queue (fun q =>
    { settle s.time.now q with side := q.side ++ [f.fid], s := q.s + n, spilling := true, sideSeq := q.sideSeq + 1 }) s
  let s := updBuf k (fun b => { b with pend := b.pend + n, poolE := b.poolE + n, sideUse := b.sideUse + n }) s
  bumpBy .spilledCells f.egress f.queue n (bump .spilledFrames f.egress f.queue (updSide k (fun _ => sd) s))

/-- Admission of an elastic frame at its release (R183). DESIGN CHOICE (log entry 115): a frame for which the siding has no stripe is
dropped as one that finds it full. -/
def admitElastic (f : Frame) (n : Nat) (s : State) : State :=
  let k := f.egress / 32
  let p := f.egress
  let q := queueOf s p f.queue
  let e := elasticOf s f.queue
  let free := freePool s k
  let sfree := freeSide s k
  let full := decide (n > free) || overAlpha e.k (q.d + n) free
  if !portUp s p then loseFrame f (bump .portDownDiscard p 0 s)
  else if e.spill > 0 ∧ (q.spilling ∨ q.d + n > e.spill ∨ full) then
    if overAlpha e.k (q.s + n) sfree then loseFrame f (bump .sidingFullDrop p f.queue s)
    else if (bufOf s k).pend + n > 2048 then loseFrame f (bump .sidingBusyDrop k 0 s)
    else
      match sidePut s k f q.sideSeq n n 0 (sideOf s k) with
      | none => loseFrame f (bump .sidingFullDrop p f.queue s)
      | some sd => joinSiding f n sd s
  else if full then loseFrame f (bump .threshDrop p f.queue s)
  else joinQueue f n s

/-- A guaranteed frame takes its carve (R191); without a carve cell it is dropped. -/
def admitGuaranteed (f : Frame) (n : Nat) (s : State) : State :=
  if !portUp s f.egress then loseFrame f (bump .portDownDiscard f.egress 0 s)
  else if f.ptp.isNone ∧ carveUse s f.egress f.queue + n > poolCarve s f.egress f.queue then
    raise (32 * (f.egress / 32) + 5) (loseFrame f (bump .guarBufDrop (f.agg.getD 0) 0 s))
  else joinQueue f n s

/-- A released frame joins its queue or is dropped. -/
def takeIn (f : Frame) (n : Nat) (s : State) : State :=
  if f.queue < 4 then admitGuaranteed f n s else admitElastic f n s

/-- A frame is released at its egress with `n` cells; it is admitted when the cycle's releases are known (R183, R184). -/
def release (f : Frame) (n : Nat) (s : State) : State :=
  let s := putFrame { f with stage := .released } s
  { s with egr := { s.egr with released := s.egr.released ++ [(f.fid, n)] } }

/-- The cells of a train that stand at an egress slice leave the pool. -/
def dropTrain (fid k : Nat) (s : State) : State :=
  let n := tget s.fab.trains (fid, k) 0
  if n = 0 then s
  else updBuf k (fun b => { b with poolE := b.poolE - n }) { s with fab := { s.fab with trains := tdel s.fab.trains (fid, k) } }

/-- The order of the frames released in a cycle: egress port, then queue, then release (R184). -/
def admitBefore (a b : Frame × Nat) : Bool :=
  decide (a.1.egress < b.1.egress ∨ (a.1.egress = b.1.egress ∧ a.1.queue ≤ b.1.queue))

/-- A released frame is admitted; the cells of its own train count as free for it (R183). -/
def admitOneReleased (f : Frame) (n : Nat) (s : State) : State := takeIn f n (dropTrain (f.orig.getD f.fid) (f.egress / 32) s)

/-- The frames released in this cycle join their queues or are dropped. -/
def admitReleased (s : State) : State :=
  let l := s.egr.released.filterMap (fun e => (frameOf s e.1).map (fun f => (f, e.2)))
  (sortBy admitBefore l).foldl (fun (s : State) e => if e.1.stage = .released then admitOneReleased e.1 e.2 s else s)
    { s with egr := { s.egr with released := [] } }

/-- Elastic pool cells of a slice leave it. -/
def freeCells (k n : Nat) (s : State) : State := noteFreed k n (updBuf k (fun b => { b with poolE := b.poolE - n }) s)

/-- Takes a frame out of the on-die part of its queue, freeing its cells. -/
def leaveQueue (f : Frame) (s : State) : State :=
  let s := updQueue f.egress f.queue (fun q =>
    { settle s.time.now q with items := q.items.erase f.fid, d := q.d - f.charged }) s
  if f.queue < 4 then s else freeCells (f.egress / 32) f.charged s

/-- Frees the siding cells a frame still has, and the pool cells of those not yet written. -/
def leaveSiding (f : Frame) (s : State) : State :=
  let k := f.egress / 32
  let mine := (sideOf s k).cells.filter (fun c => c.fid = f.fid)
  let waiting := (mine.filter (fun c => !c.wrote && !c.lost)).length
  let n := mine.length
  let s := updSide k (fun sd => { sd with cells := sd.cells.filter (fun c => c.fid ≠ f.fid) }) s
  let s := freeCells k waiting (updBuf k (fun b => { b with pend := b.pend - waiting, sideUse := b.sideUse - n }) s)
  updQueue f.egress f.queue (fun q => { q with s := q.s - n, spilling := q.spilling && decide (q.s - n > 0) }) s

/-- Takes a frame out of the siding part: its cells there and those already prefetched. -/
def dropSiding (f : Frame) (s : State) : State :=
  let s := leaveSiding f s
  let s := updQueue f.egress f.queue (fun q =>
    { settle s.time.now q with side := q.side.erase f.fid, d := q.d - f.sent }) s
  freeCells (f.egress / 32) f.sent s

/-- Removes a frame from wherever it waits at the egress. -/
def takeOut (f : Frame) (s : State) : State :=
  match f.stage with
  | .queued => leaveQueue f s
  | .siding => dropSiding f s
  | _ => s

/-- Frames of the siding's head that are whole on die, or lost, join the on-die part in order (R188, R190). -/
def moveSide (p q : Nat) : Nat → State → State
  | 0, s => s
  | n + 1, s =>
    match (queueOf s p q).side with
    | [] => s
    | fid :: rest =>
      match frameOf s fid with
      | none => s
      | some f =>
        let left := (sideOf s (p / 32)).cells.any (fun c => c.fid = fid)
        if !f.lost && left then s
        else
          let s := leaveSiding f s
          let s := putFrame { f with stage := .queued, charged := f.sent, elig := some (s.time.now + 2) } s
          moveSide p q n (updQueue p q (fun x => { x with side := rest, items := x.items ++ [fid] }) s)

/-- Prefetched cells of a queue not yet dequeued: on die, or on their way. -/
def prefetched (s : State) (p q : Nat) : Nat :=
  ((s.frames.filter (fun f => f.egress == p && f.queue == q && (f.stage == .queued || f.stage == .siding))).map
      (fun f => f.sent)).sum +
    ((sideOf s (p / 32)).cells.filter (fun c => c.port == p && c.queue == q && c.readAt.isSome)).length

/-- One transfer of a channel, if its 13 are not used: counted and its row activated. -/
def transfer (c stripe : Nat) (used : Tab Nat Nat) (s : State) : Tab Nat Nat × State :=
  let off := (256 - sidingRegions s.egr.gib) * 2 ^ 21 + stripe * 256
  (tset used c (tget used c 0 + 1),
   pmcCount (hbmBlock c) 0x202 (c % 32) 1 (bump .sidingTransfers c 0 (activate c off s)))

/-- Up to `n` reads, oldest first. -/
def sideReads (k : Nat) : List SideCell → Nat → Tab Nat Nat → State → Nat × Tab Nat Nat × State
  | [], n, used, s => (n, used, s)
  | c :: cs, n, used, s =>
    if n = 0 then (0, used, s)
    else if c.wrote && !c.lost && c.readAt.isNone && decide (tget used c.chan 0 < 13) &&
        decide (prefetched s c.port c.queue < 256) && decide (freePool s k > 1024) then
      let (used, s) := transfer c.chan c.stripe used s
      let s := updSide k (fun sd => { sd with cells := sd.cells.map (fun x =>
        if x.fid = c.fid ∧ x.pos = c.pos then { x with readAt := some s.time.now } else x) }) s
      sideReads k cs (n - 1) used s
    else sideReads k cs n used s

/-- Up to `n` writes, oldest first; a cell is written once its data has arrived. -/
def sideWrites (k : Nat) : List SideCell → Nat → Tab Nat Nat → State → Nat × Tab Nat Nat × State
  | [], n, used, s => (n, used, s)
  | c :: cs, n, used, s =>
    if n = 0 then (0, used, s)
    else if !c.wrote && !c.lost && decide (tget used c.chan 0 < 13) && chanActive s c.chan &&
        ((frameOf s c.fid).map (fun f => cellCame s f c.pos)).getD true then
      let (used, s) := transfer c.chan c.stripe used s
      let s := updSide k (fun sd => { sd with cells := sd.cells.map (fun x =>
        if x.fid = c.fid ∧ x.pos = c.pos then { x with wrote := true } else x) }) s
      sideWrites k cs (n - 1) used (freeCells k 1 (updBuf k (fun b => { b with pend := b.pend - 1 }) s))
    else sideWrites k cs n used s

/-- A slice's siding transfers of one headway (R186): reads up to 78 first where writes wait, then writes, then the
remaining reads. -/
def sidingHeadway (k : Nat) (s : State) : State :=
  let cells := (sideOf s k).cells
  if cells.isEmpty then s
  else
    let first := if cells.any (fun c => !c.wrote && !c.lost) then 78 else 156
    let (left, used, s) := sideReads k cells first [] s
    let (left, used, s) := sideWrites k cells (156 - (first - left)) used s
    let (_, _, s) := sideReads k (sideOf s k).cells left used s
    s

/-- The age limit of an elastic queue, in headways (R189). -/
def tooOld (s : State) (f : Frame) : Bool :=
  f.queue ≥ 4 && decide (hwNow s - f.hw > (elasticOf s f.queue).ageLimit)

/-- The first siding cell of a slice that was read 288 cycles ago. -/
def readDone (slice : Nat) (s : State) : Option SideCell :=
  (sideOf s slice).cells.find? (fun c => match c.readAt with
    | some t => decide (t + 288 ≤ s.time.now)
    | none => false)

/-- A read's correction, where the channel's ECC corrected it. -/
def readCorrected (c : SideCell) (corrected : Bool) (s : State) : State :=
  if corrected then eccCorrect c.chan (256 - sidingRegions s.egr.gib + c.stripe * 256 / 2 ^ 21) s else s

/-- A frame too old when the first of its cells returns is discarded (R189). -/
def agedOut (f : Frame) (s : State) : State :=
  moveSide f.egress f.queue 4096 (loseFrame f (dropSiding f (bump .ageDiscard f.egress f.queue s)))

/-- A prefetched cell stands on die; frames whole on die join the queue's on-die part (R188). -/
def cellOnDie (slice : Nat) (c : SideCell) (f : Frame) (s : State) : State :=
  let s := updSide slice (fun sd => { sd with cells := sd.cells.erase c }) s
  let s := updBuf slice (fun b => { b with poolE := b.poolE + 1, sideUse := b.sideUse - 1 }) s
  let s := updQueue c.port c.queue (fun q => { q with
    d := q.d + 1, s := q.s - 1, spilling := q.spilling && decide (q.s > 1) }) s
  let s := setFrame { f with sent := f.sent + 1 } s
  moveSide c.port c.queue 4096 s

/-- A cell's read returns: its frame goes where it is too old, else the cell stands on die. -/
def sideReturn (slice : Nat) (c : SideCell) (f : Frame) (corrected : Bool) (s : State) : State :=
  let s := readCorrected c corrected s
  if f.sent = 0 ∧ tooOld s f then agedOut f s else cellOnDie slice c f s

/-- SIDING_READ_RETURN (R186, R188, R189): a cell read 288 cycles ago is on die. -/
def execSidingReadReturn (slice : Nat) (corrected : Bool) (s : State) : Host.Outcome State Fault Refusal :=
  within s (
    match readDone slice s with
    | none => .next s
    | some c =>
      match frameOf s c.fid with
      | none => .next s
      | some f =>
        .next (sideReturn slice c f corrected s))

/-- Every siding read of a slice that returns in this cycle. -/
def sideReturns (slice : Nat) : Nat → State → State
  | 0, s => s
  | n + 1, s =>
    match readDone slice s with
    | none => s
    | some c =>
      match frameOf s c.fid with
      | none => s
      | some f => sideReturns slice n (sideReturn slice c f false s)

/-- A commit that changes G empties the siding; every frame with a part there is removed, every stripe is free (R185). -/
def sidingFlush (s : State) : State :=
  let s := (s.frames.filter (fun f => f.stage == .siding)).foldl
    (fun s f => bump .sidingFlushed (f.egress / 32) 0 (loseFrame f (dropSiding f s))) s
  { s with egr := { s.egr with sides := [] } }

/-- The frame's excess cells return when its tail status is known (R181, R183). -/
def returnExcess (f : Frame) (n : Nat) (s : State) : State :=
  let k := f.egress / 32
  if f.charged ≤ n then s
  else
    let x := f.charged - n
    match f.stage with
    | .queued =>
      let s := updQueue f.egress f.queue (fun q => { q with d := q.d - x }) s
      let s := if f.queue < 4 then s else freeCells k x s
      setFrame { f with charged := n } s
    | .siding =>
      let gone := (sideOf s k).cells.filter (fun c => c.fid == f.fid && decide (c.pos ≥ n))
      let waiting := (gone.filter (fun c => !c.wrote && !c.lost)).length
      let s := updSide k (fun sd => { sd with cells :=
        (sd.cells.filter (fun c => !(c.fid == f.fid && decide (c.pos ≥ n)))).map (fun c =>
          if c.fid = f.fid ∧ c.pos + 1 = n then { c with last := true } else c) }) s
      let s := freeCells k waiting (updBuf k (fun b => { b with pend := b.pend - waiting, sideUse := b.sideUse - gone.length }) s)
      let s := updQueue f.egress f.queue (fun q => { q with
        s := q.s - gone.length, spilling := q.spilling && decide (q.s - gone.length > 0) }) s
      moveSide f.egress f.queue 4096 (setFrame { f with charged := n } s)
    | _ => s

/-! ### Commands (Table 8-3) -/

/-- The fields of BUF_STATUS (Table 8-3). -/
def bufFlds (s : State) (slice port : Nat) : List RField :=
  let b := bufOf s slice
  let sd := sideOf s slice
  let qs := (List.range 16).map (fun q => queueOf s port q)
  [fld "STAGING_CARVE" (stagCarve s slice),
    flds "POOL_CARVES" ((portsOfSlice slice).flatMap (fun p => (List.range 4).map (fun q => poolCarve s p q))),
    fld "ELASTIC_STAGING" (8192 - 2304 - stagCarve s slice), fld "ELASTIC_POOL" (40960 - 384 - carves s slice),
    fld "FREE" (freePool s slice), fld "PEND" b.pend, fld "G" s.egr.gib, fld "N" (sidingN s.egr.gib),
    fld "FREE_STRIPES" (sidingN s.egr.gib - (stripesUsed sd).length), flds "SKIPPED" (skippedChans s slice),
    flds "D" (qs.map (fun q => q.d)), flds "S" (qs.map (fun q => q.s)),
    ⟨"SPILLING", 1, qs.map (fun q => q.spilling.toNat)⟩]

def execBufStatus (h : Hdr) (slice : Nat) (port : Nat) (s : State) : Host.Outcome State Fault Refusal :=
  within s (
    .next (qcp { code := 0x0720, reads := true } h (fun s =>
      if slice ≥ 32 then badParam (po 0)
      else if (portOf s port).isNone then badParam (po 1)
      else if s.tt.active.isNone then .refuse .notFound none
      else
        .done (bufFlds s slice port) s) s))

/-- Counters of Table 8-2 that a slice keeps, and its running maxima; then those a port keeps. -/
def bufSliceCtrs : List Ctr := [.sidingBusyDrop, .sidingChannelDiscard, .sidingFlushed, .fullBlocks]
def bufMaxCtrs : List Ctr := [.poolUseMax, .stagingUseMax, .sidingUseMax]
def bufQueueCtrs : List Ctr := [.threshDrop, .sidingFullDrop, .spilledFrames, .spilledCells, .ageDiscard]

def bufPortKeys : List (Ctr × Nat) := (List.range 16).flatMap (fun q => bufQueueCtrs.map (fun c => (c, q)))

/-- A port's buffer counters cleared. -/
def bufPortClear (n : Nat) (s : State) : State :=
  bufPortKeys.foldl (fun s e => clearCtr e.1 n e.2 s) (clearCtr .stagingDrop n 0 s)

/-- A slice's running maxima start again. -/
def maximaClear (n : Nat) (s : State) : State := bufMaxCtrs.foldl (fun s c => clearCtr c n 0 s) s

def execBufCounters (h : Hdr) (isPort : Bool) (n : Nat) (clear : Bool) (s : State) : Host.Outcome State Fault Refusal :=
  within s (
    .next (qcp { code := 0x0721, reads := true } h (fun s =>
      if isPort then
        if (portOf s n).isNone then badParam (po 1)
        else .done [fld "STAGING_DROP" (ctr s .stagingDrop n 0), flds "QUEUES" (bufPortKeys.map (fun e => ctr s e.1 n e.2))]
          (if clear then bufPortClear n s else s)
      else if n ≥ 32 then badParam (po 1)
      else .done [flds "COUNTERS" (bufSliceCtrs.map (fun c => ctr s c n 0)), flds "MAXIMA" (bufMaxCtrs.map (fun c => ctr s c n 0))]
        (if clear then bufSliceCtrs.foldl (fun s c => clearCtr c n 0 s) (maximaClear n s) else maximaClear n s)) s))

end Sys2Proof.Machine
end

