-- ==== Sys2Proof/Machine/Egress.lean ====
section
/-! DEFINITION. Egress queues (chapter 9): selection, preemption, meters, latency observation, and the frames commands supply
(PTP_TX, MACSEC_UNCTRL_TX). -/

namespace Sys2Proof.Machine

/-! ### The wire -/

/-- The first bit's position of a frame selected now: in cycle S + 22, after the gap (R146, R195). -/
def firstBit (s : State) (ps : PortSt) : Nat := max ((s.time.now + 22) * bitsPerCycle ps.opWidth) ps.wireFree

/-- Whether a port may select in this cycle (R195). -/
def maySelect (s : State) (ps : PortSt) : Bool := decide (ps.wireFree < (s.time.now + 23) * bitsPerCycle ps.opWidth)

/-- Puts a frame or fragment on a port's wire. -/
def putWire (p : Nat) (w : WireSt) (r : TxRec) (s : State) : State :=
  let s := updPort p (fun x => { x with wire := some w, wireFree := w.start + 8 * w.bytes + 160 }) s
  { s with egr := { s.egr with sent := s.egr.sent ++ [r] } }

/-- Changes the last thing a frame put on a wire. -/
def updSent (fid : Nat) (f : TxRec → TxRec) (l : List TxRec) : List TxRec :=
  match l.reverse.findIdx? (fun r => r.fid == fid) with
  | none => l
  | some i => l.modify (l.length - 1 - i) f

/-- The last record of what a frame put on a wire ends with the inverted CRC. -/
def markSent (fid : Nat) (s : State) : State :=
  { s with egr := { s.egr with sent := updSent fid (fun r => { r with marked := true }) s.egr.sent } }

/-- A copy that a port is sending, or holds preempted, is to end with the inverted CRC: the mark falls on its last fragment, and the
copy is counted once (R60, R150, R152). -/
def markCopy (fid p : Nat) (s : State) : State :=
  match portOf s p with
  | none => s
  | some ps =>
    let on (w : Option WireSt) : Bool := w.any (fun w => w.fid == fid && !w.marked)
    let mark (w : WireSt) : WireSt := { w with marked := true }
    if on ps.held then bump .txTailMarked p 0 (setPort p { ps with held := ps.held.map mark } s)
    else if on ps.wire then bump .txTailMarked p 0 (markSent fid (setPort p { ps with wire := ps.wire.map mark } s))
    else s

/-! ### PTP departure (R234, R236) -/

/-- The departure time of a frame whose first bit stands at a position, in 2^-16 ns (R234). DESIGN CHOICE (log entry 110): the transmit
total is that of the width the port operates at, from the retrain that halved it on. -/
def departure (s : State) (ps : PortSt) (first : Nat) : Nat :=
  let b := bitsPerCycle ps.opWidth
  tcAt s (first / b) + first % b * 8 / b * 5120 + txTotal ps.opWidth

/-- Replaces bytes from an offset on. -/
def setBytes (bs : List Byte) (off : Nat) (new : List Byte) : List Byte :=
  bs.take off ++ new ++ bs.drop (off + new.length)

/-- A big-endian number of `n` bytes at an offset; bytes beyond the end read zero. -/
def beAt (bs : List Byte) (off n : Nat) : Nat :=
  (List.range n).foldl (fun v i => v * 256 + (bs.getD (off + i) 0).toNat) 0

/-- Where the last EtherType of a frame stands, past at most two tags. -/
def etherOff (bs : List Byte) : Nat :=
  let tag (o : Nat) : Bool := beAt bs o 2 == 0x8100 || beAt bs o 2 == 0x88A8
  if tag 12 then (if tag 16 then 20 else 16) else 12

/-- The ones' complement sum, modulo 65,535, of the 16-bit words from `u` to `stop`; a last odd byte is a word's high byte. -/
def onesBetween (bs : List Byte) (u stop : Nat) : Nat :=
  ((List.range (stop - u)).map (fun i => (bs.getD (u + i) 0).toNat * (if i % 2 = 0 then 256 else 1))).sum % 65535

/-- What the last two bytes of a UDP payload become so that the checksum stays valid when `old` became `new` (R236); of the two
zeros of ones' complement which one is free. -/
def udp6Repair (old new : List Byte) (u stop : Nat) : Nat :=
  let d := (onesBetween old u stop + 65535 - onesBetween new u stop) % 65535
  let d := if (stop - u) % 2 = 0 then d else d % 256 * 256 + d / 256
  let v := (beAt new (stop - 2) 2 + d) % 65535
  if v = 0 ∧ Config.udp6Zero new then 65535 else v

/-- Where the UDP checksum of an IPv4 frame stands; none where the frame carries no UDP over IPv4. -/
def udp4Off (bs : List Byte) : Option Nat :=
  let e := etherOff bs
  if beAt bs e 2 = 0x0800 ∧ beAt bs (e + 11) 1 = 17 then some (e + 2 + 4 * (beAt bs (e + 2) 1 % 16) + 6) else none

/-- Where the payload of an IPv6 frame ends; none where the frame carries no IPv6. -/
def ip6Stop (bs : List Byte) : Option Nat :=
  let e := etherOff bs
  if beAt bs e 2 = 0x86DD then some (e + 2 + 40 + beAt bs (e + 6) 2) else none

/-- Whether every field that a one-step insertion writes lies in the frame (R236). -/
def insertFits (bs : List Byte) (off : Nat) (udp6 : Bool) : Bool :=
  decide (26 ≤ off) && decide (off + 10 ≤ bs.length) &&
    (match udp4Off bs with
      | some o => decide (o + 2 ≤ bs.length)
      | none => true) &&
    (!udp6 || (match ip6Stop bs with
      | some o => decide (o ≤ bs.length) && decide (etherOff bs + 2 + 40 + 10 ≤ o)
      | none => true))

/-- A one-step PTP frame with its departure time inserted. -/
def insertTime (bs : List Byte) (off : Nat) (udp6 : Bool) (t : Nat) : List Byte :=
  let ns := t / 65536
  let b1 := setBytes bs off (beBytes 6 (ns / 1000000000) ++ beBytes 4 (ns % 1000000000))
  let b2 := setBytes b1 (off - 26) (beBytes 8 (beAt b1 (off - 26) 8 + t % 65536))
  match udp4Off bs, ip6Stop bs with
  | some o, _ => setBytes b2 o [0, 0]
  | none, some stop =>
    if udp6 then setBytes b2 (stop - 2) (beBytes 2 (udp6Repair bs b2 (etherOff bs + 42) stop)) else b2
  | none, none => b2

/-! ### Selection (R196) -/

def headOf (s : State) (p q : Nat) : Option Frame := (queueOf s p q).items.head?.bind (frameOf s)

def eligible (s : State) (f : Frame) : Bool :=
  match f.elig with
  | some e => decide (e ≤ s.time.now)
  | none => false

/-- A queue's meter lets its head go in this cycle. -/
def creditOk (s : State) (p q : Nat) : Bool :=
  let x := queueOf s p q
  !mEn x.word || decide (creditAtCycle x s.time.now ≥ 0)

/-- A queue whose head is eligible, whatever its meter says. -/
def headEligible (s : State) (p q : Nat) : Bool :=
  match headOf s p q with
  | some f => eligible s f
  | none => false

/-- A head is ready (R196). -/
def headReady (s : State) (p q : Nat) : Bool := headEligible s p q && creditOk s p q

/-- Heads found too old, or lost in the siding, are discarded in this cycle (R189, R190); answers the queues concerned. -/
def discardOld (p : Nat) : List Nat → State → List Nat × State
  | [], s => ([], s)
  | q :: qs, s =>
    let s := if (queueOf s p q).items.isEmpty then moveSide p q 4096 s else s
    match headOf s p q with
    | none => discardOld p qs s
    | some f =>
      let lost := f.lost && f.stage == .queued
      if !(lost || (eligible s f && tooOld s f)) then discardOld p qs s
      else
        let s := if lost then bump .sidingChannelDiscard (p / 32) 0 s else bump .ageDiscard p q s
        let s := moveSide p q 4096 (loseFrame f (leaveQueue f s))
        let (l, s) := discardOld p qs s
        (q :: l, s)

/-- pick_elastic (R196): `n` steps left. Deficits are in sixteenths. -/
def pickElastic (p : Nat) (ready : Nat → Bool) : Nat → State → Option Nat × State
  | 0, s => (none, s)
  | n + 1, s =>
    let q := ((portOf s p).map (fun x => x.cur)).getD 15
    let x := queueOf s p q
    if ready q && decide (x.deficit ≥ 16) then
      (some q, updQueue p q (fun x => { x with deficit := x.deficit - 16 }) s)
    else
      let s := updQueue p q (fun x => { x with deficit := if queueHolds x then x.deficit % 16 else 0 }) s
      let c := 4 + (q - 3) % 12
      let s := updPort p (fun x => { x with cur := c }) s
      pickElastic p ready n (updQueue p c (fun x => { x with deficit := x.deficit + x.weight }) s)

/-- The meter at the end of a cycle in which its queue selected a frame (R205). -/
def chargeMeter (p q bytes : Nat) (s : State) : State :=
  let x := queueOf s p q
  if !mEn x.word then s
  else
    let c := creditAtCycle x s.time.now - mCharge x.word bytes
    let c1 := max c (-(mLo x.word))
    let c2 := min (c1 + mSlope x.word) (mHi x.word)
    let s := if c < -(mLo x.word) then bump .shaperClamp p q s else s
    updQueue p q (fun x => { x with credit := c2, creditAt := s.time.now + 1, heldAt := none }) s

/-- A guaranteed frame whose last bit leaves after its deadline headway (R23). -/
def noteLate (f : Frame) (p last : Nat) (s : State) : State :=
  match f.deadline, f.agg with
  | some d, some a =>
    if f.queue < 4 ∧ hwOfCycle s last > d then
      raise (32 * (p / 32) + 3) (bumpLife .latePort p 0 1 (bump .lateAgg a 0 s))
    else s
  | _, _ => s

/-- The delay of a frame of Q0–Q3 at its selection (R209); a PTP_TX frame's counts from its entry (log entry 117). -/
def noteDelay (f : Frame) (p : Nat) (s : State) : State :=
  if f.queue < 4 then observeDelay p f.queue (s.time.now - f.ref) s else s

/-- A selected frame's command completes with its departure time. -/
def ptpDone (f : Frame) (t : Nat) (s : State) : State :=
  match f.ptp with
  | some (h, _, _, _) => finish h 0x0808 .ok none [⟨"DEPARTURE", 12, [tcWord t]⟩]
      { s with clock := { s.clock with ptpPending := s.clock.ptpPending - 1 } }
  | none => s

/-- Whether a frame leaves as it came. -/
def unedited (f : Frame) : Bool := f.edits.isEmpty && f.xlate.isNone && f.vid == 0 && !f.dttl

/-- A frame's bytes before its FCS as the edit stage leaves them; what an edit writes is free (log entry 46). -/
def editedBytes (f : Frame) : List Byte :=
  if unedited f then f.bytes
  else (List.range (f.outLen - 4)).map (fun i => Config.editByte f.bytes f.edits f.nh f.xlate f.vid f.dttl i)

/-- What leaves of a frame selected by a port: edited, with the departure time of a one-step PTP frame, protected (R236, R237, R255). -/
def leavingBytes (s : State) (p : Nat) (f : Frame) (t : Nat) : List Byte :=
  sentBytes s p f.eapol (match f.ptp with
    | some (_, true, off, u6) => insertTime f.bytes off u6 t
    | _ => editedBytes f)

/-- The head of a queue is selected: metered, protected, put on the wire or discarded (R196, R205, R255, R258). -/
def selectFrame (p q : Nat) (s : State) : State :=
  match headOf s p q, portOf s p with
  | some f, some ps =>
    let s0 := s
    let (out, s) := protectFrame p f.outLen f.eapol s
    let sent := min (out.getD f.outLen) ps.maxLen
    let s := noteDelay f p (bump .txqFrames p q (leaveQueue f (chargeMeter p q sent s)))
    match out with
    | none => loseFrame f s
    | some n =>
      let first := firstBit s ps
      let last := (first + 8 * sent - 1) / bitsPerCycle ps.opWidth
      let t := departure s ps first
      let bytes := leavingBytes s0 p f t
      let w : WireSt := ⟨f.fid, first, sent, 0, q ≥ 4 && ps.preOn, q, decide (n > ps.maxLen)⟩
      let r : TxRec := ⟨f.fid, p, q, first, sent, 0, decide (n > ps.maxLen), bytes, f.edit, f.nh, f.xlate, f.vid, f.dttl⟩
      let s := putWire p w r s
      let s := bumpBy .txOctets p 0 sent (bump .txFrames p 0 s)
      let s := bumpBy .txqOctets p q sent s
      let s := if n > ps.maxLen then bump .txTailMarked p 0 s else s
      let s := pmcCount (p / 32) 0x009 (p + q * 1024) 1 s
      let s := ptpDone f t (noteLate f p last s)
      if f.tcycle.isSome || f.ptp.isSome || f.unctrl then dropFrame f.fid s
      else setFrame { f with stage := .wire } s
  | _, _ => s

/-- A preempted frame resumes with a continuation fragment (R196, R198). -/
def resume (p : Nat) (w : WireSt) (s : State) : State :=
  match portOf s p with
  | none => s
  | some ps =>
    let first := firstBit s ps
    let w := { w with start := first }
    let f := frameOf s w.fid
    let r0 := (s.egr.sent.reverse.find? (fun r => r.fid = w.fid)).getD ⟨w.fid, p, w.queue, 0, 0, 0, false, [], 0, none, none, 0, false⟩
    let r := { r0 with first := first, len := w.bytes, prior := w.prior, marked := w.marked }
    let s := putWire p w r (updPort p (fun x => { x with held := none }) s)
    let s := bump .txFragments p 0 s
    match f with
    | some f => if f.tcycle.isSome then dropFrame f.fid s else setFrame { f with stage := .wire } s
    | none => s

/-- Where a fragment may be cut so that an express frame selected now begins right after (R198, R199): the least number of
bytes that is a multiple of 8, with at least 60 sent and at least 60 left before the FCS. -/
def cutAt (s : State) (ps : PortSt) (w : WireSt) : Option Nat :=
  let b := bitsPerCycle ps.opWidth
  ((List.range (w.bytes / 8 + 1)).map (fun i => 8 * i)).find? (fun n =>
    decide (60 ≤ n) && decide (n + 64 ≤ w.bytes) &&
      (let start := w.start + 8 * (n + 24)
       decide ((s.time.now + 22) * b ≤ start) && decide (start < (s.time.now + 23) * b)))

/-- FRAME_PREEMPT: the fragment on the wire ends at a cut with its mCRC, and its rest is held with the mark it is to end with (R152). -/
def preempt (p : Nat) (w : WireSt) (n : Nat) (s : State) : State :=
  let s := updPort p (fun x => { x with
    wire := none, held := some { w with bytes := w.bytes - n, prior := w.prior + n }
    wireFree := w.start + 8 * (n + 24) }) s
  let s := { s with egr := { s.egr with sent := updSent w.fid (fun r => { r with len := n + 4, marked := false }) s.egr.sent } }
  let s := bump .preemptions p 0 s
  match frameOf s w.fid with
  | some f => setFrame { f with stage := .held } s
  | none => s

/-- The lowest of Q0–Q3 whose head is ready. -/
def expressReady (s : State) (p : Nat) : Option Nat := (List.range 4).find? (fun q => headReady s p q)

def elasticQs : List Nat := (List.range 12).map (fun i => i + 4)

/-- A port whose frames wait counts the queues a meter alone holds back (Table 9-7). -/
def countHeld (port : Nat) (open_ : Nat → Bool) (s : State) : State :=
  ((List.range 16).filter (fun q => open_ q && headEligible s port q && !creditOk s port q)).foldl
    (fun s q => bump .shaperHeld port q s) s

/-- What a free port sends: an express frame, a held fragment, or the elastic queue its turn picks (R195-R198). -/
def selectTurn (port : Nat) (ps : PortSt) (s : State) : State :=
  let (gone, s) := discardOld port elasticQs (setPort port { ps with selAt := s.time.now + 1 } s)
  let open_ (q : Nat) : Bool := !gone.contains q
  let s := countHeld port open_ s
  match expressReady s port with
  | some q => selectFrame port q s
  | none =>
    match (portOf s port).bind (fun x => x.held) with
    | some w => resume port w s
    | none =>
      let ready := elasticQs.filter (fun q => open_ q && headReady s port q)
      match pickElastic port (fun q => ready.contains q) 13 s with
      | (some q, s) => selectFrame port q s
      | (none, s) => s

/-- The frame on the wire is cut for an express frame, which is selected (R199); the cycle is one in which the port may select. -/
def cutIn (port : Nat) (ps : PortSt) (w : WireSt) (n q : Nat) (s : State) : State :=
  let (gone, s) := discardOld port elasticQs (setPort port { ps with selAt := s.time.now + 1 } s)
  selectFrame port q (preempt port w n (countHeld port (fun q => !gone.contains q) s))

/-- EGRESS_SELECT: one cycle of a port's scheduler. -/
def execEgressSelect (port : Nat) (s : State) : Host.Outcome State Fault Refusal :=
  within s (
    match portOf s port with
    | none => .next s
    | some ps =>
      if !ps.link || !forwarding s || ps.selAt == s.time.now + 1 then .next s
      else if maySelect s ps then .next (selectTurn port ps s)
      else
        match ps.wire, expressReady s port with
        | some w, some q =>
          if !w.pre then .next s
          else
            match cutAt s ps w with
            | none => .next s
            | some n => .next (cutIn port ps w n q s)
        | _, _ => .next s)

/-! ### Frames that leave the egress otherwise -/

/-- A link goes down: everything queued or held for the port is discarded (R59, R402). -/
def portDownFlush (p : Nat) (s : State) : State :=
  let mine := s.frames.filter (fun f => f.egress == p &&
    (f.stage == .queued || f.stage == .siding || f.stage == .held || f.stage == .released))
  let rest := ((portOf s p).bind (fun x => x.held)).any (fun w => !mine.any (fun f => f.fid == w.fid))
  let s := mine.foldl (fun (s : State) f => bump .portDownDiscard p 0 (loseFrame f (takeOut f s))) s
  let s := if rest then bump .portDownDiscard p 0 s else s
  updPort p (fun x => { x with wire := none, held := none, wireFree := 0 }) s

/-- The tail status of a frame reaches its egress (R149, R150): a frame being sent is marked when bad, one still queued is
discarded; a good one becomes eligible by it. -/
def egressTail (f : Frame) (bad : Bool) (s : State) : State :=
  match f.stage with
  | .wire =>
    let s := dropFrame f.fid s
    if bad then markCopy f.fid f.egress s else s
  | .held =>
    let s := setFrame { f with bad := bad, tcycle := some s.time.now } s
    if bad then markCopy f.fid f.egress s else s
  | .released => if bad then loseFrame f s else setFrame { f with tcycle := some s.time.now } s
  | .queued | .siding =>
    if bad then loseFrame f (takeOut f s)
    else
      let g := { f with tcycle := some s.time.now }
      setFrame { g with elig := if f.stage = .queued then eligOf s g else f.elig } s
  | _ => s

/-! ### Frames commands supply -/

/-- PTP_TX frames a port may send in an orbit (R238). -/
def ptpAllowed (s : State) (p : Nat) : Nat := tget (features s).ptpMax p 0

/-- A frame a command places in a queue of a port. -/
def supplied (s : State) (port q : Nat) (bytes : List Byte) : Frame :=
  { Frame.init s.nextFid port bytes.length bytes with
    ref := s.time.now, hw := hwNow s, orbit := s.time.orbit, queue := q, egress := port, tailKnown := true
    zcycle := some s.time.now, tcycle := some s.time.now }

/-- A PTP_TX frame enters Q0 of its port. -/
def ptpQueued (h : Hdr) (port : Nat) (ps : PortSt) (frame : List Byte) (oneStep : Bool) (tsOffset : Nat) (udp6Adj : Bool)
    (s : State) : State :=
  let s1 := setPort port { ps with ptpSent := ps.ptpSent + 1 } s
  takeIn { supplied s port 0 frame with ptp := some (h, oneStep, tsOffset, udp6Adj) } (cellsOf frame.length)
    { s1 with nextFid := s.nextFid + 1, clock := { s.clock with ptpPending := s.clock.ptpPending + 1 } }

def execPtpTx (h : Hdr) (port : Nat) (frame : List Byte) (oneStep : Bool) (tsOffset : Nat) (udp6Adj : Bool) (s : State) :
    Host.Outcome State Fault Refusal :=
  within s (
    .next (qcp { code := 0x0808, world := .nonSecure } h (fun s =>
      match portOf s port with
      | none => badParam (po 0)
      | some ps =>
        if frame.length < 64 ∨ frame.length > 1518 then badParam (po 1)
        else if oneStep ∧ (tsOffset < 26 ∨ tsOffset + 10 > frame.length) then badParam (po 3)
        else if oneStep ∧ !insertFits frame tsOffset udp6Adj then badParam (po 1)
        else if ps.ptpSent ≥ ptpAllowed s port then
          .refuse .busy (some (.orbit (nextOrb s).2 (nextOrb s).1))
        else if s.clock.ptpPending ≥ 4096 then .refuse .busy none
        else
          .start (ptpQueued h port ps frame oneStep tsOffset udp6Adj s)) s))

/-- EAPOL frames that wait on a port (R265's 64 pending, counted per port). -/
def unctrlPending (s : State) (port : Nat) : Nat :=
  (s.frames.filter (fun f => f.unctrl && f.egress == port)).length

/-- A frame of the uncontrolled port enters Q4 of its port, or is discarded where the port is down. -/
def unctrlQueued (port : Nat) (frame : List Byte) (s : State) : State :=
  if portUp s port then joinQueue { supplied s port 4 frame with unctrl := true, eapol := true } (cellsOf frame.length)
    { s with nextFid := s.nextFid + 1 }
  else bump .portDownDiscard port 0 { s with nextFid := s.nextFid + 1 }

def execMacsecUnctrlTx (h : Hdr) (port : Nat) (frame : List Byte) (s : State) : Host.Outcome State Fault Refusal :=
  within s (
    .next (qcp { code := 0x090C, world := .secure } h (fun s =>
      if (portOf s port).isNone then badParam (po 0)
      else if frame.length < 64 ∨ frame.length > 1518 ∨ beAt frame 12 2 ≠ 0x888E then badParam (po 1)
      else if unctrlPending s port ≥ 64 then .refuse .busy none
      else
        .done [] (unctrlQueued port frame s)) s))

/-! ### Preemption (R408) -/

def verifyCode : Verify → Nat
  | .disabled => 0 | .initial => 1 | .verifying => 2 | .succeeded => 3 | .failed => 4

/-- PREEMPT_VERIFY_DONE: the verify process of a port ends. -/
def execPreemptVerifyDone (port : Nat) (ok : Bool) (s : State) : Host.Outcome State Fault Refusal :=
  within s (
    match portOf s port with
    | none => .next s
    | some ps =>
      if ps.vstate ≠ .verifying then .next s
      else if ok then .next (setPort port { ps with vstate := .succeeded } s)
      else .next (bump .preemptVerifyFail port 0 (setPort port { ps with vstate := .failed } s)))

/-- Starts a port's verify process where it has one. -/
def startVerify (x : PortSt) : PortSt :=
  if x.preEn && x.verify then { x with vstate := if x.link then .verifying else .initial, preOn := false }
  else { x with vstate := if x.verify then .initial else .disabled }

/-- A port's preemption at a headway boundary: a waiting setting comes into force, and success makes it active. -/
def preemptBoundary (x : PortSt) : PortSt :=
  let x := match x.preNx with
    | some (e, v) => startVerify { x with preEn := e, verify := v, preNx := none }
    | none => x
  { x with preOn := x.preEn && (!x.verify || x.vstate == .succeeded) }

def execPreemptSet (h : Hdr) (port : Nat) (enable : Bool) (verify : Bool) (s : State) :
    Host.Outcome State Fault Refusal :=
  within s (
    .next (qcp { code := 0x0704, world := .nonSecure } h (fun s =>
      match portOf s port with
      | none => badParam (po 0)
      | some ps =>
        match (if enable then none else carriesOut s port) with
        | some a => .refuse .resourceClaimed (some (.aggregate a))
        | none => .done (effectFlds s) (setPort port { ps with preNx := some (enable, verify) } s)) s))

def execPreemptStatus (h : Hdr) (first : Nat) (count : Nat) (s : State) : Host.Outcome State Fault Refusal :=
  within s (
    .next (qcp { code := 0x0705, reads := true } h (fun s =>
      if !rangeOk first count 1024 then badParam (po 1)
      else .done [⟨"PORTS", 1, (List.range count).flatMap (fun i => match portOf s (first + i) with
        | some x => [x.preEn.toNat, x.verify.toNat, verifyCode x.vstate, x.preOn.toNat]
        | none => [0, 0, 0, 0])⟩] s) s))

/-! ### Meters and weights -/

/-- A parameter word whose fields are in range (Table 9-2). -/
def meterWordOk (w : BitVec 64) : Bool :=
  let slope := field w 0 27
  decide (1 ≤ slope) && decide (slope ≤ if mByte w then 2048000 else 67108864) && decide (1 ≤ field w 39 12) &&
    field w 61 3 == 0

/-- A parameter word comes into force in cycle `t` (R206). -/
def setMeterWord (t : Nat) (w : BitVec 64) (q : QueueSt) : QueueSt :=
  let c := creditAtCycle q t
  let c := if mByte w ≠ mByte q.word ∨ mEn w ≠ mEn q.word then 0 else max (-(mLo w)) (min (mHi w) c)
  { q with word := w, wordNx := none, credit := c, creditAt := t, heldAt := if q.creditAt = t then q.heldAt else none }

/-- A queue at a headway boundary: waiting word and weight (R197, R206). -/
def queueBoundary (t : Nat) (q : QueueSt) : QueueSt :=
  let q := match q.wordNx with
    | some w => setMeterWord t w q
    | none => q
  { q with weight := q.weightNx.getD q.weight, weightNx := none }

/-- Egress settings at a headway boundary. -/
def egressHeadway (s : State) : State :=
  { s with
    egr := { s.egr with queues := s.egr.queues.map (fun e => (e.1, queueBoundary s.time.now e.2)) }
    ports := { s.ports with ports := s.ports.ports.map (fun e => (e.1, preemptBoundary e.2)) } }

def execQueueShaperSet (h : Hdr) (port : Nat) (queue : Nat) (word : BitVec 64) (s : State) :
    Host.Outcome State Fault Refusal :=
  within s (
    .next (qcp { code := 0x0701, world := .nonSecure } h (fun s =>
      if (portOf s port).isNone then badParam (po 0)
      else if queue < 4 ∨ queue ≥ 16 then badParam (po 1)
      else if !meterWordOk word then badParam (po 2)
      else .done (effectFlds s) (updQueue port queue (fun q => { q with wordNx := some word }) s)) s))

/-- CREDIT as its register reads (Table 9-3), bits [63:40] undefined. -/
def creditReg (c : Int) (n : Nat) : Nat := withUndefined (c % 2 ^ 40).toNat (bitsMask 63 40) n

/-- A parameter word as it reads (Table 9-2), bits [63:61] undefined. -/
def wordReg (w : BitVec 64) (n : Nat) : Nat := withUndefined (field w 0 61) (bitsMask 63 61) n

/-- The fields of QUEUE_SHAPER_GET, by draw: the word in force, CREDIT now, and a word that waits with the boundary it waits for. -/
def shaperFlds (s : State) (port queue n : Nat) : List RField :=
  let q := queueOf s port queue
  [fld "WORD" (wordReg q.word n), fld "CREDIT" (creditReg (creditAtCycle q s.time.now) (n + 1)),
      flds "WAITING" (q.wordNx.toList.map (fun w => wordReg w (n + 2)))] ++
    (if q.wordNx.isSome then effectFlds s else [])

def execQueueShaperGet (h : Hdr) (port : Nat) (queue : Nat) (s : State) : Host.Outcome State Fault Refusal :=
  within s (
    .next (qcp { code := 0x0702, reads := true } h (fun s =>
      if (portOf s port).isNone then badParam (po 0)
      else if queue ≥ 16 then badParam (po 1)
      else
        .done (shaperFlds s port queue s.fresh) (draws 3 s)) s))

def execQueueWeightSet (h : Hdr) (port : Nat) (queue : Nat) (weight : Nat) (s : State) :
    Host.Outcome State Fault Refusal :=
  within s (
    .next (qcp { code := 0x0703, world := .nonSecure } h (fun s =>
      if (portOf s port).isNone then badParam (po 0)
      else if queue < 4 ∨ queue ≥ 16 then badParam (po 1)
      else if weight < 16 ∨ weight > 4095 then badParam (po 2)
      else .done (effectFlds s) (updQueue port queue (fun q => { q with weightNx := some weight }) s)) s))

/-! ### Histograms and apogee words (R207-R210) -/

/-- The bin of a sampled value (Table 9-5). -/
def histBin (v : Nat) : Nat := if v = 0 then 0 else min 19 (Nat.log2 v + 1)

/-- One sample for a bin; it joins the bin at the cycle's end (R210). -/
def histAdd (c : Ctr) (p q v : Nat) (s : State) : State :=
  { s with egr := { s.egr with samples := s.egr.samples ++ [(c, p, q * 20 + histBin v)] } }

def sampleQueue (p q : Nat) (s : State) : State :=
  let x := queueOf s p q
  let delay := match (x.items ++ x.side).head?.bind (frameOf s) with
    | some f => hwNow s - f.hw
    | none => 0
  histAdd .histDelay p q delay (histAdd .histPkts p q (x.items.length + x.side.length) (histAdd .histCells p q (x.d + x.s) s))

/-- A sample of a slice is due: the first cycle of a sample period, not yet sampled. -/
def sampleDue (slice : Nat) (s : State) : Bool :=
  hwPos s == 0 && s.time.hwCount % 2 ^ tget s.egr.histN slice 6 == 0 && tget s.egr.histAt slice 0 != s.time.hwCount + 1

/-- Every elastic queue of a slice's ports is sampled. -/
def sampleSlice (slice : Nat) (s : State) : State :=
  ((s.ports.ports.map (fun e => e.1)).filter (fun p => p / 32 == slice)).foldl
    (fun s p => elasticQs.foldl (fun s q => sampleQueue p q s) s)
    { s with egr := { s.egr with histAt := tset s.egr.histAt slice (s.time.hwCount + 1) } }

/-- HIST_SAMPLE: in the first cycle of a sample period every elastic queue of the slice's ports is sampled, once. -/
def execHistSample (slice : Nat) (s : State) : Host.Outcome State Fault Refusal :=
  within s (if slice ≥ 32 ∨ !sampleDue slice s then .next s else .next (sampleSlice slice s))

def execHistConfig (h : Hdr) (slices : W32) (n : Nat) (s : State) : Host.Outcome State Fault Refusal :=
  within s (
    .next (qcp { code := 0x0706, world := .nonSecure } h (fun s =>
      if slices = 0 then badParam (po 0)
      else if n > 16 then badParam (po 1)
      else .done [] { s with egr := { s.egr with
        histN := (slicesOf slices).foldl (fun t k => tset t k n) s.egr.histN } }) s))

def histCtrs : List Ctr := [.histCells, .histPkts, .histDelay]

/-- The bins of a queue's histograms. -/
def histKeys (queue : Nat) : List (Ctr × Nat) :=
  histCtrs.flatMap (fun c => (List.range 20).map (fun b => (c, queue * 20 + b)))

/-- A port's counters cleared. -/
def clearKeys (port : Nat) (keys : List (Ctr × Nat)) (s : State) : State := keys.foldl (fun s e => clearCtr e.1 port e.2 s) s

def execHistRead (h : Hdr) (port : Nat) (queue : Nat) (clear : Bool) (s : State) : Host.Outcome State Fault Refusal :=
  within s (
    .next (qcp { code := 0x0707, reads := true } h (fun s =>
      if (portOf s port).isNone then badParam (po 0)
      else if queue < 4 ∨ queue ≥ 16 then badParam (po 1)
      else
        .done [flds "BINS" ((histKeys queue).map (fun e => ctr s e.1 port e.2))]
          (if clear then clearKeys port (histKeys queue) s else s)) s))

/-- An apogee word as it reads (Table 9-6), by draw, bits [63:56] undefined. -/
def apogeeWord (a : Apogee) (n : Nat) : Nat := withUndefined (a.cells + a.pkts * 2 ^ 16 + a.delay * 2 ^ 32) (bitsMask 63 56) n

/-- The apogee words of a port are cleared; what this cycle observes joins them at its end (R210). -/
def apogeesCleared (port : Nat) (s : State) : State :=
  { s with egr := { s.egr with apogees := s.egr.apogees.filter (fun e => e.1.1 ≠ port) } }

/-- A queue's apogee word takes a depth or a delay in. -/
def apogeeRaise (k : Nat × Nat) (cells pkts delay : Nat) (s : State) : State :=
  let a := tget s.egr.apogees k Apogee.init
  let b : Apogee := ⟨max a.cells (min 65535 cells), max a.pkts (min 65535 pkts), max a.delay (min 0xFFFFFF delay)⟩
  if a = b then s else { s with egr := { s.egr with apogees := tset s.egr.apogees k b } }

/-- A sample is counted in its bin, which stays at its largest value (R208). -/
def binAdd (e : Ctr × Nat × Nat) (s : State) : State := if ctr s e.1 e.2.1 e.2.2 ≥ 2 ^ 48 - 1 then s else bump e.1 e.2.1 e.2.2 s

/-- What a cycle observed joins histograms and apogee words at its end (R207-R210). -/
def observeEnd (s : State) : State :=
  let samples := s.egr.samples
  let delays := s.egr.delays
  let s := { s with egr := { s.egr with samples := [], delays := [] } }
  let s := samples.foldl (fun s e => binAdd e s) s
  let s := delays.foldl (fun s e => apogeeRaise e.1 0 0 e.2 s) s
  s.egr.queues.foldl (fun s e => if e.1.2 < 4 then apogeeRaise e.1 e.2.d e.2.items.length 0 s else s) s

def execApogeeRead (h : Hdr) (port : Nat) (s : State) : Host.Outcome State Fault Refusal :=
  within s (
    .next (qcp { code := 0x0708, reads := true } h (fun s =>
      if (portOf s port).isNone then badParam (po 0)
      else .done [flds "APOGEES"
          ((List.range 4).map (fun q => apogeeWord (tget s.egr.apogees (port, q) Apogee.init) (s.fresh + q)))]
        (draws 4 (apogeesCleared port s))) s))

/-- Counters of Table 9-7 per queue, then per port. -/
def qCtrs : List Ctr := [.txqFrames, .txqOctets, .shaperHeld, .shaperClamp]
def pCtrs : List Ctr := [.preemptions, .txFragments, .rxPreemptFrames, .rxFragErr, .preemptVerifyFail]

def qCtrKeys : List (Ctr × Nat) :=
  (List.range 16).flatMap (fun q => qCtrs.map (fun c => (c, q))) ++ pCtrs.map (fun c => (c, 0))

def execQueueCounters (h : Hdr) (port : Nat) (clear : Bool) (s : State) : Host.Outcome State Fault Refusal :=
  within s (
    .next (qcp { code := 0x0709, reads := true } h (fun s =>
      if (portOf s port).isNone then badParam (po 0)
      else
        .done [flds "COUNTERS" (qCtrKeys.map (fun e => ctr s e.1 port e.2))]
          (if clear then clearKeys port qCtrKeys s else s)) s))

end Sys2Proof.Machine
end

