-- ==== Sys2Proof/Machine/Parser.lean ====
section
/-! DEFINITION. What the parser makes of a frame (R62-R66, R70, R134, R135): the recognised headers of Table 3-2, then the
eight parser words, the hash block (R67, R399) and the class-array key (Table 3-6). -/

namespace Sys2Proof.Machine

/-! ### Recognised headers (Table 3-2) -/

/-- What follows an IP header or a GRE header: nothing more, an Ethernet header or an IP header at an offset. -/
inductive Next where
  | stop
  | eth (off : Nat)
  | ip (v6 : Bool) (off : Nat)
  deriving DecidableEq, Repr

/-- The ones' complement sum of the 16-bit words of a header. -/
def onesSum (w : List Byte) (off n : Nat) : Nat :=
  let t := ((List.range (n / 2)).map (fun i => beAt w (off + 2 * i) 2)).sum
  let t := t % 65536 + t / 65536
  t % 65536 + t / 65536

/-- GRE of version 0: where its inner header begins. -/
def parseGre (w : List Byte) (off : Nat) (p : Parse) : Parse × Next :=
  if off + 4 > w.length then ({ p with trunc := true }, .stop)
  else if beAt w (off + 1) 1 % 8 ≠ 0 then (p, .stop)
  else
    let b := beAt w off 1
    let n := 4 + (if b / 128 % 2 = 1 then 4 else 0) + (if b / 32 % 2 = 1 then 4 else 0) + (if b / 16 % 2 = 1 then 4 else 0)
    if off + n > w.length then ({ p with trunc := true }, .stop)
    else
      let p := { p with tunnel := true }
      match beAt w (off + 2) 2 with
      | 0x0800 => (p, .ip false (off + n))
      | 0x86DD => (p, .ip true (off + n))
      | 0x6558 => (p, .eth (off + n))
      | _ => (p, .stop)

/-- The L4 header of a protocol; a fragment's is not looked at (R66). Under a tunnel only TCP and UDP are recognised, and a VXLAN
header is not (Table 3-2). DESIGN CHOICE (log entry 57): a TCP header is as long as its data offset says, 20 bytes at least, and
the ICMP header is its first 4 bytes. -/
def parseL4 (w : List Byte) (tunnelled : Bool) (off : Nat) (p : Parse) : Parse × Next :=
  if p.frag ∨ (tunnelled ∧ p.proto ≠ 6 ∧ p.proto ≠ 17) then (p, .stop)
  else
    match p.proto with
    | 6 =>
      if off + max 20 (4 * (beAt w (off + 12) 1 / 16)) > w.length then ({ p with trunc := true }, .stop)
      else ({ p with sport := beAt w off 2, dport := beAt w (off + 2) 2, tcp := BitVec.ofNat 8 (beAt w (off + 13) 1) }, .stop)
    | 17 =>
      if off + 8 > w.length then ({ p with trunc := true }, .stop)
      else
        let p := { p with sport := beAt w off 2, dport := beAt w (off + 2) 2 }
        if p.dport ≠ 4789 ∨ tunnelled then (p, .stop)
        else if off + 16 > w.length then ({ p with trunc := true }, .stop)
        else ({ p with tunnel := true, vni := some (beAt w (off + 12) 3) }, .eth (off + 16))
    | 1 | 58 =>
      if off + 4 > w.length then ({ p with trunc := true }, .stop) else ({ p with icmp := beAt w off 2 }, .stop)
    | 47 => parseGre w off p
    | _ => (p, .stop)

/-- An IPv4 header and what it carries. -/
def parseV4 (w : List Byte) (tunnelled : Bool) (off : Nat) (p : Parse) : Parse × Next :=
  let ihl := beAt w off 1 % 16
  if off < w.length ∧ ihl < 5 then ({ p with badIp := true }, .stop)
  else if off + 4 * ihl > w.length ∨ off + 20 > w.length then ({ p with trunc := true }, .stop)
  else
    parseL4 w tunnelled (off + 4 * ihl) { p with
      hasIp := true, v6 := false, csum := p.csum || onesSum w off (4 * ihl) != 0xFFFF
      dscp := beAt w (off + 1) 1 / 4, ttl := beAt w (off + 8) 1, proto := beAt w (off + 9) 1
      frag := beAt w (off + 6) 2 % 0x4000 != 0
      sa := BitVec.ofNat 128 (beAt w (off + 12) 4), da := BitVec.ofNat 128 (beAt w (off + 16) 4) }

def isExtHeader (t : Nat) : Bool := t == 0 || t == 43 || t == 44 || t == 60

/-- IPv6 extension headers, at most `n` more; answers the L4 header's offset. -/
def parseExt (w : List Byte) (off : Nat) (p : Parse) : Nat → Parse × Option Nat
  | 0 => if isExtHeader p.proto then ({ p with limit := true }, none) else (p, some off)
  | n + 1 =>
    if !isExtHeader p.proto then (p, some off)
    else
      let len := if p.proto = 44 then 8 else (beAt w (off + 1) 1 + 1) * 8
      if off + len > w.length then ({ p with trunc := true }, none)
      else parseExt w (off + len) { p with proto := beAt w off 1, frag := p.frag || p.proto == 44 } n

/-- An IPv6 header and what it carries. -/
def parseV6 (w : List Byte) (tunnelled : Bool) (off : Nat) (p : Parse) : Parse × Next :=
  if off + 40 > w.length then ({ p with trunc := true }, .stop)
  else
    let p := { p with
      hasIp := true, v6 := true, dscp := beAt w off 2 / 64 % 64, proto := beAt w (off + 6) 1, ttl := beAt w (off + 7) 1
      sa := BitVec.ofNat 128 (beAt w (off + 8) 16), da := BitVec.ofNat 128 (beAt w (off + 24) 16) }
    match parseExt w (off + 40) p 4 with
    | (p, some o) => parseL4 w tunnelled o p
    | (p, none) => (p, .stop)

/-- An MPLS stack from label `i` on (counted from 0), at most `n` labels more. `ind` says that the label before was the
entropy-label indicator. DESIGN CHOICE (log entry 102): of two entropy labels in one stack the later is kept. -/
def parseMpls (w : List Byte) (off i : Nat) (ind : Bool) (p : Parse) : Nat → Parse × Next
  | 0 => ({ p with limit := true }, .stop)
  | n + 1 =>
    if off + 4 > w.length then ({ p with trunc := true }, .stop)
    else
      let e := beAt w off 4
      let l := e / 4096
      let p := if i = 0 then { p with label := l, tc := e / 512 % 8, hasMpls := true } else p
      let p := { p with lastLbl := l, entropy := if ind then some l else p.entropy }
      if e / 256 % 2 = 0 then parseMpls w (off + 4) (i + 1) (l == 7 && !ind) p n
      else if off + 4 ≥ w.length then (p, .stop)
      else
        match beAt w (off + 4) 1 / 16 with
        | 4 => (p, .ip false (off + 4))
        | 6 => (p, .ip true (off + 4))
        | _ => (p, .stop)

/-- What an EtherType after any tags selects. -/
def afterEther (w : List Byte) (off : Nat) (p : Parse) : Parse × Next :=
  match p.etype with
  | 0x8847 | 0x8848 => parseMpls w off 0 false p 8
  | 0x0800 => (p, .ip false off)
  | 0x86DD => (p, .ip true off)
  | _ => (p, .stop)

/-- A tag of a kind, `n` allowed in all: the fields of the first, the EtherType after the last. -/
def parseTags (w : List Byte) (off i : Nat) (p : Parse) : Nat → Parse × Next
  | 0 => if p.etype = 0x8100 then ({ p with limit := true }, .stop) else afterEther w off p
  | n + 1 =>
    if p.etype ≠ 0x8100 ∧ !(i == 0 && p.etype == 0x88A8) then afterEther w off p
    else if off + 4 > w.length then ({ p with trunc := true }, .stop)
    else
      let tci := beAt w off 2
      let p := if i = 0 then { p with vid := tci % 4096, pcp := tci / 8192 } else p
      parseTags w (off + 4) (i + 1) { p with etype := beAt w (off + 2) 2 } n

/-- The inner Ethernet header of a tunnel: at most one tag. -/
def innerEth (w : List Byte) (off : Nat) (p : Parse) : Parse × Next :=
  if off + 14 > w.length then ({ p with trunc := true }, .stop)
  else
    let pick (t o : Nat) : Next :=
      if t = 0x0800 then .ip false o else if t = 0x86DD then .ip true o else .stop
    let t := beAt w (off + 12) 2
    if t = 0x8100 ∨ t = 0x88A8 then
      if off + 18 > w.length then ({ p with trunc := true }, .stop)
      else
        let t := beAt w (off + 16) 2
        if t = 0x8100 ∨ t = 0x88A8 then ({ p with limit := true }, .stop) else (p, pick t (off + 18))
    else (p, pick t (off + 14))

def parseIp (w : List Byte) (tunnelled v6 : Bool) (off : Nat) (p : Parse) : Parse × Next :=
  if v6 then parseV6 w tunnelled off p else parseV4 w tunnelled off p

/-- The inner IP header (R70): parsed for its flags always, and its fields taken under INNER. DESIGN CHOICE (log entry 101): the
bits IPV6 and FRAG of FLAGS and KIND, the TCP flags and the ICMP type and code follow the header whose addresses are taken. -/
def parseInner (w : List Byte) (inner v6 : Bool) (off : Nat) (p : Parse) : Parse :=
  let (q, _) := parseIp w true v6 off { Parse.init with csum := p.csum }
  let p := { p with trunc := p.trunc || q.trunc, limit := p.limit || q.limit, badIp := p.badIp || q.badIp, csum := q.csum }
  if inner && q.hasIp then
    { p with inner := true, v6 := q.v6, frag := q.frag, sa := q.sa, da := q.da, proto := q.proto
             sport := q.sport, dport := q.dport, tcp := q.tcp, icmp := q.icmp }
  else p

/-- The recogniser on a parse window. -/
def recognise (w : List Byte) (inner : Bool) : Parse :=
  if w.length < 14 then { Parse.init with trunc := true }
  else
    let p := { Parse.init with
      dmac := BitVec.ofNat 48 (beAt w 0 6), smac := BitVec.ofNat 48 (beAt w 6 6), etype := beAt w 12 2 }
    match parseTags w 14 0 p 2 with
    | (p, .ip v6 off) =>
      match parseIp w false v6 off p with
      | (p, .ip u off) => parseInner w inner u off p
      | (p, .eth off) =>
        match innerEth w off p with
        | (p, .ip u off) => parseInner w inner u off p
        | (p, _) => p
      | (p, .stop) => p
    | (p, _) => p

/-! ### The parse result (Table 3-3, R399) -/

/-- The L2-only column is used. -/
def l2Only (p : Parse) : Bool := !p.hasIp && !p.hasMpls

/-- FLAGS. -/
def flagsOf (p : Parse) : BitVec 8 :=
  BitVec.ofNat 8 (p.v6.toNat + 2 * p.frag.toNat + 4 * p.trunc.toNat + 8 * p.limit.toNat + 16 * p.badIp.toNat +
    32 * p.csum.toNat + 64 * p.tunnel.toNat + 128 * (p.l2.getD (l2Only p)).toNat)

/-- FLAGS written whole. -/
def setFlags (v : BitVec 8) (p : Parse) : Parse :=
  { p with v6 := v.getLsbD 0, frag := v.getLsbD 1, trunc := v.getLsbD 2, limit := v.getLsbD 3, badIp := v.getLsbD 4
           csum := v.getLsbD 5, tunnel := v.getLsbD 6, l2 := some (v.getLsbD 7) }

/-- KIND of the hash block. -/
def kindOf (p : Parse) : Nat :=
  p.v6.toNat + 2 * p.frag.toNat + 4 * (!p.hasIp && p.hasMpls).toNat + 8 * (l2Only p).toNat + 16 * p.inner.toNat

/-- The hash input block of a frame (Table 3-4). -/
def blockOf (p : Parse) : List Byte :=
  if p.hasIp then hashBlock p.sa.toNat p.da.toNat p.sport p.dport p.proto (kindOf p)
  else if p.hasMpls then
    beBytes 16 (p.entropy.getD p.lastLbl) ++ beBytes 16 0 ++ [0, 0, 0, 0, 0] ++ beBytes 1 (kindOf p) ++ [0, 0]
  else
    beBytes 16 (min p.smac.toNat p.dmac.toNat) ++ beBytes 16 (max p.smac.toNat p.dmac.toNat) ++ beBytes 2 p.etype ++
      [0, 0, 0] ++ beBytes 1 (kindOf p) ++ [0, 0]

/-- The class-array key (Table 3-6). -/
def classKey (port : Nat) (p : Parse) : BitVec 384 :=
  BitVec.ofNat 384 (port % 1024 + (flagsOf p).toNat * 2 ^ 10 + p.vid * 2 ^ 18 + p.pcp * 2 ^ 30 + p.dscp * 2 ^ 33 +
    p.label * 2 ^ 39 + p.hasMpls.toNat * 2 ^ 59 + p.proto * 2 ^ 60 + p.sport * 2 ^ 68 + p.dport * 2 ^ 84 +
    p.sa.toNat * 2 ^ 100 + p.da.toNat * 2 ^ 228 + p.tc * 2 ^ 356)

/-! ### Parser words (Table 6-2) -/

/-- Sets the field of an extractor destination: 1–12 the fields of Table 3-3 after PORT, 13–15 S0–S2. -/
def setField (d v : Nat) (p : Parse) : Parse :=
  match d with
  | 1 => { p with vid := v % 2 ^ 12 }
  | 2 => { p with pcp := v % 2 ^ 3 }
  | 3 => { p with label := v % 2 ^ 20 }
  | 4 => { p with tc := v % 2 ^ 3 }
  | 5 => { p with entropy := some (v % 2 ^ 20) }
  | 6 => { p with sa := BitVec.ofNat 128 v }
  | 7 => { p with da := BitVec.ofNat 128 v }
  | 8 => { p with proto := v % 2 ^ 8 }
  | 9 => { p with dscp := v % 2 ^ 6 }
  | 10 => { p with sport := v % 2 ^ 16 }
  | 11 => { p with dport := v % 2 ^ 16 }
  | 12 => setFlags (BitVec.ofNat 8 v) p
  | 13 => { p with s0 := v % 2 ^ 32 }
  | 14 => { p with s1 := v % 2 ^ 32 }
  | 15 => { p with s2 := v % 2 ^ 32 }
  | _ => p

/-- A field of a parse result by its number 0–15: PORT, then as `setField`. -/
def getField (port d : Nat) (p : Parse) : Nat :=
  match d with
  | 0 => port
  | 1 => p.vid
  | 2 => p.pcp
  | 3 => p.label
  | 4 => p.tc
  | 5 => p.entropy.getD 0
  | 6 => p.sa.toNat
  | 7 => p.da.toNat
  | 8 => p.proto
  | 9 => p.dscp
  | 10 => p.sport
  | 11 => p.dport
  | 12 => (flagsOf p).toNat
  | 13 => p.s0
  | 14 => p.s1
  | _ => p.s2

/-- A parser word of an image; a word the image does not list is all zero. -/
def parserWordOf (img : Option UcodeImage) (n : Nat) : BitVec 256 :=
  match img with
  | some i => tget i.pwords n 0
  | none => 0

/-- A compare at the cursor. -/
def compareAt (w : List Byte) (cur : Nat) (word : BitVec 256) (lo : Nat) : Bool :=
  let v := beAt w (cur + field word lo 8) 2
  Nat.land (Nat.xor v (field word (lo + 8) 16)) (field word (lo + 24) 16) == 0

/-- The condition of NSEL. -/
def nselCond (sel : Nat) (c0 c1 atEnd : Bool) : Bool :=
  match sel with
  | 1 => c0
  | 2 => c1
  | 3 => c0 && c1
  | 4 => c0 || c1
  | 5 => atEnd
  | _ => false

/-- One parser word: cursor, parse result and next word after it. -/
def parserWord (w : List Byte) (word : BitVec 256) (cur : Nat) (p : Parse) : Nat × Parse × Nat :=
  let cond := nselCond (field word 24 3) (compareAt w cur word 27) (compareAt w cur word 67) (decide (cur ≥ w.length))
  let p := (List.range 4).foldl (fun (p : Parse) i =>
    let lo := 107 + 16 * i
    setField (field word (lo + 12) 4) (beAt w (cur + field word lo 8) (field word (lo + 8) 4 + 1)) p) p
  let p := if cond ∧ field word 171 8 ≠ 0 then setFlags (flagsOf p ||| BitVec.ofNat 8 (field word 171 8)) p else p
  let b := beAt w (cur + field word 187 8) 1
  let var := match field word 199 4 with
    | 1 => b % 16
    | 2 => b / 16
    | 3 => b
    | _ => 0
  let p := if field word 217 1 = 1 then { p with entry := field word 203 14 } else p
  (cur + field word 179 8 + var * 2 ^ field word 195 4, p, if cond then field word 12 12 else field word 0 12)

/-- The eight words (R134); a word in error is noted (R142, R156). -/
def parserRun (w : List Byte) (img : Option UcodeImage) (bad : List Nat) : Nat → Nat → Nat → Parse → Parse
  | 0, _, _, p => p
  | n + 1, pc, cur, p =>
    let (cur', p', pc') := parserWord w (parserWordOf img pc) cur p
    parserRun w img bad n pc' cur' { p' with ecc := p'.ecc || bad.contains pc }

/-- A fragment's L4 fields are zero in every key and in the hash, whatever a parser word extracted (R66). -/
def fragZero (p : Parse) : Parse := if p.frag then { p with sport := 0, dport := 0, tcp := 0, icmp := 0 } else p

/-- The parse result of a frame's window; what the scratch fields hold before a word writes them is free (log entry 96). -/
def parseWindow (fid : Nat) (w : List Byte) (inner : Bool) (img : Option UcodeImage) (bad : List Nat) : Parse :=
  let x (i : Nat) : Nat := (Config.scratch fid i).toNat
  let p := { recognise w inner with s0 := x 0, s1 := x 1, s2 := x 2 }
  match img with
  | none => p
  | some _ => fragZero (parserRun w img bad 8 0 0 p)

end Sys2Proof.Machine
end

