-- ==== Sys2Proof/Machine/Front.lean ====
section
/-! DEFINITION. The front end (chapter 3): FRAME_RECEIVE with its parse, the cycles in which a frame is hashed, classified, metered
and granted a header slot (Table 3-1), and the front end's commands. A frame's reference edge is the cycle in which it is
received. -/

namespace Sys2Proof.Machine

/-! ### Class array and meters (R72, R74-R76) -/

/-- The entry a frame matches: the lowest physical index. -/
def classMatch (s : State) (k : Nat) (key : BitVec 384) : Option ClassRow :=
  (s.tt.classes.foldl (fun (b : Option (Nat × ClassRow)) e =>
    if e.1.1 == k && ((e.2.value ^^^ key) &&& e.2.mask) == 0 && (match b with
        | none => true
        | some (i, _) => decide (e.1.2 < i)) then some (e.1.2, e.2) else b) none).map (fun x => x.2)

def imSlope (w : BitVec 64) : Nat := field w 0 27
def imMaxSize (w : BitVec 64) : Nat := field w 39 14
def imByte (w : BitVec 64) : Bool := w.getLsbD 53

/-- A meter's cap in CREDIT's units: 1/65,536 packet, or 1/64 byte. -/
def imCap (w : BitVec 64) : Nat := field w 27 12 * (if imByte w then 4096 else 65536)

/-- OVERHEAD, a two's complement field of 7 bits. -/
def imOverhead (w : BitVec 64) : Int :=
  let v : Int := field w 54 7
  if v < 64 then v else v - 128

/-- A frame's charge. -/
def imCharge (w : BitVec 64) (len : Nat) : Nat :=
  if imByte w then (max 1 ((len : Int) + imOverhead w)).toNat * 64 else 65536

/-- A meter refilled for counted headway `h`, once. -/
def refill (h : Nat) (m : MeterSt) : MeterSt :=
  if m.upto ≥ h then m else { m with credit := min (m.credit + imSlope m.param) (imCap m.param), upto := h }

/-- METER_REFILL: every meter at the start of a headway (R75). -/
def meterHeadway (s : State) : State :=
  { s with tt := { s.tt with meters := s.tt.meters.map (fun e => (e.1, refill s.time.hwCount e.2)) } }

/-- The counted headway whose refill a frame sees that is metered now: the one in which its cycle 26 lies (R75). -/
def meterHw (s : State) : Nat := s.time.hwCount

/-- METER_CHARGE (R76): whether the meter accepts a frame, and the meter after it. -/
def meterTake (s : State) (len : Nat) (m : MeterSt) : Bool × MeterSt :=
  let m := refill (meterHw s) m
  if len > imMaxSize m.param then (false, m)
  else
    let c := imCharge m.param len
    if m.credit ≥ c then (true, { m with credit := m.credit - c }) else (false, m)

/-- The aggregate record in force. -/
def aggOf (s : State) (a : Nat) : Option QAgg := s.tt.aggs.find? (fun q => q.agg == a)
def isShed (s : State) (a : Nat) : Bool := s.tt.shed.any (fun e => e.agg == a)

/-- The offset stamped now (R26). -/
def offsetOf (s : State) (a : QAgg) : Nat := if s.clock.alignValid && a.crossHop then a.kA else a.kL

/-- CLASS_SEARCH: cycle 25 computes the hash and searches the class array (Table 3-1). -/
def classStage (s : State) (f : Frame) : Frame :=
  { f with hash := hash32 (saltOf s) (blockOf f.pr)
           entryHit := (classMatch s (f.port / 32) (classKey f.port f.pr)).map (fun r => (r.agg, r.meter)) }

/-- Admission in cycle 26 (R21, R31, R76): the frame with its class, queue and deadline, or none where it is refused. -/
def admission (f : Frame) (s : State) : Option Frame × State :=
  match f.entryHit with
  | none => (some f, s)
  | some (n, meter) =>
    match aggOf s n with
    | none => (some f, s)
    | some a =>
      let f := { f with agg := some a.agg }
      if isShed s a.agg then (some { f with queue := a.equeue }, s)
      else
        let key := (f.port / 32, meter)
        let (ok, m) := meterTake s f.len (tget s.tt.meters key ⟨0, 0, 0⟩)
        let s := { s with tt := { s.tt with meters := tset s.tt.meters key m } }
        if ok then
          (some { f with cls := some a.cls, queue := a.cls, deadline := some (f.hw + offsetOf s a) },
            bump .accepted a.agg 0 s)
        else if a.ncAction = 1 then (none, bump .refusedNc a.agg 0 s)
        else (some { f with demoted := true, queue := a.equeue }, bump .demoted a.agg 0 s)

/-! ### Leaving early -/

/-- A frame is dropped at or before its decision; its landing cell is free (R181). -/
def dropUndecided (f : Frame) (s : State) : State :=
  dropFrame f.fid (updBuf (f.port / 32) (fun b => { b with landing := b.landing - 1 }) (endTail f s))

/-- A frame in its cycle 26: admitted, or refused and gone. -/
def admitOne (f : Frame) (s : State) : State :=
  match admission f s with
  | (some g, s) => setFrame g s
  | (none, s) => dropUndecided f s

/-! ### Header slots (R77, R78) -/

/-- The order in which a cycle's slots are granted: accepted guaranteed frames, then those in the last cycle of their window,
then port, then arrival. -/
def slotBefore (a b : Frame) : Bool :=
  let g (f : Frame) : Nat := if f.deadline.isSome then 0 else 1
  decide (g a < g b ∨ (g a = g b ∧ (a.ref < b.ref ∨ (a.ref = b.ref ∧ (a.port < b.port ∨ (a.port = b.port ∧ a.fid ≤ b.fid))))))

/-- A frame left without a slot. -/
def slotDrop (f : Frame) (s : State) : State :=
  let s := pmcCount (f.port / 32) 0x002 f.port 1 (bump .headerSlotDrop f.port 0 s)
  let s := match f.deadline, f.agg with
    | some _, some a => raise (32 * (f.port / 32) + 4) (bump .guarSlotMiss a 0 s)
    | _, _ => s
  dropUndecided f s

/-- The frames of a slice whose slot window covers this cycle and that hold no slot yet, in the order of R77. -/
def slotQueue (s : State) (k : Nat) : List Frame :=
  sortBy slotBefore (s.frames.filter (fun f => f.port / 32 == k && f.stage == .front && f.slot.isNone &&
    (f.ref + 27 == s.time.now || f.ref + 28 == s.time.now)))

/-- HEADER_SLOT_GRANT: the four slots of this cycle; a frame whose window ends without one is dropped. -/
def grantSlots (k : Nat) (s : State) : State :=
  let q := slotQueue s k
  let win := q.take 4
  let lost := (q.drop 4).filter (fun f => f.ref + 28 == s.time.now)
  let s := win.zipIdx.foldl (fun (s : State) f => setFrame { f.1 with slot := some s.time.now, slotIx := f.2 } s) s
  let s := pmcCount k 0x001 0 win.length s
  lost.foldl (fun (s : State) f => slotDrop f s) s

/-- The frames in a cycle of Table 3-1 now, by ingress port and then arrival (R76). -/
def frontAt (s : State) (c : Nat) : List Frame :=
  sortBy (fun a b => decide (a.port < b.port ∨ (a.port = b.port ∧ a.fid ≤ b.fid)))
    (s.frames.filter (fun f => f.stage == .front && f.ref + c == s.time.now))

/-- What the front end does in a cycle (Table 3-1). -/
def frontCycle (s : State) : State :=
  if s.frames.isEmpty then s
  else
    let s := (frontAt s 25).foldl (fun (s : State) f => setFrame (classStage s f) s) s
    let s := (frontAt s 26).foldl (fun (s : State) f => admitOne f s) s
    allSlices.foldl (fun (s : State) k => if (slotQueue s k).isEmpty then s else grantSlots k s) s

/-! ### FRAME_RECEIVE -/

/-- The bin of a run of errored symbols: 1, 2, 3–4, 5–8, 9–16, 17–32, 33 or more (R56). -/
def burstBin (n : Nat) : Nat :=
  if n ≤ 1 then 0 else if n ≤ 2 then 1 else if n ≤ 4 then 2 else if n ≤ 8 then 3 else if n ≤ 16 then 4
  else if n ≤ 32 then 5 else 6

/-- What the FEC met with the frame (R56). -/
def countFec (f : RxFrame) (s : State) : State :=
  let s := f.symRuns.foldl (fun (s : State) r =>
    let l := laneOf s r.1
    bumpLife .burstHist r.1 (burstBin r.2) 1 (bumpLife .symErrors r.1 0 r.2 (setLane r.1 { l with errs := l.errs + r.2 } s))) s
  f.codewords.foldl (fun (s : State) c => bumpLife .codewordHist f.port (min 16 c) 1 s) s

/-- Whether the fragments of a preemptable frame fail reassembly (R200): one that IEEE 802.3br does not accept as the frame's
continuation, or fragments that do not make up the frame (log entry 113). -/
def fragErr (f : RxFrame) : Bool :=
  f.preemptable && !f.frags.isEmpty && (f.frags.any (fun g => !g.ok) || decide ((f.frags.map (fun g => g.len)).sum ≠ f.len))

/-- The receive counters of Table 2-5 and RX_FRAG_ERR. -/
def countRx (f : RxFrame) (ps : PortSt) (s : State) : State :=
  let c (b : Bool) (x : Ctr) (s : State) : State := if b then bump x f.port 0 s else s
  c (fragErr f) .rxFragErr (c f.preemptable .rxPreemptFrames (c f.fecErr .rxFecErr (c (decide (f.len > ps.maxLen)) .rxOversize
    (c (decide (f.len < 64)) .rxUndersize (c f.fcsErr .rxFcsErr
      (bumpBy .rxOctets f.port 0 f.len (bump .rxFrames f.port 0 s)))))))

/-- The EtherType after any tags. -/
def etherOf (bs : List Byte) : Nat := beAt bs (etherOff bs) 2

/-- The parse window (R62, R252). -/
def windowOf (ps : PortSt) (bs : List Byte) : List Byte :=
  bs.take (if ps.opWidth = 1 ∧ ps.pol.rxValidate ≠ .disabled then 240 else 256)

/-- The parse counters of a frame (R65). -/
def countParse (port : Nat) (p : Parse) (s : State) : State :=
  let c (b : Bool) (x : Ctr) (s : State) : State := if b then bump x port 0 s else s
  let b (i : Nat) : Bool := (flagsOf p).getLsbD i
  c (b 5) .ipv4CsumErr (c (b 4) .ipMalformed (c (b 3) .parseLimit (c (b 2) .parseTrunc s)))

/-- A frame whose reference edge is now: its parse, with the bank active at the start of its headway (R155), and what the later
cycles take of its arrival: headway, orbit, current version (R81). -/
def frontEnd (f : RxFrame) (ps : PortSt) (s : State) : State :=
  let eapol := etherOf f.bytes == 0x888E
  let (fail, s) := rxHeaderCheck f.port ps.pol eapol f.secTag s
  let u := ucOf s (f.port / 32)
  let pr := parseWindow s.nextFid (windowOf ps f.bytes) ps.inner u.pAct u.pBad
  let s := countParse f.port pr s
  let g : Frame := { Frame.init s.nextFid f.port f.len f.bytes with
    ref := s.time.now, hw := hwNow s, orbit := s.time.orbit, preempt := f.preemptable
    frags := f.frags.map (fun g => (g.gap, g.len))
    bad := f.fcsErr || f.fecErr || f.truncated || fragErr f || decide (f.len > ps.maxLen)
    macBad := fail && ps.pol.rxValidate == .strict, icv := f.icvOk, an := if eapol then none else f.secTag
    rxTs := (s.time.tc + f.bitOff * 5120 : Nat) - (rxTotal ps.opWidth : Nat)
    pr := pr, win := (windowOf ps f.bytes).length, version := s.ver.current, eapol := eapol }
  updBuf (f.port / 32) (fun b => { b with landing := b.landing + 1 })
    { s with nextFid := s.nextFid + 1, frames := s.frames ++ [g] }

/-- A frame of EtherType 0x88B5 on the bound port leaves the forwarding path (R285). -/
def inbandFrame (s : State) (port : Nat) (bs : List Byte) : Bool :=
  match s.qcp.inband with
  | some b => b.port == port && etherOf bs == 0x88B5
  | none => false

/-- Whether frames that arrive are forwarded now (R39, Table 17-1). -/
def admitting (s : State) : Bool := ingressOpen s && s.tt.active.isSome

/-- FRAME_RECEIVE. -/
def execFrameReceive (f : RxFrame) (s : State) : Host.Outcome State Fault Refusal :=
  within s (
    match portOf s f.port with
    | none => .next s
    | some ps =>
      if !ps.link then .next s
      else
        let s := countFec f (countRx f ps s)
        if !admitting s then
          let s := bump .modeDiscard f.port 0 s
          .next (if s.mode.mode = .drain then bump .drainModeDiscard 0 0 s else s)
        else if f.len < 64 then .next s
        else if inbandFrame s f.port f.bytes then
          .next (rxTailCheck f.port ps.pol f.secTag f.icvOk (rxHeaderCheck f.port ps.pol false f.secTag s).2).2
        else .next (frontEnd f ps s))

/-! ### Commands (Table 3-10) -/

def execPortParseSet (h : Hdr) (port : Nat) (inner : Bool) (s : State) : Host.Outcome State Fault Refusal :=
  within s (
    .next (qcp { code := 0x020C, world := .nonSecure } h (fun s =>
      match portOf s port with
      | none => badParam (po 0)
      | some ps => .done [] (setPort port { ps with innerNx := some inner } s)) s))

/-- Waiting INNER settings at a headway boundary (R85). -/
def parseHeadway (s : State) : State :=
  { s with ports := { s.ports with ports := s.ports.ports.map (fun e =>
      (e.1, { e.2 with inner := e.2.innerNx.getD e.2.inner, innerNx := none })) } }

def parseCtrs : List Ctr := [.parseTrunc, .parseLimit, .ipMalformed, .ipv4CsumErr]

def execParseCounters (h : Hdr) (port : Nat) (clear : Bool) (s : State) : Host.Outcome State Fault Refusal :=
  within s (
    .next (qcp { code := 0x0B10, reads := true } h (fun s =>
      if (portOf s port).isNone then badParam (po 0)
      else .done [flds "COUNTERS" (parseCtrs.map (fun c => ctr s c port 0))]
        (if clear then parseCtrs.foldl (fun s c => clearCtr c port 0 s) s else s)) s))

def execHashSaltSet (h : Hdr) (salt : W64) (s : State) : Host.Outcome State Fault Refusal :=
  within s (
    .next (qcp { code := 0x0905, world := .secure, modeOk := s.mode.mode == .boot && !s.tt.committed } h
      (fun s => .done [] { s with world := { s.world with salt := some salt } }) s))

def execHashProbe (h : Hdr) (block : List Byte) (s : State) : Host.Outcome State Fault Refusal :=
  within s (
    .next (qcp { code := 0x0906, world := .secure } h (fun s =>
      if block.length ≠ 40 then badParam (po 0)
      else .done [⟨"HASH", 4, [(hash32 (saltOf s) block).toNat]⟩] s) s))

end Sys2Proof.Machine
end

