-- ==== Sys2Proof/Machine/Tables.lean ====
section
/-! DEFINITION. The forwarding-table commands (Table 6-12) and the multicast group commands (Table 7-4). -/

namespace Sys2Proof.Machine

/-- Entries of each forwarding table (Table 6-7). -/
def tableSize : Arr → Nat
  | .action => 262144
  | .nextHop => 131072
  | .ecmp => 16384
  | .lag => 256
  | _ => 0

/-- The index of a new entry: the one named, or for 0xFFFF_FFFF the lowest free in every slice named. -/
def tableIndex (s : State) (ks : List Nat) (a : Arr) (idx : Nat) : Option Nat :=
  if idx = 0xFFFFFFFF then
    (List.range (tableSize a)).find? (fun i => ks.all (fun k => (shadowRow s k a i).free))
  else some idx

/-- An add to a forwarding table: its refusals in the table's order, then one entry written on every slice named. -/
def tableAdd (v : Nat) (ks : List Nat) (a : Arr) (idx ixParam : Nat) (b : Body) (bad : Option Out) (room : State → Bool)
    (res : Nat → List RField) (s : State) : Out :=
  if !isOpen s v then .refuse .notFound none
  else if ks.isEmpty then badParam (po 1)
  else if idx ≠ 0xFFFFFFFF ∧ idx ≥ tableSize a then badParam (po ixParam)
  else
    match bad with
    | some o => o
    | none =>
      match tableIndex s ks a idx with
      | none => .refuse .tableFull none
      | some i =>
        if !ks.all (fun k => (shadowRow s k a i).free) then .refuse .exists_ (some (.entry i))
        else if !room s then .refuse .tableFull none
        else
          let plan := ks.map (fun k => (k, placeSteps a i b (planeBit v)))
          if !stepsFit s plan then .refuse .busy none
          else withTablets .rv (sliceDoms ks) s (.done (res i) (queueSteps plan s))

/-- A removal (R409): the entry's plane bit for v is cleared on every slice named. -/
def tableRemove (v : Nat) (ks : List Nat) (a : Arr) (idx ixParam : Nat) (s : State) : Out :=
  if !isOpen s v then .refuse .notFound none
  else if ks.isEmpty then badParam (po 1)
  else if idx ≥ tableSize a then badParam (po ixParam)
  else if ks.any (fun k => !(shadowRow s k a idx).inV v) then .refuse .notFound none
  else
    let plan : List (Nat × List Step) := ks.map (fun k => (k, [⟨a, idx, .planeClear (v % 4)⟩]))
    if !stepsFit s plan then .refuse .busy none
    else withTablets .rv (sliceDoms ks) s (.done [] (queueSteps plan s))

def execActionAdd (h : Hdr) (v : Nat) (slices : W32) (idx : Nat) (data : BitVec 48) (s : State) :
    Host.Outcome State Fault Refusal :=
  within s (
    .next (qcp { code := 0x040F, world := .nonSecure } h
      (tableAdd v (slicesOf slices) .action idx 2 (.action data) none (fun _ => true) (fun i => [fld "INDEX" i])) s))

def execActionRemove (h : Hdr) (v : Nat) (slices : W32) (idx : Nat) (s : State) : Host.Outcome State Fault Refusal :=
  within s (.next (qcp { code := 0x0410, world := .nonSecure } h (tableRemove v (slicesOf slices) .action idx 2) s))

/-- A next-hop entry's own refusal: a dark port or an absent LAG. -/
def nextHopBad (s : State) (v : Nat) (ks : List Nat) (nh : NextHop) : Option Out :=
  if nh.isLag then
    if ks.all (fun k => (shadowRow s k .lag nh.target).inV v) then none else some (badParam (po 3))
  else if (portOf s nh.target).isSome then none else some (badParam (po 3))

def execNexthopAdd (h : Hdr) (v : Nat) (slices : W32) (idx : Nat) (nh : NextHop) (s : State) :
    Host.Outcome State Fault Refusal :=
  within s (
    .next (qcp { code := 0x0411, world := .nonSecure } h (fun s =>
      tableAdd v (slicesOf slices) .nextHop idx 2 (.nextHop nh) (nextHopBad s v (slicesOf slices) nh) (fun _ => true)
        (fun i => [fld "INDEX" i]) s) s))

def execNexthopRemove (h : Hdr) (v : Nat) (slices : W32) (idx : Nat) (s : State) : Host.Outcome State Fault Refusal :=
  within s (.next (qcp { code := 0x0412, world := .nonSecure } h (tableRemove v (slicesOf slices) .nextHop idx 2) s))

/-- Members of a slice's ECMP groups in use, of its 262,144-entry member table. -/
def ecmpUsed (s : State) (k : Nat) : Nat :=
  ((rowsOf s.arr.shadow k .ecmp).map (fun e => if e.2.free then 0 else match e.2.body with
    | .ecmp ms => ms.length
    | _ => 0)).sum

def execEcmpAdd (h : Hdr) (v : Nat) (slices : W32) (group : Nat) (members : List Nat) (s : State) :
    Host.Outcome State Fault Refusal :=
  within s (
    .next (qcp { code := 0x0413, world := .nonSecure } h
      (tableAdd v (slicesOf slices) .ecmp group 2 (.ecmp members)
        (if members.isEmpty ∨ members.length > 256 then some (badParam (po 3)) else none)
        (fun s => (slicesOf slices).all (fun k => ecmpUsed s k + members.length ≤ 262144))
        (fun i => [fld "GROUP" i])) s))

def execEcmpRemove (h : Hdr) (v : Nat) (slices : W32) (group : Nat) (s : State) : Host.Outcome State Fault Refusal :=
  within s (.next (qcp { code := 0x0414, world := .nonSecure } h (tableRemove v (slicesOf slices) .ecmp group 2) s))

def execLagAdd (h : Hdr) (v : Nat) (lag : Nat) (ports : List Nat) (s : State) : Host.Outcome State Fault Refusal :=
  within s (
    .next (qcp { code := 0x0415, world := .nonSecure } h (fun s =>
      if isOpen s v && lag ≥ 256 then badParam (po 1)
      else tableAdd v allSlices .lag lag 1 (.lag ports)
        (if ports.isEmpty ∨ ports.length > 64 ∨ ports.any (fun p => (portOf s p).isNone) then some (badParam (po 2)) else none)
        (fun _ => true) (fun _ => []) s) s))

def execLagRemove (h : Hdr) (v : Nat) (lag : Nat) (s : State) : Host.Outcome State Fault Refusal :=
  within s (.next (qcp { code := 0x0416, world := .nonSecure } h (tableRemove v allSlices .lag lag 1) s))

/-- The exception causes that are counted. -/
def excCauses : List Nat := (List.range 15).map (fun c => c + 1)

/-- A slice's exception counters cleared. -/
def excClear (slice : Nat) (s : State) : State :=
  clearCtr .ucodeCorrected slice 0 (clearCtr .trapDiscard slice 0 (excCauses.foldl (fun s c => clearCtr .exc slice c s) s))

def execExcCounters (h : Hdr) (slice : Nat) (clear : Bool) (s : State) : Host.Outcome State Fault Refusal :=
  within s (
    .next (qcp { code := 0x0417, reads := true } h (fun s =>
      if slice ≥ 32 then badParam (po 0)
      else
        .done [flds "EXC" (excCauses.map (fun c => ctr s .exc slice c)),
            fld "TRAP_DISCARD" (ctr s .trapDiscard slice 0), fld "UCODE_CORRECTED" (ctr s .ucodeCorrected slice 0)]
          (if clear then excClear slice s else s)) s))

/-! ### Multicast groups (R171). A group has four rows, one for each plane its versions may use (log entry 9). -/

/-- The row of a group present in a version, in a slice's table. -/
def mcastRow (t : Tab (Nat × Arr × Nat) Row) (k v group : Nat) : Option (Nat × Row) :=
  ((List.range 4).map (fun j => (4 * group + j, tget t (k, Arr.mcast, 4 * group + j) Row.init))).find?
    (fun e => e.2.inV v)

/-- A free row for a group in every slice. -/
def mcastFree (s : State) (group : Nat) : Option Nat :=
  ((List.range 4).map (fun j => 4 * group + j)).find? (fun r => allSlices.all (fun k => (shadowRow s k .mcast r).free))

/-- Replication-list entries in use on a slice. -/
def mcastUsed (s : State) (k : Nat) : Nat :=
  ((rowsOf s.arr.shadow k .mcast).map (fun e => if e.2.free then 0 else match e.2.body with
    | .mcast _ l _ => l.length
    | _ => 0)).sum

/-- The lowest list index no group entry in use names. -/
def mcastIndex (s : State) : Nat :=
  let used := (rowsOf s.arr.shadow 0 .mcast).filterMap (fun e => if e.2.free then none else match e.2.body with
    | .mcast _ _ i => some i
    | _ => none)
  ((List.range (used.length + 1)).find? (fun i => !used.contains i)).getD 0

/-- The destinations of `dests` on slice `k`. -/
def destsOn (dests : List (Nat × Nat)) (k : Nat) : List (Nat × Nat) := dests.filter (fun d => d.1 / 32 == k)

/-- The steps that write a multicast group on every slice: the mask of the slices with a destination, and each slice's list (Table
6-12). -/
def mcastPlan (v r : Nat) (dests : List (Nat × Nat)) (i : Nat) : List (Nat × List Step) :=
  let mask := BitVec.ofNat 32 ((allSlices.map (fun k => if (destsOn dests k).isEmpty then 0 else 2 ^ k)).sum)
  allSlices.map (fun k => (k, placeSteps .mcast r (.mcast mask (destsOn dests k) i) (planeBit v)))

def execMcastAdd (h : Hdr) (v : Nat) (group : Nat) (dests : List (Nat × Nat)) (s : State) :
    Host.Outcome State Fault Refusal :=
  within s (
    .next (qcp { code := 0x0418, world := .nonSecure } h (fun s =>
      if !isOpen s v then .refuse .notFound none
      else if group ≥ 65536 then badParam (po 1)
      else if dests.length > 1024 ∨ dests.any (fun d => (portOf s d.1).isNone) then badParam (po 2)
      else
        match mcastRow s.arr.shadow 0 v group with
        | some _ => .refuse .exists_ (some (.entry group))
        | none =>
          match mcastFree s group with
          | none => .refuse .tableFull none
          | some r =>
            if allSlices.any (fun k => mcastUsed s k + (destsOn dests k).length > 262144) then .refuse .tableFull none
            else
              if !stepsFit s (mcastPlan v r dests (mcastIndex s)) then .refuse .busy none
              else withTablets .rv (sliceDoms allSlices) s (.done [fld "LIST" (mcastIndex s)]
                (queueSteps (mcastPlan v r dests (mcastIndex s)) s))) s))

def execMcastRemove (h : Hdr) (v : Nat) (group : Nat) (s : State) : Host.Outcome State Fault Refusal :=
  within s (
    .next (qcp { code := 0x0419, world := .nonSecure } h (fun s =>
      if !isOpen s v then .refuse .notFound none
      else
        match mcastRow s.arr.shadow 0 v group with
        | none => .refuse .notFound none
        | some (r, _) =>
          let plan : List (Nat × List Step) := allSlices.map (fun k => (k, [⟨.mcast, r, .planeClear (v % 4)⟩]))
          if !stepsFit s plan then .refuse .busy none
          else withTablets .rv (sliceDoms allSlices) s (.done [] (queueSteps plan s))) s))

end Sys2Proof.Machine
end

