-- ==== Sys2Proof/Machine/Fabric.lean ====
section
/-! DEFINITION. The fabric (chapter 7): placement of reservations, virtual output queues, injection and release of cells,
multicast copies. -/

namespace Sys2Proof.Machine

/-! ### Placement (R166) -/

/-- Places `n` cells of a pair. -/
def placePair (lost : List Nat) (i j : Nat) : Nat → List Resv → Option (List Resv)
  | 0, rs => some rs
  | n + 1, rs =>
    match (List.range 96).find? (fun c => !lost.contains c && !rs.any (fun r => r.c == c && (r.i == i || r.j == j))) with
    | none => none
    | some c => placePair lost i j n (rs ++ [⟨i, j, c⟩])

/-- The counts of one block in the placement's order: ingress ascending, then egress from the ingress on, wrapping. -/
def blockCounts (r : Reserve) (x k : Nat) : List ResvCount :=
  sortBy (fun a b => decide (a.i * 32 + (a.j + 32 - a.i) % 32 ≤ b.i * 32 + (b.j + 32 - b.i) % 32))
    (r.counts.filter (fun c => c.x == x && c.k == k && decide (c.n > 0)))

/-- Places one block. -/
def placeBlock (lost : List Nat) (cs : List ResvCount) : Option (List Resv) :=
  cs.foldl (fun o c => o.bind (placePair lost c.i c.j c.n)) (some [])

/-- Places every block of the pattern: block k of pattern headway x at 8x + k. -/
def placeAll (lost : List Nat) (r : Reserve) : Option (List (List Resv)) :=
  (List.range (8 * r.p)).foldl (fun o n => o.bind (fun l =>
    (placeBlock lost (blockCounts r (n / 8) (n % 8))).map (fun b => l ++ [b]))) (some [])

/-- The sub-boxes of halted slices. -/
def lostBoxes (ks : List Nat) : List Nat := ks.flatMap (fun m => [3 * m, 3 * m + 1, 3 * m + 2])

/-- The reserved sub-boxes of a block of a pattern. -/
def resvIn (placed : List (List Resv)) (period headway block : Nat) : List Resv :=
  if block < 8 then placed.getD (headway % period * 8 + block) [] else []

/-- The block in which a cycle of the present headway lies. -/
def blockNow (s : State) : Nat := hwPos s / 32

/-- Whether a pair has a reserved slot in some block of the pattern in force (R407). -/
def hasResv (s : State) (i j : Nat) : Bool := s.tt.placed.any (fun b => b.any (fun r => r.i == i && r.j == j))

/-! ### Virtual output queues (R163-R165) -/

/-- The cells of a guaranteed frame, its head first. -/
def guarCells (s : State) (f : Frame) : List VCell :=
  let n := cellsOf f.len
  (List.range n).map (fun i =>
    let last := i + 1 == n
    let data := if last then tailCycle s f else dataCycle s f (192 + 256 * i)
    let at_ := if i = 0 ∧ !last then s.time.now else max s.time.now data
    ⟨f.fid, i, i == 0, last, at_, at_, 0⟩)

/-- The cells of an elastic train, its head last. -/
def trainCells (s : State) (f : Frame) (left : BitVec 32) : List VCell :=
  let n := cellsOf f.len
  let body := (List.range (n - 1)).map (fun i =>
    let at_ := max (s.time.now + 1) (dataCycle s f (min f.len (192 + 256 * (i + 1))))
    (⟨f.fid, i + 1, false, false, at_, at_, left⟩ : VCell))
  let at_ := max (s.time.now + 1) (tailCycle s f)
  body ++ [⟨f.fid, 0, true, true, at_, at_, left⟩]

/-- Cells of a queue that have entered it. -/
def entered (s : State) (q : List VCell) : List VCell := q.filter (fun c => decide (c.ready ≤ s.time.now))

/-- Whether an earlier elastic frame of the same ingress port has cells still to inject (R165). -/
def portBlocked (s : State) (fid : Nat) : Bool :=
  match frameOf s fid with
  | none => false
  | some f => s.frames.any (fun g => g.port == f.port && g.stage == .voq && decide (g.queue ≥ 4) &&
      (decide (g.dcycle < f.dcycle) || (g.dcycle == f.dcycle && decide (g.fid < f.fid))))

/-- A cell that a slot may take in a cycle: complete, its frame's turn on its port, and its tail status known if it is the
last. -/
def cellOpen (s : State) (at_ : Nat) (guar : Bool) (c : VCell) : Bool :=
  decide (c.ready ≤ at_) && (guar || !portBlocked s c.fid) &&
    (!c.last || ((frameOf s c.fid).map (fun f => f.tailKnown)).getD true)

/-- The open cells of a queue in the order in which they entered. -/
def openCells (s : State) (at_ : Nat) (guar : Bool) (q : List VCell) : List VCell :=
  sortBy (fun a b => decide (a.ready ≤ b.ready)) (q.filter (cellOpen s at_ guar))

def voqG (s : State) (i j : Nat) : List VCell := tget s.fab.voqG (i, j) []
def voqE (s : State) (i j : Nat) : List VCell := tget s.fab.voqE (i, j) []
def voqM (s : State) (i : Nat) : List VCell := tget s.fab.voqM i []

/-- A guaranteed frame's cells enter the queue of its pair. -/
def enqueueGuar (f : Frame) (j : Nat) (s : State) : State :=
  let i := f.port / 32
  let n := cellsOf f.len
  let s := putFrame { f with stage := .voq, stag := n } s
  let s := updBuf i (fun b => { b with stagG := b.stagG + n }) s
  { s with fab := { s.fab with voqG := tset s.fab.voqG (i, j) (voqG s i j ++ guarCells s f) } }

/-- Staging cells an elastic frame is charged (R181). -/
def stagingFor (s : State) (f : Frame) : Nat := cellsOf (if f.tailKnown then f.len else portMax s f.port)

/-- An elastic frame's train enters the queue of its pair. -/
def enqueueTrain (f : Frame) (j : Nat) (s : State) : State :=
  let i := f.port / 32
  let n := stagingFor s f
  let s := updBuf i (fun b => { b with stagE := b.stagE + n }) (putFrame { f with stage := .voq, stag := n } s)
  { s with fab := { s.fab with voqE := tset s.fab.voqE (i, j) (voqE s i j ++ trainCells s f 0) } }

/-- An elastic multicast frame's train enters the multicast queue for the slices of a mask. -/
def enqueueMcast (f : Frame) (left : BitVec 32) (s : State) : State :=
  let i := f.port / 32
  let n := stagingFor s f
  let s := updBuf i (fun b => { b with stagE := b.stagE + n }) (putFrame { f with stage := .voq, stag := n } s)
  { s with fab := { s.fab with voqM := tset s.fab.voqM i (voqM s i ++ trainCells s f left) } }

/-- The depth of every elastic virtual output queue in this cycle, in cells (R177). -/
def voqDepths (s : State) : State :=
  let s := s.fab.voqE.foldl (fun (s : State) e => maxCtr .voqDepthMax e.1.1 0 (entered s e.2).length s) s
  s.fab.voqM.foldl (fun (s : State) e => maxCtr .voqDepthMax e.1 0 (entered s e.2).length s) s

/-- One of a frame's cells leaves staging. -/
def leaveStaging (guar : Bool) (fid : Nat) (s : State) : State :=
  match frameOf s fid with
  | none => s
  | some f =>
    if f.stag = 0 then s
    else updBuf (f.port / 32) (fun b => if guar then { b with stagG := b.stagG - 1 } else { b with stagE := b.stagE - 1 })
      (setFrame { f with stag := f.stag - 1 } s)

/-- A frame whose last cell has been injected no longer waits at its ingress: what staging it still holds is free. -/
def endStaging (fid : Nat) (s : State) : State :=
  let s := freeStaging fid s
  match frameOf s fid with
  | none => s
  | some f => if f.stage = .voq then setFrame { f with stage := .fabric } s else s

/-! ### Injection (R157, R164, R165, R172, R175) -/

/-- The payload bytes a cell of a frame of `len` bytes uses, less 1: the head carries the 64-byte descriptor and 192 bytes of the
frame, a body cell 256 (R160). -/
def cellFill (len seq : Nat) : Nat := if seq = 0 then 63 + min 192 len else min 256 (len - (192 + 256 * (seq - 1))) - 1

/-- Puts a cell on its way. -/
def launch (i lane m : Nat) (guar mc : Bool) (c : VCell) (dests : List Nat) (s : State) : State :=
  let f := frameOf s c.fid
  let bad := (f.map (fun f => f.bad)).getD false
  let inPort := (f.map (fun f => f.port)).getD 0
  let fill := (f.map (fun f => cellFill f.len c.seq)).getD 0
  let cells := dests.map (fun j =>
    (⟨c.fid, c.seq, c.head, c.last, guar, bad && c.last, i, j, s.time.now, lane, m, mc, inPort, fill⟩ : Cell))
  bump .cellsInjected i 0 { s with fab := { s.fab with transit := s.fab.transit ++ cells } }

/-- A reserved slot of a pair. -/
def injectResv (i lane m j : Nat) (s : State) : State :=
  match openCells s s.time.now true (voqG s i j) with
  | [] => pmcCount 32 0x102 i 1 (bump .resvIdle i 0 s)
  | c :: _ =>
    let s := launch i lane m true false c [j] s
    let s := { s with fab := { s.fab with voqG := tset s.fab.voqG (i, j) ((voqG s i j).erase c) } }
    if c.last then endStaging c.fid s else leaveStaging true c.fid s

/-- A slot granted to a pair. -/
def injectGrant (i lane m j : Nat) (s : State) : State :=
  match openCells s s.time.now false (voqE s i j) with
  | [] => bump .grantIdle i 0 s
  | c :: _ =>
    let s := launch i lane m false false c [j] s
    let s := { s with fab := { s.fab with voqE := tset s.fab.voqE (i, j) ((voqE s i j).erase c) } }
    if c.last then endStaging c.fid s else leaveStaging false c.fid s

/-- The slices of a list that a remaining set still names. -/
def wanted (left : BitVec 32) (dests : List Nat) : List Nat := dests.filter (fun j => left.getLsbD j)

def clearBits (m : BitVec 32) (js : List Nat) : BitVec 32 :=
  js.foldl (fun m j => m &&& ~~~(BitVec.ofNat 32 (2 ^ j))) m

/-- A slot granted for multicast: one copy to the intermediate for every granted slice the cell still needs. -/
def injectMcast (i lane m : Nat) (dests : List Nat) (s : State) : State :=
  match (openCells s s.time.now false (voqM s i)).find? (fun c => !(wanted c.left dests).isEmpty) with
  | none => bump .grantIdle i 0 s
  | some c =>
    let js := wanted c.left dests
    let s := launch i lane m false true c js s
    let left := clearBits c.left js
    if left ≠ 0 then
      { s with fab := { s.fab with voqM := tset s.fab.voqM i ((voqM s i).map (fun x =>
        if x = c then { c with left := left } else x)) } }
    else
      let s := { s with fab := { s.fab with voqM := tset s.fab.voqM i ((voqM s i).erase c) } }
      if c.last then endStaging c.fid s else leaveStaging false c.fid s

/-- The middle slice an ingress faces now (R157). -/
def middleNow (slice : Nat) (s : State) : Nat := (slice + hwPos s % 32) % 32

/-- A slice's injection for the next cycle on a lane is used. -/
def injUsed (slice lane : Nat) (s : State) : State :=
  { s with fab := { s.fab with injAt := tset s.fab.injAt (slice, lane) (s.time.now + 1) } }

/-- The reserved slot of this block, ingress and column, if any. -/
def resvNow (slice lane : Nat) (s : State) : Option Resv :=
  (resvIn s.tt.placed s.tt.period s.time.headway (blockNow s)).find?
    (fun r => r.i == slice && r.c == 3 * middleNow slice s + lane)

/-- What an injection port sends towards its middle slice: the cell of its reserved slot, or of the block's grant. -/
def injectTurn (slice lane : Nat) (s : State) : State :=
  match resvNow slice lane s with
  | some r => injectResv slice lane (middleNow slice s) r.j s
  | none =>
    match s.fab.grants.find? (fun g => g.i == slice && g.c == 3 * middleNow slice s + lane) with
    | none => s
    | some g =>
      if g.mcast then injectMcast slice lane (middleNow slice s) g.dests s
      else g.dests.foldl (fun s j => injectGrant slice lane (middleNow slice s) j s) s

/-- The slot of an ingress slice on a lane in this cycle, where it has not been used. -/
def injectSlot (slice lane : Nat) (s : State) : State :=
  if sliceHalted s slice ∨ tget s.fab.injAt (slice, lane) 0 = s.time.now + 1 then s
  else if sliceHalted s (middleNow slice s) then injUsed slice lane s
  else injectTurn slice lane (injUsed slice lane s)

/-- The tag of a cell (Table 7-2), by draw, bits [63:46] undefined. -/
def cellTag (c : Cell) (n : Nat) : Nat :=
  withUndefined (c.src + c.inPort * 2 ^ 5 + c.dst * 2 ^ 15 + c.mcast.toNat * 2 ^ 20 + c.guar.toNat * 2 ^ 21 + c.head.toNat * 2 ^ 22 +
    c.last.toNat * 2 ^ 23 + c.bad.toNat * 2 ^ 24 + c.inj % 128 * 2 ^ 25 + c.fill * 2 ^ 32 + c.seq % 64 * 2 ^ 40) (bitsMask 63 46) n

/-- The frame bytes a cell carries (R160); the head's stand behind the frame descriptor. -/
def cellData (f : Frame) (c : Cell) : List Byte :=
  if c.seq = 0 then f.bytes.take 192 else (f.bytes.drop (192 + 256 * (c.seq - 1))).take 256

/-! ### Release (R161, R162, R165, R171) -/

/-- Makes one copy of a frame for a port and releases it. -/
def copyTo (f : Frame) (port vid : Nat) (s : State) : State :=
  let g := { f with fid := s.nextFid, egress := port, vid := vid, mcast := none, orig := some f.fid, stag := 0, charged := 0,
                    store := storeFirst s f.port port f.preempt }
  let n := cellsOf (if f.tailKnown then f.len else portMax s f.port)
  release g (if g.queue < 4 then cellsOf f.len else n) { s with nextFid := s.nextFid + 1 }

/-- The replication list of a frame on a slice, read with its stamp. -/
def copyList (s : State) (k : Nat) (f : Frame) : List (Nat × Nat) :=
  match f.mcast with
  | none => []
  | some (_, g) =>
    match mcastRow s.arr.live k f.version g with
    | some (_, ⟨_, _, .mcast _ l _⟩) => l
    | _ => []

/-- Copies a frame to every port of its list on a slice. -/
def makeCopies (k : Nat) (f : Frame) (s : State) : State := (copyList s k f).foldl (fun s d => copyTo f d.1 d.2 s) s

/-- A multicast frame's head has been released, or dropped, at a slice (R83). -/
def servedAt (fid k : Nat) (s : State) : State :=
  match frameOf s fid with
  | some f =>
    match f.mcast with
    | some (m, g) => setFrame { f with mcast := some (clearBits m [k], g) } s
    | none => s
  | none => s

/-- A multicast frame that has no slice left to serve, and whose tail is known, is gone. -/
def doneAt (fid k : Nat) (s : State) : State :=
  let s := servedAt fid k s
  match frameOf s fid with
  | some f =>
    match f.mcast with
    | some (m, _) => if m = 0 ∧ f.tailKnown then dropFrame fid (freeStaging fid s) else s
    | none => s
  | none => s

/-- The frames at the egress that a released frame stands for: itself, or its copies on a slice. -/
def atEgress (s : State) (fid k : Nat) : List Frame :=
  s.frames.filter (fun f => (f.fid == fid || f.orig == some fid) && f.egress / 32 == k &&
    (f.stage == .released || f.stage == .queued || f.stage == .siding || f.stage == .wire || f.stage == .held))

def isBroken (s : State) (fid k : Nat) : Bool := s.fab.broken.contains (fid, k)
def unbreak (fid k : Nat) (s : State) : State :=
  { s with fab := { s.fab with broken := s.fab.broken.filter (· ≠ (fid, k)) } }

/-- A frame that has no place left at a slice: removed, or one slice of a multicast frame done. -/
def discardAt (f : Frame) (k : Nat) (s : State) : State :=
  if f.mcast.isSome then doneAt f.fid k s else loseFrame f s

/-- What has no place at an egress any more leaves it: a copy goes, the frame itself stays until its last cell has come. -/
def withdraw (g : Frame) (fid : Nat) (s : State) : State :=
  if g.fid = fid then setFrame { g with stage := .fabric, charged := 0 } (takeOut g s) else loseFrame g (takeOut g s)

/-- A frame on the wire is ended after the bytes of its cells that came (R150, R164), with the inverted CRC. -/
def cutShort (g : Frame) (s : State) : State :=
  let s := markCopy g.fid g.egress s
  match (portOf s g.egress).bind (fun ps => ps.wire) with
  | some w =>
    let n := min w.bytes (cellEnd g (g.got - 1))
    if w.fid ≠ g.fid then s
    else
      let s := updPort g.egress (fun x => { x with wire := some { w with bytes := n }, wireFree := w.start + 8 * n + 160 }) s
      { s with egr := { s.egr with sent := updSent g.fid (fun r => { r with len := n }) s.egr.sent } }
  | none => s

/-- A frame of which a cell is lost: tail-marked where it has begun to leave, else discarded (R149, R150, R162). -/
def spoil (g : Frame) (k fid : Nat) (s : State) : State :=
  match g.stage with
  | .wire => withdraw g fid (cutShort g s)
  | .held => withdraw g fid (markCopy g.fid g.egress s)
  | _ => bump .fabricFrameDiscard k 0 (withdraw g fid s)

/-- Notes that a frame misses a cell at a slice. -/
def breakAt (fid k : Nat) (s : State) : State :=
  { s with fab := { s.fab with broken := insertNew (fid, k) s.fab.broken } }

/-- A frame's last cell has come, or is lost, at a slice: what is no longer at the egress is done with there. -/
def lastCell (fid k : Nat) (s : State) : State :=
  let s := unbreak fid k s
  match frameOf s fid with
  | some f => if f.mcast.isSome || (atEgress s fid k).isEmpty then discardAt f k s else s
  | none => s

/-- A cell of a frame is lost at an egress slice (R162). -/
def loseCell (c : Cell) (s : State) : State :=
  let k := c.dst
  let s := raise (32 * k + 11) (bump .fabricCellLost k 0 s)
  match frameOf s c.fid with
  | none => if c.last then unbreak c.fid k (dropTrain c.fid k s) else s
  | some f =>
    if !c.guar then
      if c.head then bump .fabricFrameDiscard k 0 (discardAt f k (unbreak c.fid k (dropTrain c.fid k s))) else breakAt c.fid k s
    else
      let s := (atEgress s c.fid k).foldl (fun (s : State) g => spoil g k c.fid s) s
      let s := if c.head then bump .fabricFrameDiscard k 0 (servedAt c.fid k s) else s
      if c.last then lastCell c.fid k s else breakAt c.fid k s

/-- A cell that has reached its egress slice is one of its train's there. -/
def joinTrain (k : Nat) (fid : Nat) (s : State) : State :=
  updBuf k (fun b => { b with poolE := b.poolE + 1 })
    { s with fab := { s.fab with trains := tset s.fab.trains (fid, k) (tget s.fab.trains (fid, k) 0 + 1) } }

/-- The release of an elastic train's head (R165, R183). -/
def releaseHead (c : Cell) (f : Frame) (s : State) : State :=
  let k := c.dst
  if c.bad then discardAt f k (unbreak c.fid k (dropTrain c.fid k s))
  else if isBroken s c.fid k then bump .fabricFrameDiscard k 0 (discardAt f k (unbreak c.fid k (dropTrain c.fid k s)))
  else
    let f := { f with zcycle := some s.time.now, tcycle := some s.time.now, tailKnown := true }
    if f.mcast.isNone then release f (cellsOf f.len) s
    else if (copyList s k f).isEmpty then doneAt f.fid k (dropTrain c.fid k s)
    else doneAt f.fid k (makeCopies k f s)

/-- Whether a frame on the wire needs a cell that has not been released by the end of this cycle: a cell's bytes reach the MAC at the
earliest 24 cycles after its release, as a head's do (R146, R164; log entry 118). -/
def underrun (s : State) (g : Frame) : Bool :=
  g.stage == .wire && decide (0 < g.got) && decide (cellEnd g (g.got - 1) < g.len) &&
    match (portOf s g.egress).bind (fun ps => ps.wire) with
    | some w => w.fid == g.fid && !w.marked && decide (w.prior = 0) &&
        decide (w.start + 8 * cellEnd g (g.got - 1) < (s.time.now + 25) * bitsPerCycle (opWidth s g.egress))
    | none => false

/-- FABRIC_UNDERRUN (R164): the egress ends the frame as R150 states. -/
def endUnderrun (g : Frame) (s : State) : State :=
  let k := g.egress / 32
  let fid := g.orig.getD g.fid
  raise (32 * k + 11) (bump .fabricUnderrun k 0 (breakAt fid k (withdraw g fid (cutShort g s))))

/-- Every frame whose next cell is too late in this cycle. -/
def underruns (s : State) : State := (s.frames.filter (underrun s)).foldl (fun s g => endUnderrun g s) s

/-- The release of a cell of a guaranteed frame. -/
def releaseGuar (c : Cell) (f : Frame) (s : State) : State :=
  let k := c.dst
  if isBroken s c.fid k then (if c.last then lastCell c.fid k s else s)
  else if c.head then
    if c.last ∧ c.bad then discardAt f k s
    else
      let g := { f with zcycle := some s.time.now, tcycle := if c.last then some s.time.now else none, got := 1 }
      if f.mcast.isSome then
        let s := makeCopies k g s
        if c.last then doneAt f.fid k s else servedAt f.fid k s
      else release g (cellsOf f.len) s
  else
    let s := (atEgress s c.fid k).foldl (fun (s : State) g => setFrame { g with got := g.got + 1 } s) s
    if c.last then
      let s := (atEgress s c.fid k).foldl (fun (s : State) g => egressTail g c.bad s) s
      match frameOf s f.fid with
      | some f => if f.mcast.isSome || f.stage == .fabric then lastCell f.fid k s else s
      | none => s
    else s

/-- The next cell due at an egress slice: injected 96 cycles ago, in lane order (R161). -/
def nextRelease (s : State) (k : Nat) : Option Cell :=
  (sortBy (fun (a b : Cell) => decide (a.lane ≤ b.lane))
    (s.fab.transit.filter (fun c => c.dst == k && decide (c.inj + 96 = s.time.now)))).head?

/-- A cell leaves the middle stage for its egress slice. -/
def leftTransit (c : Cell) (s : State) : State :=
  { s with fab := { s.fab with transit := s.fab.transit.erase c } }

/-- A sound cell is released at its egress slice. -/
def cellArrives (slice : Nat) (c : Cell) (s : State) : State :=
  match frameOf s c.fid with
  | none => if c.last then unbreak c.fid slice (dropTrain c.fid slice s) else s
  | some f =>
    if c.guar then releaseGuar c f s
    else if c.head then releaseHead c f (joinTrain slice c.fid s)
    else joinTrain slice c.fid s

/-- CELL_RELEASE: a cell leaves the resequencer of an egress slice 96 cycles after its injection, or is lost by a hardware
fault. -/
def execCellRelease (slice : Nat) (fault : Option CellFault) (s : State) : Host.Outcome State Fault Refusal :=
  within s (
    match nextRelease s slice with
    | none => .next s
    | some c =>
      match fault with
      | some .crc => .next (loseCell c (bump .fabricCellErr slice 0 (leftTransit c s)))
      | some .late => .next (loseCell c (bump .fabricLateCell slice 0 (leftTransit c s)))
      | none => .next (cellArrives slice c (bump .cellsReleased slice 0 (leftTransit c s))))

/-- Every cell that an egress slice has still to release in this cycle. -/
def releasesLeft (slice : Nat) : Nat → State → State
  | 0, s => s
  | n + 1, s =>
    match nextRelease s slice with
    | none => s
    | some c => releasesLeft slice n (cellArrives slice c (bump .cellsReleased slice 0 (leftTransit c s)))

/-! ### Guaranteed frames without a slot (R407) -/

/-- Takes a frame's cells out of every virtual output queue. -/
def dropCells (fid : Nat) (s : State) : State :=
  let keep (q : List VCell) : List VCell := q.filter (fun c => c.fid ≠ fid)
  { s with fab := { s.fab with
    voqG := s.fab.voqG.map (fun e => (e.1, keep e.2)), voqE := s.fab.voqE.map (fun e => (e.1, keep e.2))
    voqM := s.fab.voqM.map (fun e => (e.1, keep e.2)) } }

/-- Removes a frame that waits at its ingress, with its cells and staging; what of it has reached an egress goes too. -/
def dropWaiting (f : Frame) (s : State) : State :=
  let s := allSlices.foldl (fun (s : State) k =>
    (atEgress s f.fid k).foldl (fun (s : State) g => spoil g k f.fid s) (dropTrain f.fid k s)) s
  dropFrame f.fid (dropCells f.fid (freeStaging f.fid s))

/-- GUAR_NO_RESV_DROP. -/
def noResvDrop (f : Frame) (s : State) : State :=
  raise (32 * (f.port / 32) + 5) (bump .guarNoResvDrop (f.agg.getD 0) 0 (dropWaiting f (endTail f s)))

/-- At an orbit boundary that brings a new map: frames still in a guaranteed queue whose pair has no slot. -/
def noResvCheck (s : State) : State :=
  s.fab.voqG.foldl (fun (s : State) e =>
    if e.2.isEmpty || hasResv s e.1.1 e.1.2 then s
    else (s.frames.filter (fun f => e.2.any (fun c => c.fid == f.fid))).foldl (fun (s : State) f => noResvDrop f s) s) s

/-! ### A slice halts (R175) -/

/-- Whether cells of a frame still wait in a virtual output queue. -/
def hasCells (s : State) (fid : Nat) : Bool :=
  let mine (q : List VCell) : Bool := q.any (fun c => c.fid == fid)
  s.fab.voqG.any (fun e => mine e.2) || s.fab.voqE.any (fun e => mine e.2) || s.fab.voqM.any (fun e => mine e.2)

/-- A multicast frame of whose cells none waits any more has left its ingress. -/
def voqDone (fid : Nat) (s : State) : State := if hasCells s fid then s else endStaging fid s

/-- A frame of a slice that halts, and a frame or copy on its way to it. -/
def haltFrame (k : Nat) (s : State) (f : Frame) : State :=
  if f.port / 32 == k && f.ptp.isNone && !f.unctrl then
    if f.stage == .front || hasCells s f.fid then dropWaiting f (endTail f s) else s
  else
    match f.mcast with
    | some (m, _) =>
      if !m.getLsbD k then s
      else if f.queue < 4 then dropWaiting f (bump .mcastCopyDrop k 0 s)
      else
        let s := doneAt f.fid k (bump .mcastCopyDrop k 0 s)
        voqDone f.fid s
    | none =>
      if f.egress / 32 == k && hasCells s f.fid then dropWaiting f (endTail f (bump .fabricFrameDiscard k 0 s)) else s

/-- The cycle in which a cell leaves its intermediate (Table 7-1). -/
def leftMiddle (c : Cell) : Nat := arrivalOf c - 8

/-- The fabric's part of a halt: cells in transit through the slice are lost, copies for it are discarded (R175). -/
def fabricHalt (k : Nat) (s : State) : State :=
  let touches (c : Cell) : Bool := c.dst == k || (c.via == k && decide (s.time.now < leftMiddle c))
  let gone := s.fab.transit.filter touches
  let s := { s with fab := { s.fab with
    halted := insertNew k s.fab.halted, transit := s.fab.transit.filter (fun c => !touches c) } }
  let s := gone.foldl (fun (s : State) c => loseCell c s) s
  let mq := s.fab.voqM.map (fun (e : Nat × List VCell) =>
    (e.1, (e.2.map (fun c => { c with left := clearBits c.left [k] })).filter (fun c => c.left != 0)))
  let s := { s with fab := { s.fab with voqM := mq } }
  s.frames.foldl (haltFrame k) s

/-! ### Commands (Table 7-4) -/

/-- The counters of Table 7-3. -/
def fabCtrs : List Ctr :=
  [.cellsInjected, .cellsReleased, .resvIdle, .grantIdle, .fabricCellErr, .fabricLateCell, .fabricCellLost,
   .fabricUnderrun, .fabricFrameDiscard, .mcastCopyDrop]

/-- The fields FABRIC_COUNTERS returns (Table 7-4). -/
def fabricFlds (s : State) (slice : Nat) : List RField :=
  [flds "COUNTERS" (fabCtrs.map (fun c => ctr s c slice 0)), fld "VOQ_DEPTH_MAX" (ctr s .voqDepthMax slice 0)]

/-- The fabric counters of a slice cleared. -/
def fabricClear (slice : Nat) (s : State) : State := fabCtrs.foldl (fun s c => clearCtr c slice 0 s) s

def execFabricCounters (h : Hdr) (slice : Nat) (clear : Bool) (s : State) : Host.Outcome State Fault Refusal :=
  within s (
    .next (qcp { code := 0x0B11, reads := true } h (fun s =>
      if slice ≥ 32 then badParam (po 0)
      else
        .done (fabricFlds s slice)
          (if clear then fabricClear slice (clearCtr .voqDepthMax slice 0 s) else clearCtr .voqDepthMax slice 0 s)) s))

/-- The fields FABRIC_STATUS returns of a slice and a block of the active timetable (Table 7-4). -/
def statusFlds (s : State) (slice block : Nat) : List RField :=
  let rs := s.tt.placed.getD block []
  [⟨"INGRESS", 1, (rs.filter (fun r => r.i == slice)).flatMap (fun r => [r.c, r.j])⟩,
    ⟨"EGRESS", 1, (rs.filter (fun r => r.j == slice)).flatMap (fun r => [r.c, r.i])⟩,
    fld "PLACED" s.tt.nPlaced, flds "HALTED" s.fab.halted]

def execFabricStatus (h : Hdr) (slice : Nat) (block : Nat) (s : State) : Host.Outcome State Fault Refusal :=
  within s (
    .next (qcp { code := 0x0B12, reads := true } h (fun s =>
      if slice ≥ 32 then badParam (po 0)
      else if s.tt.active.isNone then .refuse .notFound none
      else if block ≥ 8 * s.tt.period then badParam (po 1)
      else .done (statusFlds s slice block) s) s))

end Sys2Proof.Machine
end

