-- ==== Sys2Proof/Machine/Rings.lean ====
section
/-! DEFINITION. Ring arithmetic (R267, R268, R384) and the notification rings (R145, R235, R283). -/

namespace Sys2Proof.Machine

/-- A ring's size in slots or entries. -/
def ringSize (g : RingSt) : Nat := 2 ^ g.log2

/-- (PROD − CONS) mod size. -/
def ringHeld (g : RingSt) : Nat := (g.prod + ringSize g - g.cons % ringSize g) % ringSize g

/-- Slots a producer may still write; none while ENABLE is clear (R279, R283). -/
def ringRoom (g : RingSt) : Nat := if g.enable then ringSize g - 1 - ringHeld g else 0

/-- The producer index moved on by `n`, with the laps it completes. -/
def advanceProd (n : Nat) (g : RingSt) : RingSt :=
  { g with prod := (g.prod + n) % ringSize g, lap := g.lap + (g.prod + n) / ringSize g }

/-- The consumer index moved on by `n`. -/
def advanceCons (n : Nat) (g : RingSt) : RingSt := { g with cons := (g.cons + n) % ringSize g }

/-- A time record as its 16 bytes stand in host memory (Table 11-3), bits [111:106] undefined. -/
def timeImage (r : TimeRec) : List Byte :=
  leNum 16 (withUndefined (tcOfInt r.rxTs + r.port * 2 ^ 96 + r.code * 2 ^ 112) (bitsMask 111 106) r.pad)

/-- Writes a trap copy, with its time record where it has one, or counts what lacked room (R235, R283). While PERST# is low
the entries are discarded and counted (R366). -/
def writeTrap (c : TrapCopy) (time : Option TimeRec) (s : State) : State :=
  if s.mmc.perst then bumpBy .pcieResetDiscard 0 0 (if time.isSome then 2 else 1) s
  else
  let trapOk := ringRoom (ringOf s .nonSecure .trap) ≥ 5
  let timeOk := time.isNone || ringRoom (ringOf s .nonSecure .time) ≥ 1
  if !trapOk then bump .trapRingDrop 0 0 (if timeOk then s else bump .timeRingDrop 0 0 s)
  else if !timeOk then bump .timeRingDrop 0 0 s
  else
    let s := raise 1474 (updRing .nonSecure .trap (advanceProd 5) { s with qcp := { s.qcp with traps := s.qcp.traps ++ [c] } })
    match time with
    | none => s
    | some r =>
      raise 1475 (updRing .nonSecure .time (advanceProd 1) { s with qcp := { s.qcp with times := s.qcp.times ++ [r] } })

/-- TRAP_COPY (R145): at most 2 copies per slice and headway. -/
def trapCopy (f : Frame) (cause code : Nat) (s : State) : State :=
  let k := f.port / 32
  if tget s.trapHw k 0 ≥ 2 then bump .trapDiscard k 0 s
  else
    let (pad, s) := draw { s with trapHw := tset s.trapHw k (tget s.trapHw k 0 + 1) }
    let c : TrapCopy := ⟨cause, code, f.port, k, f.version, s.time.orbit, s.time.headway, f.bytes.take f.win, pad⟩
    if code / 4096 = 15 then writeTrap c (some ⟨f.rxTs, f.port, code, s.fresh⟩) (drawn s) else writeTrap c none s

end Sys2Proof.Machine
end

