-- ==== Sys2Proof/Machine/Action.lean ====
section
/-! DEFINITION. The action pipeline's words (R136-R139, Tables 6-3 to 6-6) and the flow lookup's issue (R116-R118). -/

namespace Sys2Proof.Machine

/-! ### Banks -/

/-- The action image a frame runs: the one active at the start of its arrival headway (R155). -/
def actionImage (s : State) (f : Frame) : Option UcodeImage :=
  let u := ucOf s (f.port / 32)
  if u.aOld.isSome ∧ f.hw < u.aOldHw then u.aOld else u.aAct

/-- The words in error of the bank a frame runs (R156). -/
def actionErrors (s : State) (f : Frame) : List Nat :=
  let u := ucOf s (f.port / 32)
  if u.aOld.isSome ∧ f.hw < u.aOldHw then u.aOldBad else u.aBad

/-- An action word of an image; a word the image does not list is all zero. -/
def actionWordOf (img : Option UcodeImage) (n : Nat) : BitVec 512 :=
  match img with
  | some i => tget i.awords n 0
  | none => 0

/-- The template's edit operations, and the change of length they make. -/
def editOps (img : Option UcodeImage) (n : Nat) : List EditOp :=
  match img with
  | some i => tget i.edits n []
  | none => []
def opDelta : EditOp → Int
  | .tagPush _ => 4
  | .tagPop => -4
  | .labelPush _ => 4
  | .labelPop => -4
  | .labelSwap _ | .macRewrite | .ttlDec | .addrRewrite => 0
def editDelta (ops : List EditOp) : Int := (ops.map opDelta).sum

/-! ### Operands and predicates (Table 6-5) -/

/-- The source of a header compares above its destination (ORIENT, Table 5-3). -/
def saHigh (p : Parse) : Bool := if p.hasIp then decide (p.sa.toNat > p.da.toNat) else decide (p.smac.toNat > p.dmac.toNat)

def w32 (n : Nat) : W32 := BitVec.ofNat 32 n

/-- A rule result as an operand: its reserved bits read undefined (Table 4-8). -/
def resultOperand (f : Frame) (sel : Nat) (r : BitVec 32 × Nat) : W32 :=
  (r.1 &&& 0x3FFFFFFF) ||| (Config.missOperand sel f.fid &&& 0xC0000000)

/-- A 32-bit operand at a stage 1–7; a lookup's field without a hit, or before its stage, is a free value. -/
def operand (s : State) (f : Frame) (stage sel imm : Nat) : W32 :=
  let a := f.act
  let miss := Config.missOperand sel f.fid
  let from_ (n : Nat) (o : Option W32) : W32 := if stage ≥ n then o.getD miss else miss
  let hit (g : FlowRec → BitVec 32 → W32) : W32 := from_ 5 (a.hit.map (fun h => g h.1 h.2.1))
  if sel < 16 then a.m.getD sel 0
  else if sel < 32 then w32 (getField f.port (sel - 16) f.pr)
  else
    match sel with
    | 32 => from_ 3 (a.rs0.map (resultOperand f sel))
    | 33 => from_ 5 (a.rs1.map (resultOperand f sel))
    | 34 => from_ 3 ((a.rs0.filter (fun r => r.1.getLsbD 14)).map (fun r => w32 r.2))
    | 35 => from_ 5 ((a.rs1.filter (fun r => r.1.getLsbD 14)).map (fun r => w32 r.2))
    | 36 => from_ 4 (a.route.map (fun r => r.1.setWidth 32))
    | 37 => from_ 4 (a.route.map (fun r => w32 r.2))
    | 38 => hit (fun r _ => w32 r.action)
    | 39 => hit (fun r _ => w32 r.port)
    | 40 => hit (fun r _ => r.user.setWidth 32)
    | 41 => hit (fun r _ => w32 r.pkts)
    | 42 => hit (fun _ i => i)
    | 43 => from_ 7 (a.act.map (fun (d : BitVec 48) => d.setWidth 32))
    | 44 => from_ 7 (a.act.map (fun (d : BitVec 48) => (d >>> 32).setWidth 32))
    | 45 => (f.agg.map w32).getD miss
    | 46 => w32 (f.port / 32)
    | 47 => w32 s.time.orbit
    | 127 => w32 imm
    | _ => miss

/-- A predicate at a stage; one read before it is valid reads false (R139). -/
def predicate (f : Frame) (stage n : Nat) : Bool :=
  let a := f.act
  let rs (r : Option (BitVec 32 × Nat)) (b : Nat) : Bool := (r.map (fun x => x.1.getLsbD b)).getD false
  if n = 0 then true
  else if n ≤ 8 then (flagsOf f.pr).getLsbD (n - 1)
  else if n ≥ 32 then a.p.getLsbD (n - 32)
  else
    match n with
    | 9 => f.deadline.isSome
    | 10 => f.demoted
    | 11 => decide (stage ≥ 3) && rs a.rs0 14
    | 12 => decide (stage ≥ 3) && rs a.rs0 15
    | 13 => decide (stage ≥ 5) && rs a.rs1 14
    | 14 => decide (stage ≥ 5) && rs a.rs1 15
    | 15 => decide (stage ≥ 4) && a.route.isSome
    | 16 => decide (stage ≥ 5) && a.hit.isSome
    | 17 => decide (stage ≥ 5) && a.defer
    | 18 => decide (stage ≥ 5) && (match a.hit with
        | some h => saHigh f.pr != h.1.orient
        | none => false)
    | 19 => decide (stage ≥ 5) && (match a.hit with
        | some h => h.1.paired
        | none => false)
    | 20 => decide (stage ≥ 7) && a.act.isSome
    | 21 => !a.causes.isEmpty
    | 22 => f.pr.hasIp && decide (f.pr.ttl ≤ 1)
    | _ => false

/-- A field's predicate with its inversion, at bits `lo` and `inv` of a word. -/
def enabled {n : Nat} (f : Frame) (stage : Nat) (w : BitVec n) (lo inv : Nat) : Bool :=
  predicate f stage (field w lo 6) != w.getLsbD inv

/-! ### Operations (Table 6-6) -/

/-- The result of codes 1–10. -/
def opValue (code : Nat) (a b : W32) : W32 :=
  match code with
  | 1 => a
  | 2 => a + b
  | 3 => a - b
  | 4 => a &&& b
  | 5 => a ||| b
  | 6 => a ^^^ b
  | 7 => a <<< (b.toNat % 32)
  | 8 => a >>> (b.toNat % 32)
  | 9 => if a.toNat ≤ b.toNat then a else b
  | _ => if a.toNat ≥ b.toNat then a else b

def addCause (c : Nat) (a : Act) : Act := { a with causes := insertNew c a.causes }

/-- One operation, its operands as they stood when the word began. -/
def runOp (s : State) (f : Frame) (stage : Nat) (w : BitVec 64) (a : Act) : Act :=
  if !enabled f stage w 0 6 then a
  else
    let dst := field w 11 5
    let x := operand s f stage (field w 16 7) (field w 32 32)
    let y := operand s f stage (field w 23 7) (field w 32 32)
    let setP (b : Bool) : Act :=
      let bit := BitVec.ofNat 32 (2 ^ dst)
      { a with p := if b then a.p ||| bit else a.p &&& ~~~bit }
    match field w 7 4 with
    | 0 => a
    | 11 => setP (x == y)
    | 12 => setP (decide (x.toNat < y.toNat))
    | 13 => addCause (12 + dst % 4) a
    | n => if n ≤ 10 ∧ dst < 16 then { a with m := a.m.set dst (opValue n x y) } else a

/-! ### Lookups -/

/-- The key a profile assembles: segment after segment from bit 0 up. -/
def profileKey (s : State) (f : Frame) (stage : Nat) (img : Option UcodeImage) (n : Nat) : Nat :=
  let segs := match img with
    | some i => tget i.profiles n []
    | none => []
  (segs.foldl (fun (acc : Nat × Nat) g =>
    let v := if 16 ≤ g.sel ∧ g.sel < 32 then getField f.port (g.sel - 16) f.pr else (operand s f stage g.sel g.imm).toNat
    (acc.1 + v % 2 ^ g.width * 2 ^ acc.2, acc.2 + g.width)) (0, 0)).1

/-- A rule search of a word; a faulty result becomes a miss. -/
def ruleIssue (s : State) (f : Frame) (stage : Nat) (img : Option UcodeImage) (w : BitVec 512) (faulty : Bool) :
    BitVec 32 × Nat :=
  if faulty then (0, 0)
  else
    let wide := w.getLsbD 48
    let bits := if wide then 960 else 480
    ruleSearchAt s (f.port / 32) f.version (field w 49 4) wide
      (BitVec.ofNat 960 (profileKey s f stage img (field w 44 4) % 2 ^ bits))

/-- The pivot search of a word's route lookup (R94), in the family of the frame's IPV6 flag. -/
def routeIssue (s : State) (f : Frame) (w : BitVec 512) : Option PivotHit :=
  let a := if w.getLsbD 69 then f.pr.sa else f.pr.da
  (pivotMatch s.arr.live (f.port / 32) f.version (field w 61 8) f.pr.v6 a).map (fun p => ⟨f.pr.v6, a, p.bucket, p.covers⟩)

/-- The bucket search that follows it a cycle later; a faulty result becomes a miss. -/
def routeBucket (s : State) (f : Frame) (a : Act) : Act :=
  match a.pivot with
  | none => a
  | some p =>
    if a.faults.contains 4 then addCause 2 { a with pivot := none }
    else { a with pivot := none
                  route := bucketMatch s.arr.live (f.port / 32) f.version p.v6 ⟨0, p.addr, 0, p.bucket, p.covers⟩ p.addr }

/-- The action entry AT_SEL names, or its absence. -/
def actionRead (s : State) (f : Frame) (sel : Nat) (a : Act) : Act :=
  let idx := (operand s f 6 (if sel = 1 then 34 else if sel = 2 then 35 else 38) 0).toNat
  let r := liveRow s (f.port / 32) .action idx
  match r.body with
  | .action d => if r.inV f.version && decide (idx < 262144) then { a with act := some d } else addCause 3 a
  | _ => addCause 3 a

/-- Faults of a header that hardware reports, as FORWARDING_DECISION names them: 1 a control-store word, 2 and 3 the results of
RS0 and RS1, 4 the route result, 5 the on-die flow result (R142). -/
def faultCause (n : Nat) : Nat := if n = 1 then 1 else 2

/-! ### Words (Table 6-4) -/

/-- The search slots a header's word takes: a rule search in A1 and A3, the pivot search in A1, the bucket search in A2. -/
def searchesOf (img : Option UcodeImage) (stage : Nat) (f : Frame) : List Arr :=
  let w := actionWordOf img f.act.word
  (if (stage = 1 ∨ stage = 3) ∧ w.getLsbD 36 ∧ enabled f stage w 37 43 then [.rule] else []) ++
  (if stage = 1 ∧ w.getLsbD 53 ∧ enabled f stage w 54 60 then [.pivot] else []) ++
  (if stage = 2 ∧ f.act.pivot.isSome then [.route] else [])

/-- ACTION_WORD: one word at a stage; answers the header with its results and the next word. -/
def actionWord (s : State) (img : Option UcodeImage) (stage : Nat) (f : Frame) : Frame :=
  let w := actionWordOf img f.act.word
  let a := if (actionErrors s f).contains f.act.word then addCause 1 f.act else f.act
  let next := if enabled f stage w 28 34 then field w 14 14 else field w 0 14
  let a' := (List.range 4).foldl (fun (x : Act) i => runOp s f stage (BitVec.ofNat 64 (field w (128 + 64 * i) 64)) x) a
  let a' := if (stage = 1 ∨ stage = 3) ∧ w.getLsbD 36 ∧ enabled f stage w 37 43 then
      let bad := a.faults.contains (if stage = 1 then 2 else 3)
      let r := ruleIssue s f stage img w bad
      let x := if bad then addCause 2 a' else a'
      if stage = 1 then { x with rs0 := some r } else { x with rs1 := some r }
    else a'
  let a' := if stage = 2 then routeBucket s f a' else a'
  let a' := if stage = 1 ∧ w.getLsbD 53 ∧ enabled f stage w 54 60 then { a' with pivot := routeIssue s f w } else a'
  let a' := if stage = 2 ∧ w.getLsbD 70 ∧ enabled f stage w 71 77 then
      { a' with flKind := field w 78 2, flDom := field w 80 8
                learn := if w.getLsbD 88 then some (w.getLsbD 89, field w 90 3, field w 100 18) else none
                user := if w.getLsbD 99 then some (BitVec.ofNat 6 (field w 93 6)) else none }
    else a'
  let a' := if stage = 6 ∧ field w 118 2 ≠ 0 then actionRead s f (field w 118 2) { a' with atSel := field w 118 2 } else a'
  let a' := if w.getLsbD 391 ∧ enabled f stage w 384 390 then
      { a' with dec := some {
        kind := field w 392 3
        index := if field w 395 7 = 127 then field w 402 22 else (operand s f stage (field w 395 7) 0).toNat
        queue := field w 424 4
        edit := field w 428 8
        ttl := w.getLsbD 436
        xlate := w.getLsbD 437
        code := field w 448 16 } }
    else a'
  { f with act := { a' with word := next } }

/-- A header at entry (cycle 28): the causes its parse raised, the parser's entry word. -/
def actionEntry (f : Frame) : Frame :=
  let flags := flagsOf f.pr
  let pc := (List.range 4).filterMap (fun i => if flags.getLsbD (2 + i) then some (7 + i) else none)
  let ecc := if f.pr.ecc ∨ f.act.faults.contains 1 then [1] else []
  { f with act := { Act.init with
      m := (List.range 16).map (Config.metadata f.fid), word := f.pr.entry, causes := ecc ++ pc, faults := f.act.faults } }

/-! ### The flow lookup (R116-R118) -/

/-- The key a frame looks up. -/
def frameKey (f : Frame) : FlowKey := ⟨f.act.flDom, keyOfBlock (blockOf f.pr)⟩

def flowHome (f : Frame) : Nat := homeOf f.hash
def flowBucket (s : State) (f : Frame) : Nat := bucketOf f.hash s.flow.b
def isHbmKind (k : Nat) : Bool := k == 2 || k == 3

/-- A lookup is deferred, counted by its reason. -/
def deferLookup (f : Frame) (why : Ctr) (s : State) : Frame × State :=
  let k := f.port / 32
  ({ f with act := { f.act with defer := true, reading := false } },
   pmcCount k 0x004 0 1 (bump why k 0 (bump .flowDeferred k 0 s)))

/-- HBM_FLOW_LOOKUP_ISSUE (R117); what the bucket holds for the key is the lookup's from now on (R127). -/
def issueRead (f : Frame) (s : State) : Frame × State :=
  let k := f.port / 32
  let n := if f.act.flKind = 3 then 2 else 1
  let b := flowBucket s f
  let c := b % 384
  let used := tget s.flow.usedOps k 0
  let win := tget s.flow.winOps c 0
  if !chanActive s c then deferLookup f .flowDeferChannel s
  else if used + n > 384 then deferLookup f .flowDeferQuota s
  else if win + n > 36 then deferLookup f .flowDeferWindow s
  else
    let s := { s with flow := { s.flow with usedOps := tset s.flow.usedOps k (used + n), winOps := tset s.flow.winOps c (win + n) } }
    let s := pmcCount (hbmBlock c) 0x201 (c % 32) n (pmcCount k 0x003 0 n (bumpBy .flowOps k 0 n s))
    let found := (findBucket s (flowHome f) b (frameKey f)).map (fun x => (x.2, x.1))
    ({ f with act := { f.act with reading := true, bucket := found } }, activate c (bucketOff s (flowHome f) b) s)

/-- The on-die search of a header's flow lookup, in cycle 30 (Table 5-7); a faulty result becomes a miss. -/
def flowSearch (s : State) (f : Frame) : Frame :=
  if f.act.flKind = 0 then f
  else if f.act.faults.contains 5 then { f with act := addCause 2 f.act }
  else
    match findDie s (flowHome f) (frameKey f) (isHbmKind f.act.flKind) with
    | some (i, r) => { f with act := { f.act with hit := some (r, i, true) } }
    | none => f

/-- Cycle 33: the on-die result is returned; on a miss an HBM kind's bucket read is issued or deferred (R117). -/
def flowResult (f : Frame) (s : State) : Frame × State :=
  let k := f.port / 32
  if f.act.flKind = 0 then (f, s)
  else if f.act.hit.isSome then (f, bump .flowHitOnDie k 0 s)
  else if isHbmKind f.act.flKind then issueRead f s
  else (f, bump .flowMiss k 0 s)

/-- Bucket data reaches its header: the record the read found, as every lookup decided before has left it, or a miss; a
deferral where the channel has frozen since (R218, R127, Table 10-5). A record removed since the issue is delivered as it was. -/
def deliver (f : Frame) (corrected : Bool) (s : State) : Frame × State :=
  let k := f.port / 32
  let b := flowBucket s f
  let c := b % 384
  if !chanActive s c then deferLookup f .flowDeferChannel s
  else
    let s := if corrected then eccCorrect c (bucketOff s (flowHome f) b / 2 ^ 21) s else s
    let a := { f.act with reading := false, bucket := none }
    match f.act.bucket with
    | none => ({ f with act := a }, bump .flowMiss k 0 s)
    | some (r, i) =>
      let r := match findBucket s (flowHome f) b (frameKey f) with
        | some (j, x) => if j = i then x else r
        | none => r
      ({ f with act := { a with hit := some (withPending s i r, i, false) } }, bump .flowHitHbm k 0 s)

end Sys2Proof.Machine
end

