-- ==== Sys2Proof/Machine/Pipeline.lean ====
section
/-! DEFINITION. The forwarding decision and what follows it at the ingress: exceptions (R142-R145), the decision's target
(R141), learning (R120), staging (R181), tail status (R148-R149). -/

namespace Sys2Proof.Machine

/-! ### Exceptions (Table 6-8) -/

/-- What a cause does where the image's policy says nothing. -/
def causeDefault (c : Nat) : ExcAction :=
  if c = 11 then .trap else if c = 7 ∨ c = 8 ∨ c ≥ 12 then .mark else .drop

/-- What a policy may set for a cause. -/
def maySet (c : Nat) (a : ExcAction) : Bool :=
  if c = 1 then a == .drop else if 4 ≤ c ∧ c ≤ 6 then a != .mark else true

/-- The action of a cause under an image. -/
def causeAction (img : Option UcodeImage) (c : Nat) : ExcAction :=
  match img.bind (fun i => tfind i.policy c) with
  | some a => if maySet c a then a else causeDefault c
  | none => causeDefault c

/-- The most severe action of several causes (R143). -/
def verdict (img : Option UcodeImage) (cs : List Nat) : ExcAction :=
  if cs.any (fun c => causeAction img c == .drop) then .drop
  else if cs.any (fun c => causeAction img c == .trap) then .trap
  else .mark

/-- Every cause raised is counted once (R143). -/
def countCauses (k : Nat) (cs : List Nat) (s : State) : State :=
  cs.foldl (fun (s : State) c => bump .exc k c s) s

/-! ### The decision's target (R141, Table 6-7) -/

/-- Where a decision sends a frame. -/
inductive Target where
  | port (p : Nat) (nh : Option NextHop)
  | mcast (slices : BitVec 32) (group : Nat)
  | drop
  | trap
  | raise (cause : Nat)
  deriving DecidableEq, Repr

/-- A next-hop index in the frame's version. -/
def viaNextHop (s : State) (f : Frame) (idx : Nat) : Target :=
  let k := f.port / 32
  let r := liveRow s k .nextHop idx
  match r.body with
  | .nextHop nh =>
    if !r.inV f.version then .raise 4
    else if !nh.isLag then .port (nh.target % 1024) (some nh)
    else
      let l := liveRow s k .lag nh.target
      match l.body with
      | .lag ps =>
        if !l.inV f.version then .raise 4
        else
          match ps[lagPick f.hash ps.length]? with
          | some p => .port p (some nh)
          | none => .raise 4
      | _ => .raise 4
  | _ => .raise 4

/-- An ECMP group in the frame's version. -/
def viaEcmp (s : State) (f : Frame) (group : Nat) : Target :=
  let r := liveRow s (f.port / 32) .ecmp group
  match r.body with
  | .ecmp ms =>
    if !r.inV f.version then .raise 4
    else
      match ms[ecmpPick f.hash ms.length]? with
      | some n => viaNextHop s f n
      | none => .raise 4
  | _ => .raise 4

/-- A route lookup's result (Table 4-7). -/
def viaRoute (s : State) (f : Frame) : Target :=
  match f.act.route with
  | none => .raise 5
  | some (r, _) =>
    match field r 22 2 with
    | 0 => viaNextHop s f (field r 0 22)
    | 1 => viaEcmp s f (field r 0 22)
    | 2 => .drop
    | _ => .trap

/-- A decision resolved. -/
def resolve (s : State) (f : Frame) (d : Dec) : Target :=
  match d.kind with
  | 0 => .port (d.index % 1024) none
  | 1 => viaNextHop s f d.index
  | 2 => viaEcmp s f d.index
  | 3 =>
    match mcastRow s.arr.live (f.port / 32) f.version d.index with
    | some (_, ⟨_, _, .mcast m _ _⟩) => .mcast m d.index
    | _ => .raise 4
  | 4 => .drop
  | 5 => .trap
  | _ => viaRoute s f

/-! ### Write-back and learning (R119, R120, R144) -/

/-- The write-back of a hit: into an on-die record at the decision, into an HBM record by HBM_WRITE_BACK; one for a channel that is not
active is abandoned (R226). -/
def sendWriteBack (f : Frame) (s : State) : State :=
  match f.act.hit with
  | none => s
  | some (r, i, onDie) =>
    let w : WriteBack := ⟨f.fid, i, recKey r, f.orbit, f.len, f.act.user, f.act.flKind == 3, f.pr.tcp, f.pr.dscp⟩
    if onDie then writeBack w s
    else
      let c := chanOfPlace (idxPlace i)
      if chanActive s c then { s with flow := { s.flow with wbs := s.flow.wbs ++ [w] } } else bump .hbmWbAbandoned c 0 s

/-- The record a learn request asks for. -/
def learnRec (f : Frame) (ext : Bool) (zone action : Nat) (rw : Option (BitVec 128 × Nat × Bool × Bool)) : FlowRec :=
  let (a, p, side, v6) := rw.getD (0, 0, false, false)
  { key := (frameKey f).block, domain := f.act.flDom, port := f.port, action := action, orient := saHigh f.pr
    paired := false, pairPending := false, static := false, zone := zone, wrap := false, user := 0
    lastSeen := f.orbit, pkts := 0, bytes := 0
    ext := if ext then some ⟨a, p, side, v6, 0, f.orbit, 0, 0, 0, f.pr.dscp, 0, 0⟩ else none }

/-- LEARN_REQUEST_SEND (R120). -/
def sendLearn (f : Frame) (s : State) : State :=
  let k := f.port / 32
  let a := f.act
  match a.learn with
  | none => s
  | some (ext, zone, action) =>
    if a.flKind = 0 ∨ a.hit.isSome ∨ a.defer ∨ drainClosed s then s
    else
      let key := frameKey f
      let now := hwNow s
      let kept := (tget s.flow.filter k []).filter (fun x => decide (x.1 + 4 > now))
      let lim := ((portOf s f.port).map (fun p => decide (p.learns ≥ p.learnLim))).getD false
      if kept.any (fun x => x.2 == key) then s
      else if lim then bump .learnRefusedPort f.port 0 s
      else if tget s.flow.sent k 0 ≥ 8 then bump .learnRingFull k 0 s
      else
        let (n, s) := draw s
        let rw := if ext then Config.learnRewrite n else none
        let s := updPort f.port (fun p => { p with learns := p.learns + 1 }) s
        let kept := (kept ++ [(now, key)]).drop (kept.length + 1 - 64)
        let s := { s with flow := { s.flow with
          sent := tset s.flow.sent k (tget s.flow.sent k 0 + 1), filter := tset s.flow.filter k kept } }
        sendMsg k (flowHome f) (.learn (learnRec f ext zone action rw) (a.flKind == 1) rw.isSome) s

/-! ### Tail status (R148, R149, R253) -/

/-- The tail status of a frame that is still at its ingress becomes known. -/
def settleTail (f : Frame) (s : State) : Frame × State :=
  if f.tailKnown then (f, s)
  else
    match portOf s f.port with
    | none => ({ f with tailKnown := true }, s)
    | some ps =>
      let (fail, s) := rxTailCheck f.port ps.pol f.an f.icv s
      ({ f with tailKnown := true, bad := f.bad || fail }, s)

/-! ### Staging and the way onward (R146, R181, R173, R407) -/

/-- A frame's cells until its tail status is known, and then (R181, R183): cells(M), cells(L); a guaranteed frame's are known. -/
def chargedCells (s : State) (f : Frame) : Nat :=
  if f.queue < 4 then cellsOf f.len else cellsOf (if f.tailKnown then f.len else portMax s f.port)

/-- A guaranteed frame lacks a cell of the staging carve (R181, R191). -/
def lacksCarve (s : State) (f : Frame) : Bool := decide (stagGuar s (f.port / 32) + cellsOf f.len > stagCarve s (f.port / 32))

/-- GUAR_BUF_DROP of a frame at its ingress (R191). -/
def carveDrop (f : Frame) (s : State) : State :=
  raise (32 * (f.port / 32) + 5) (bump .guarBufDrop (f.agg.getD 0) 0 s)

/-- A decided frame that stays on its slice is charged to staging; its cells pass to the egress pool as they arrive (R181). -/
def chargeStaging (f : Frame) (s : State) : State :=
  if f.tailKnown then putFrame f s
  else
    let n := chargedCells s f
    updBuf (f.port / 32) (fun b => if f.queue < 4 then { b with stagG := b.stagG + n } else { b with stagE := b.stagE + n })
      (putFrame { f with stag := n } s)

/-- Room in elastic staging, and in the queue of the pair or of multicast where the frame must cross. -/
def stagingRoom (s : State) (f : Frame) (q : Option (List VCell)) : Bool :=
  decide (freeStag s (f.port / 32) ≥ cellsOf (portMax s f.port)) &&
    match q with
    | some q => decide ((entered s q).length ≤ 2048)
    | none => true

/-- Write-back and learn request of a frame that is forwarded. -/
def forwarded (flows : Bool) (f : Frame) (s : State) : State := if flows then sendLearn f (sendWriteBack f s) else s

/-- The frame is released at an egress port of its own slice (R146). -/
def toOwnSlice (f : Frame) (p : Nat) (s : State) : State :=
  if f.queue < 4 ∧ lacksCarve s f then dropFrame f.fid (carveDrop f (endTail f s))
  else
    let f := { f with egress := p, store := storeFirst s f.port p f.preempt, zcycle := some s.time.now
                      tcycle := if f.tailKnown then some s.time.now else none }
    let s := chargeStaging f s
    match frameOf s f.fid with
    | some f => release f (chargedCells s f) s
    | none => s

/-- A guaranteed frame, or its copy for one slice, enters the queue of its pair; without a slot or a carve cell it is dropped. -/
def toGuarVoq (f : Frame) (j : Nat) (s : State) : State :=
  let i := f.port / 32
  if !hasResv s i j then
    dropFrame f.fid (raise (32 * i + 5) (bump .guarNoResvDrop (f.agg.getD 0) 0 (endTail f s)))
  else if lacksCarve s f then dropFrame f.fid (carveDrop f (endTail f s))
  else enqueueGuar f j s

/-- A unicast decision. -/
def toPort (f : Frame) (p : Nat) (flows : Bool) (s : State) : State :=
  let i := f.port / 32
  let j := p / 32
  let f := { f with egress := p, store := storeFirst s f.port p f.preempt }
  if f.queue < 4 then
    let s := forwarded flows f s
    if sliceHalted s j then bump .fabricFrameDiscard j 0 (dropFrame f.fid (endTail f s))
    else if i = j then toOwnSlice f p s else toGuarVoq f j s
  else if !stagingRoom s f (if i = j then none else some (voqE s i j)) then
    bump .stagingDrop f.port 0 (dropFrame f.fid (endTail f s))
  else
    let s := forwarded flows f s
    if sliceHalted s j then bump .fabricFrameDiscard j 0 (dropFrame f.fid (endTail f s))
    else if i = j then toOwnSlice f p s else enqueueTrain f j s

/-- Copies for halted slices are discarded (R175). -/
def dropCopies (ks : List Nat) (s : State) : State := ks.foldl (fun (s : State) k => bump .mcastCopyDrop k 0 s) s

/-- A multicast decision (R171-R173). -/
def toGroup (f : Frame) (mask : BitVec 32) (g : Nat) (flows : Bool) (s : State) : State :=
  let i := f.port / 32
  let others := (slicesOf mask).filter (fun k => k ≠ i)
  let live := others.filter (fun k => !sliceHalted s k)
  let dead := others.filter (fun k => sliceHalted s k)
  let f := { f with mcast := some (mask, g), zcycle := some s.time.now
                    tcycle := if f.tailKnown then some s.time.now else none }
  let own (s : State) : State :=
    if !mask.getLsbD i then s
    else if f.queue < 4 ∧ lacksCarve s f then carveDrop f s
    else makeCopies i f s
  let done (s : State) : State :=
    if f.tailKnown then dropFrame f.fid s
    else
      let g := { f with stage := .fabric, mcast := some (0, g) }
      if mask.getLsbD i then chargeStaging g s else putFrame g s
  if f.queue < 4 then
    let s := dropCopies dead (own (forwarded flows f s))
    let s := live.foldl (fun (s : State) j =>
      let c := { f with fid := s.nextFid, orig := some f.fid, egress := 32 * j
                        mcast := some (BitVec.ofNat 32 (2 ^ j), g) }
      let s := { s with nextFid := s.nextFid + 1 }
      if !hasResv s i j then raise (32 * i + 5) (bump .guarNoResvDrop (f.agg.getD 0) 0 s)
      else if lacksCarve s f then carveDrop f s
      else enqueueGuar c j s) s
    done s
  else if !stagingRoom s f (if live.isEmpty then none else some (voqM s i)) then
    bump .stagingDrop f.port 0 (dropFrame f.fid (endTail f s))
  else
    let s := dropCopies dead (own (forwarded flows f s))
    if live.isEmpty then done s
    else
      let left := BitVec.ofNat 32 ((live.map (fun k => 2 ^ k)).sum)
      enqueueMcast { f with mcast := some (left, g) } left s

/-! ### The decision -/

/-- A packet discarded at its decision; its landing cell has been freed. -/
def discardDecided (f : Frame) (s : State) : State := dropFrame f.fid (endTail f s)

/-- What the header decided, with its edit descriptor written into the frame. -/
def describe (img : Option UcodeImage) (d : Dec) (nh : Option NextHop) (flows : Bool) (f : Frame) : Frame :=
  let ops := editOps img d.edit
  { f with
    queue := if f.deadline.isSome then f.queue else if d.queue ≥ 4 then d.queue else f.queue
    edit := d.edit, edits := ops, outLen := ((f.len : Int) + editDelta ops).toNat, nh := nh, dttl := d.ttl
    xlate := if d.xlate && flows then (f.act.hit.bind (fun h => h.1.ext)) else none }

/-- The causes of a decision's target and of TTL expiry (Table 6-8). -/
def decisionCauses (f : Frame) (d : Option Dec) (t : Target) : List Nat :=
  (match t with
    | .raise c => [c]
    | _ => []) ++
  (match d with
    | some d => if d.ttl && f.pr.hasIp && decide (f.pr.ttl ≤ 1) then [11] else []
    | none => [])

/-- The decision of a deferred header that DEFER_FORWARD sends on by its route lookup (R118). -/
def deferredDec (f : Frame) : Dec :=
  match f.act.dec with
  | some d => { d with kind := 6, xlate := false }
  | none => ⟨6, 0, 0, 0, false, false, 0⟩

/-- The queue a header's decision puts it in. -/
def decidedQueue (f : Frame) : Nat :=
  match f.act.dec with
  | some d => if f.deadline.isSome then f.queue else if d.queue ≥ 4 then d.queue else f.queue
  | none => f.queue

/-- Whether a header's lookup was deferred and its queue's deferral action is DEFER_DROP. -/
def deferDrops (s : State) (f : Frame) : Bool := f.act.defer && (elasticOf s (decidedQueue f)).defer == 1

/-- What a header's decision resolves to: nothing where DEFER_DROP drops the packet. -/
def decidedTarget (s : State) (f : Frame) : Target :=
  if deferDrops s f then .drop
  else if f.act.defer then resolve s f (deferredDec f)
  else
    match f.act.dec with
    | some d => resolve s f d
    | none => .drop

/-- The causes a header has raised by its decision (Table 6-8): its own, NO_DECISION, and those of its decision's target. -/
def headerCauses (f : Frame) (t : Target) : List Nat :=
  (f.act.causes ++ (if f.act.dec.isNone then [6] else []) ++ decisionCauses f f.act.dec t).dedup

/-- The decision of a header whose words have run (R142-R144, R149). -/
def decide_ (f : Frame) (s : State) : State :=
  let k := f.port / 32
  let s := updBuf k (fun b => { b with landing := b.landing - 1 }) s
  let (f, s) := if tailCycle s f ≤ s.time.now then settleTail f s else (f, s)
  if (f.tailKnown && f.bad) || f.macBad then discardDecided f s
  else
    let img := actionImage s f
    let flows := !f.act.defer
    let t := decidedTarget s f
    let cs := headerCauses f t
    let s := countCauses k cs s
    let code := (f.act.dec.map (fun d => d.code)).getD 0
    match verdict img cs with
    | .drop => discardDecided f s
    | .trap =>
      discardDecided f (trapCopy f ((cs.find? (fun c => causeAction img c == .trap)).getD 0) code s)
    | .mark =>
      let d := if flows then f.act.dec.getD (deferredDec f) else deferredDec f
      match t with
      | .port p nh =>
        let g := describe img d nh flows { f with dcycle := s.time.now }
        toPort g p flows s
      | .mcast m g => toGroup (describe img d none flows { f with dcycle := s.time.now }) m g flows s
      | .trap => discardDecided f (trapCopy f 0 code s)
      | .drop | .raise _ => discardDecided f s

/-! ### Headers in the lookup pipeline (Table 6-3) -/

/-- The cycle of a header's decision, counted from its reference edge: 36, or 356 for the HBM flow kinds. -/
def decisionAt (f : Frame) : Nat := if isHbmKind f.act.flKind then 356 else 36

def inLookup (f : Frame) : Bool := f.stage == .front && f.slot.isSome

/-- Whether a header's decision falls in this cycle. -/
def decisionDue (s : State) (f : Frame) : Bool := inLookup f && f.ref + decisionAt f == s.time.now

/-- The order in which the headers of one cycle act: slices from h mod 32 on, then header-slot order (R117, R145). -/
def headerBefore (s : State) (a b : Frame) : Bool :=
  let r (f : Frame) : Nat := (f.port / 32 + 32 - s.time.headway % 32) % 32
  decide (r a < r b ∨ (r a = r b ∧ (a.slot.getD 0 < b.slot.getD 0 ∨ (a.slot = b.slot ∧ a.slotIx ≤ b.slotIx))))

/-- The headers in the lookup pipeline, in their order. -/
def headers (s : State) : List Frame := sortBy (headerBefore s) (s.frames.filter inLookup)

/-- A header's decision, with faults that hardware reports in this cycle. -/
def decideWith (faults : List Nat) (f : Frame) (s : State) : State :=
  if sliceHalted s (f.port / 32) then dropUndecided f s
  else decide_ { f with act := { f.act with causes := (f.act.causes ++ faults.map faultCause).dedup } } s

/-- The decision of the header of a frame number, where it falls in this cycle. -/
def decideNow (faults : List Nat) (fid : Nat) (s : State) : State :=
  match frameOf s fid with
  | none => s
  | some f => if decisionDue s f then decideWith faults f s else s

/-- The decisions of this cycle that come before a header's. -/
def decideBefore (fid : Nat) (s : State) : State :=
  (((headers s).filter (decisionDue s)).takeWhile (fun f => f.fid != fid)).foldl (fun s f => decideNow [] f.fid s) s

/-- One word of a header. -/
def runStage (n : Nat) (f : Frame) (s : State) : State :=
  let img := actionImage s f
  let s' := { s with arr := { s.arr with used := (searchesOf img n f).map (fun a => (f.port / 32, a)) ++ s.arr.used } }
  setFrame (actionWord s img n f) s'

/-- A bucket's data reaches the header that waits for it. -/
def bucketReturn (corrected : Bool) (f : Frame) (s : State) : State :=
  if f.act.reading then setFrame (deliver f corrected s).1 (deliver f corrected s).2 else s

/-- What a header does in a cycle before its decision's (Tables 6-3 and 5-7): its words, its flow lookup, the return of its
bucket. -/
def headerStep (f : Frame) (s : State) : State :=
  let hbm := isHbmKind f.act.flKind
  match s.time.now - f.ref with
  | 29 => runStage 1 (actionEntry f) s
  | 30 =>
    let s := runStage 2 f s
    match frameOf s f.fid with
    | some f => setFrame (flowSearch s f) s
    | none => s
  | 31 => runStage 3 f s
  | 32 => runStage 4 f s
  | 33 => if hbm then setFrame (flowResult f s).1 (flowResult f s).2 else runStage 5 (flowResult f s).1 (flowResult f s).2
  | 34 => if hbm then s else runStage 6 f s
  | 35 => if hbm then s else runStage 7 f s
  | 352 => if hbm then bucketReturn false f s else s
  | 353 => if hbm then runStage 5 f s else s
  | 354 => if hbm then runStage 6 f s else s
  | 355 => if hbm then runStage 7 f s else s
  | _ => s

/-- What the lookup pipelines do in a cycle whose rows have run: every header's word, and every decision that is due. -/
def headersCycle (s : State) : State :=
  if s.frames.isEmpty then s
  else
    let s := (headers s).foldl (fun (s : State) g => match frameOf s g.fid with
      | some f => headerStep f s
      | none => s) s
    ((headers s).filter (decisionDue s)).foldl (fun (s : State) f => decideNow [] f.fid s) s

/-- FORWARDING_DECISION: in its decision's cycle, 36 or 356 (R15, R136), a header is decided, after those of the same cycle that
come before it; in an earlier cycle of its passage the row brings the faults that its words are to meet (log entry 7). -/
def execForwardingDecision (fid : Nat) (faults : List Nat) (s : State) : Host.Outcome State Fault Refusal :=
  within s (
    match frameOf s fid with
    | none => .next s
    | some f =>
      if !inLookup f then .next s
      else if decisionDue s f then .next (decideNow faults fid (decideBefore fid s))
      else .next (setFrame { f with act := { f.act with faults := (f.act.faults ++ faults).dedup } } s))

/-- HBM_BUCKET_READ_RETURN: bucket data reaches its header at exactly cycle 352 of its lookup (R218). -/
def execHbmBucketReadReturn (fid : Nat) (corrected : Bool) (s : State) : Host.Outcome State Fault Refusal :=
  within s (
    match frameOf s fid with
    | none => .next s
    | some f => if f.ref + 352 = s.time.now ∧ inLookup f then .next (bucketReturn corrected f s) else .next s)

/-! ### FRAME_TAIL_STATUS -/

/-- The status reaches what was made of the frame on its own slice. -/
def tailAtEgress (f : Frame) (bad : Bool) (s : State) : State :=
  let s := returnExcess f (cellsOf f.len) s
  match frameOf s f.fid with
  | some f => egressTail f bad s
  | none => s

/-- Staging beyond what the frame needs is returned (R181). -/
def trimStaging (f : Frame) (s : State) : State :=
  let n := cellsOf f.len
  if f.queue < 4 ∨ f.stag ≤ n ∨ f.stage ≠ .voq then s
  else
    let spare := cellsOf (portMax s f.port) - n
    let cut := min spare (f.stag - 1)
    setFrame { f with stag := f.stag - cut } (updBuf (f.port / 32) (fun b => { b with stagE := b.stagE - cut }) s)

/-- A frame's tail status, checked, reaches the copies made of it on its own slice. -/
def tailToCopies (f : Frame) (s : State) : State :=
  (s.frames.filter (fun g => g.orig == some f.fid)).foldl (fun (s : State) g =>
    if g.mcast.isSome then setFrame { g with tailKnown := true, bad := f.bad } s else tailAtEgress g f.bad s) s

/-- What a frame whose tail status is now known does with it, by where it stands. -/
def tailTaken (f : Frame) (s : State) : State :=
  match f.stage with
  | .front => s
  | .voq => trimStaging f s
  | .fabric | .lookup =>
    match f.mcast with
    | some (m, _) => if m = 0 then loseFrame f s else s
    | none => s
  | _ =>
    if f.port / 32 = f.egress / 32 && f.mcast.isNone then
      let s := freeStaging f.fid s
      match frameOf s f.fid with
      | some f => tailAtEgress f f.bad s
      | none => s
    else s

/-- A frame's tail status becomes known. -/
def tailSettled (f : Frame) (s : State) : State :=
  let (f, s) := settleTail f s
  tailTaken f (tailToCopies f (setFrame f s))

/-- FRAME_TAIL_STATUS: a frame's tail status becomes known at its ingress slice, one cycle after its last bit (R148). -/
def execFrameTailStatus (fid : Nat) (s : State) : Host.Outcome State Fault Refusal :=
  within s (
    match frameOf s fid with
    | none => .next s
    | some f =>
      if f.tailKnown || f.orig.isSome || decide (s.time.now ≠ tailCycle s f) then .next s else .next (tailSettled f s))

/-- Every tail status that becomes known in this cycle and has not been told. -/
def tailsCycle (s : State) : State :=
  (s.frames.filter (fun f => !f.tailKnown && f.orig.isNone && decide (tailCycle s f = s.time.now))).foldl (fun (s : State) g =>
    match frameOf s g.fid with
    | some f => if f.tailKnown then s else tailSettled f s
    | none => s) s

end Sys2Proof.Machine
end

