-- ==== Sys2Proof/Machine/Ports.lean ====
section
/-! DEFINITION. Ports, lanes and the light supply (chapter 2): port maps, link transitions, lane loss and halving, FEC degrade,
cartridges. -/

namespace Sys2Proof.Machine

/-! ### Port maps (R43-R45, Table 2-2) -/

/-- The width code of a lane in a map; a lane not listed is dark. -/
def codeOf (m : List MapEnt) (l : Nat) : Nat := ((m.find? (fun e => e.lane == l)).map (fun e => e.code)).getD 0

/-- The width of the port whose lowest lane is `l`: itself and the member lanes that follow. -/
def mapWidth (m : List MapEnt) (l : Nat) : Nat :=
  1 + ((List.range (1023 - l)).takeWhile (fun i => codeOf m (l + 1 + i) == 2)).length

/-- A port's maximum frame length: 9,216 where the map sets none (R44; log entry 112: an entry of 0 sets none). -/
def maxLenOf (e : MapEnt) : Nat := if e.maxLen = 0 then 9216 else e.maxLen

/-- The ports a map makes: lowest lane, width, maximum frame length, ascending. -/
def mapPorts (m : List MapEnt) : List (Nat × Nat × Nat) :=
  sortBy (fun a b => decide (a.1 ≤ b.1)) ((m.filter (fun e => e.code == 1)).map (fun e => (e.lane, mapWidth m e.lane, maxLenOf e)))

def widthOk (l w : Nat) : Bool := (w == 1 || w == 2 || w == 4 || w == 8) && l % w == 0

/-- The lanes at fault in a map that breaks R43, the codes of Table 2-2 or the lengths of R44. -/
def mapFaults (m : List MapEnt) : List Nat :=
  let ps := mapPorts m
  (m.filter (fun e =>
    decide (e.lane ≥ 1024) || decide (e.code > 2) || decide ((m.filter (fun x => x.lane == e.lane)).length > 1) ||
    (e.code == 1 && (!widthOk e.lane (mapWidth m e.lane) || decide (maxLenOf e < 1518) || decide (maxLenOf e > 9216))) ||
    (e.code == 2 && !ps.any (fun p => decide (p.1 < e.lane) && decide (e.lane < p.1 + p.2.1))))).map (fun e => e.lane)

/-- A newly applied map: ports whose lanes it leaves unchanged keep their state; other links go down and retrain (R45, R55). -/
def newPorts (s : State) (m : List MapEnt) : Tab Nat PortSt :=
  (mapPorts m).map (fun e =>
    match portOf s e.1 with
    | some ps => if ps.width = e.2.1 then (e.1, { ps with maxLen := e.2.2 }) else (e.1, PortSt.init e.1 e.2.1 e.2.2)
    | none => (e.1, PortSt.init e.1 e.2.1 e.2.2))

/-! ### Links (R59, R402) -/

/-- The modes in which lanes are lit (Table 17-1, R343). -/
def lanesLit (s : State) : Bool :=
  match s.mode.mode with
  | .boot | .calibrate | .service | .holdover => true
  | .drain => s.mode.phase == .hold || s.mode.phase == .emptying
  | _ => false

/-- Counts the cycles in which a port's operating lanes have carried bits since they were last counted (R57). -/
def countCarried (p : Nat) (s : State) : State :=
  match portOf s p with
  | none => s
  | some ps =>
    if !ps.link then s
    else
      (List.range ps.opWidth).foldl (fun (s : State) i =>
        let x := laneOf s (ps.opLow + i)
        setLane (ps.opLow + i) { x with cycles := x.cycles + (s.time.now - ps.upFrom) } s)
        (setPort p { ps with upFrom := s.time.now } s)

/-- A port's link goes down; down already, nothing changes. -/
def downPort (p : Nat) (why : LinkCause) (s : State) : State :=
  match portOf s p with
  | none => s
  | some ps =>
    if !ps.link then s
    else
      let s := updPort p (fun ps => { ps with link := false, cause := why }) (countCarried p s)
      portDownFlush p (raise (32 * (p / 32)) (bump .linkDownCount p 0 s))

/-- Lost lanes among the lanes a port has in the map. -/
def lostLanes (s : State) (p w : Nat) : List Nat := ((List.range w).map (fun i => p + i)).filter (fun l => (laneOf s l).lost)

/-- Whether a port can be up: set up, lit, its engine and slice working, its operating lanes whole and not in recalibration. -/
def operable (s : State) (p : Nat) (ps : PortSt) : Bool :=
  ps.admin && lanesLit s && !sliceHalted s (p / 32) && !s.ports.engDown.contains (p / 16) &&
    (lostLanes s ps.opLow ps.opWidth).isEmpty &&
    !s.ports.recals.any (fun r => decide (p ≤ r.1) && decide (r.1 < p + ps.width))

/-- A port's link comes up; the verify process restarts (R408). The cause of the transition is the one that brought it down. -/
def upPort (p : Nat) (s : State) : State :=
  match portOf s p with
  | none => s
  | some ps =>
    if ps.link || !operable s p ps then s
    else raise (32 * (p / 32)) (setPort p (startVerify { ps with link := true, upFrom := s.time.now }) s)

/-- LINK_DOWN: a cause outside the module (R59). -/
def execLinkDown (port : Nat) (s : State) : Host.Outcome State Fault Refusal := within s (.next (downPort port .outside s))

/-- LINK_UP: training or the far end's return. -/
def execLinkUp (port : Nat) (s : State) : Host.Outcome State Fault Refusal := within s (.next (upPort port s))

/-- Applies a port map. -/
def applyMap (m : List MapEnt) (s : State) : State :=
  let gone := s.ports.ports.filter (fun e => !(mapPorts m).any (fun x => x.1 == e.1 && x.2.1 == e.2.width))
  let s := gone.foldl (fun (s : State) e => downPort e.1 .portMap s) s
  { s with ports := { s.ports with ports := newPorts s m, map := m, staged := none } }

def execPortMapSet (h : Hdr) (map : List MapEnt) (s : State) : Host.Outcome State Fault Refusal :=
  within s (
    .next (qcp { code := 0x0201, world := .nonSecure } h (fun s =>
      match mapFaults map with
      | l :: _ => badEntry l
      | [] =>
        if s.tt.active.isNone then .done [flag "STAGED" false] (applyMap map s)
        else .done [flag "STAGED" true] { s with ports := { s.ports with staged := some map } }) s))

/-- A map as 1,024 entries of width code and maximum frame length. -/
def mapFlds (m : List MapEnt) : List RField :=
  [⟨"CODES", 1, (List.range 1024).map (codeOf m)⟩,
   ⟨"MAXIMA", 2, (List.range 1024).map (fun l =>
      ((m.find? (fun e => e.lane == l && e.code == 1)).map maxLenOf).getD 0)⟩]

def execPortMapGet (h : Hdr) (staged : Bool) (s : State) : Host.Outcome State Fault Refusal :=
  within s (
    .next (qcp { code := 0x0202 } h (fun s =>
      if staged then
        match s.ports.staged with
        | none => .refuse .notFound none
        | some m => .done (mapFlds m) s
      else .done (mapFlds s.ports.map) s) s))

def execPortAdmin (h : Hdr) (port : Nat) (up : Bool) (halve : Bool) (s : State) : Host.Outcome State Fault Refusal :=
  within s (
    .next (qcp { code := 0x0203, world := .nonSecure } h (fun s =>
      match portOf s port with
      | none => badParam (po 0)
      | some ps =>
        match (if up then none else carries s port) with
        | some a => .refuse .resourceClaimed (some (.aggregate a))
        | none =>
          let s := setPort port { ps with admin := up, halve := halve } s
          .done [] (if up then s else downPort port .portAdmin s)) s))

def causeCode : LinkCause → Nat
  | .outside => 0 | .portAdmin => 1 | .laneRecal => 2 | .laneLoss => 3 | .portMap => 4 | .modeDark => 5 | .sliceHalt => 6

def execPortStatus (h : Hdr) (first : Nat) (count : Nat) (s : State) : Host.Outcome State Fault Refusal :=
  within s (
    .next (qcp { code := 0x0204, reads := true } h (fun s =>
      if !rangeOk first count 1024 then badParam (po 1)
      else .done ((s.ports.ports.filter (fun e => decide (first ≤ e.1) && decide (e.1 < first + count))).flatMap (fun e =>
        let x := e.2
        [fld "PORT" e.1, flag "LINK" x.link, fld "CAUSE" (causeCode x.cause), fld "WIDTH" x.opWidth, fld "LANE" x.opLow,
         flag "HALVE" x.halve, flag "DEGRADE" x.degrade, flds "LOST" (lostLanes s e.1 x.width)])) s) s))

/-- The counters of Table 2-5, with MODE_DISCARD (Table 17-1). -/
def portCtrs : List Ctr :=
  [.rxFrames, .rxOctets, .rxFcsErr, .rxUndersize, .rxOversize, .rxFecErr, .txFrames, .txOctets, .txTailMarked,
   .headerSlotDrop, .portDownDiscard, .latePort, .linkDownCount, .modeDiscard]

/-- A port's counters cleared. DESIGN CHOICE (log entry 106): the codeword histogram, which PORT_COUNTERS reads with them (R56), is
zeroed with them; Table 2-5 does not list it. -/
def portClear (port : Nat) (s : State) : State :=
  (List.range 17).foldl (fun s b => clearCtr .codewordHist port b s) (portCtrs.foldl (fun s c => clearCtr c port 0 s) s)

def execPortCounters (h : Hdr) (port : Nat) (clear : Bool) (s : State) : Host.Outcome State Fault Refusal :=
  within s (
    .next (qcp { code := 0x0205, reads := true } h (fun s =>
      if (portOf s port).isNone then badParam (po 0)
      else
        .done [flds "COUNTERS" (portCtrs.map (fun c => ctr s c port 0)),
            flds "CODEWORDS" ((List.range 17).map (fun b => ctr s .codewordHist port b))]
          (if clear then portClear port s else s)) s))

/-! ### Lanes (R54-R57) -/

def execLaneStatus (h : Hdr) (first : Nat) (count : Nat) (s : State) : Host.Outcome State Fault Refusal :=
  within s (
    .next (qcp { code := 0x0206, reads := true } h (fun s =>
      if !rangeOk first count 1024 then badParam (po 1)
      else
        let (n, s) := draw s
        .done ((List.range count).flatMap (fun i =>
          let l := first + i
          [fld "ADAPTATION" (Config.adaptation l n), fld "BER" (laneOf s l).ber, fld "SYMBOL_ERRORS" (ctr s .symErrors l 0),
           flds "BURSTS" ((List.range 7).map (fun b => ctr s .burstHist l b))])) s) s))

/-- The port a lane belongs to. -/
def portOfLane (s : State) (l : Nat) : Option (Nat × PortSt) :=
  s.ports.ports.find? (fun e => decide (e.1 ≤ l) && decide (l < e.1 + e.2.width))

/-- A recalibration begins: the engine's tablet is taken, the lane's port goes down. -/
def recalBegins (h : Hdr) (p lane : Nat) (s : State) : State :=
  let s := downPort p .laneRecal (tabletTake .lr [.engine (lane / 16)] h 0x0207 s)
  { s with ports := { s.ports with recals := s.ports.recals ++ [(lane, h)] } }

def execLaneRecal (h : Hdr) (lane : Nat) (force : Bool) (s : State) : Host.Outcome State Fault Refusal :=
  within s (
    .next (qcp { code := 0x0207, world := .nonSecure } h (fun s =>
      if lane ≥ 1024 then badParam (po 0)
      else withTablets .lr [.engine (lane / 16)] s (
        match portOfLane s lane with
        | none => badParam (po 0)
        | some (p, _) =>
          match (if force then none else carries s p) with
          | some a => .refuse .resourceClaimed (some (.aggregate a))
          | none =>
            let s := recalBegins h p lane s
            .pend (if force then loseResource (resCode 4 lane) (setLane lane { laneOf s lane with lost := true } s) else s))) s))

/-- The operating lanes of a port with lost lanes: the lower clean half, else the upper, halving again where neither is clean. -/
def shrink (lost : List Nat) : Nat → Nat → Nat → Nat × Nat
  | 0, low, w => (low, w)
  | n + 1, low, w =>
    let dirty (lo k : Nat) : Bool := lost.any (fun l => decide (lo ≤ l) && decide (l < lo + k))
    if w ≤ 1 ∨ !dirty low w then (low, w)
    else
      let k := w / 2
      if !dirty low k then (low, k) else if !dirty (low + k) k then (low + k, k) else shrink lost n low k

/-- The operating lanes of a port after one of its lanes came back: all its lanes where none is lost; else, with HALVE on, the
largest clean aligned part; else the lanes it runs on (R54, R55). DESIGN CHOICE (log entry 109). -/
def backOn (lost : List Nat) (p : Nat) (ps : PortSt) : Nat × Nat :=
  if lost.isEmpty then (p, ps.width) else if ps.halve then shrink lost 4 p ps.width else (ps.opLow, ps.opWidth)

/-- A lane comes back from its recalibration, whole even where the self-test had lost it; its port is up again on the lanes it can
use. DESIGN CHOICE (log entry 109). -/
def recalEnds (lane : Nat) (s : State) : State :=
  let s := { s with ports := { s.ports with recals := s.ports.recals.filter (fun r => r.1 ≠ lane) } }
  let s := setLane lane { laneOf s lane with lost := false, calOk := true } s
  match portOfLane s lane with
  | some (p, ps) =>
    let (low, w) := backOn (lostLanes s p ps.width) p ps
    upPort p (setPort p { ps with opLow := low, opWidth := w } s)
  | none => s

/-- LANE_RECAL_DONE. -/
def execLaneRecalDone (lane : Nat) (s : State) : Host.Outcome State Fault Refusal :=
  within s (
    match s.ports.recals.find? (fun r => r.1 == lane) with
    | none => .next s
    | some (_, h) => .next (finish h 0x0207 .ok none [] (recalEnds lane s)))

/-- A lane is lost (R55): a port that contains it goes down, unless HALVE is set and it is none of the port's operating lanes; with
HALVE set the port trains on the half without it, and without HALVE it needs all its lanes again. -/
def loseLane (lane : Nat) (s : State) : State :=
  let s := loseResource (resCode 4 lane) (setLane lane { laneOf s lane with lost := true } s)
  match portOfLane s lane with
  | none => s
  | some (p, ps) =>
    if ps.opLow ≤ lane ∧ lane < ps.opLow + ps.opWidth then
      let s := downPort p .laneLoss s
      if ps.halve ∧ ps.opWidth > 1 then
        let k := ps.opWidth / 2
        updPort p (fun x => { x with opLow := if lane < ps.opLow + k then ps.opLow + k else ps.opLow, opWidth := k }) s
      else s
    else if ps.halve then s
    else updPort p (fun x => { x with opLow := p, opWidth := x.width }) (downPort p .laneLoss s)

/-- LANE_LOST: the engine self-test finds a lane failed. -/
def execLaneLost (lane : Nat) (s : State) : Host.Outcome State Fault Refusal :=
  within s (
    if lane ≥ 1024 ∨ (laneOf s lane).lost then .next s
    else .next (loseLane lane (raise (32 * (lane / 32) + 2) s)))

/-- Thresholds in units of 10^-12. -/
def execFecThreshSet (h : Hdr) (port : Nat) (activate : Nat) (clearAt : Nat) (window : Nat) (s : State) :
    Host.Outcome State Fault Refusal :=
  within s (
    .next (qcp { code := 0x0208, world := .nonSecure } h (fun s =>
      match portOf s port with
      | none => badParam (po 0)
      | some ps =>
        if activate < 10000 ∨ activate > 200000000 then badParam (po 1)
        else if clearAt < 10000 ∨ clearAt > 200000000 ∨ clearAt ≥ activate then badParam (po 2)
        else if window < 1 ∨ window > 1024 then badParam (po 3)
        else .done [] (setPort port { ps with fecAct := activate, fecClr := clearAt, fecWin := window } s)) s))

/-- The decade bin of an estimate in units of 10^-12, for the service log. -/
def berBin (e : Nat) : Nat := if e = 0 then 0 else min 10 (Nat.log 10 e + 1)

/-- A lane's estimate of one orbit in units of 10^-12 (R57): ten for each errored symbol, over the 125 bits of each cycle in
which it carried any. DESIGN CHOICE (log entry 107): a lane that carried no bits has the estimate 0 and stands below the clear
threshold. -/
def laneEstimate (x : LaneSt) : Nat := x.errs * 10 * 10 ^ 12 / (125 * x.cycles)

/-- A lane's estimate is judged against its port's thresholds, exactly, and the orbit's counts begin anew. -/
def judgeLane (ps : PortSt) (x : LaneSt) : LaneSt :=
  let errs := x.errs * 10 * 10 ^ 12
  let bits := 125 * x.cycles
  { x with errs := 0, cycles := 0, ber := laneEstimate x, above := if errs > ps.fecAct * bits then x.above + 1 else 0
           below := if errs < ps.fecClr * bits ∨ bits = 0 then x.below + 1 else 0 }

/-- FEC_DEGRADE_EVAL (R57): a port's lanes at an orbit boundary. -/
def fecPort (p : Nat) (ps : PortSt) (s : State) : State :=
  let lanes := (List.range ps.width).map (fun i => p + i)
  let s := lanes.foldl (fun (s : State) l =>
    let x := judgeLane ps (laneOf s l)
    logSum .optics ("BER " ++ toString l ++ " " ++ toString (berBin x.ber)) 1 (setLane l x s)) (countCarried p s)
  let ps := (portOf s p).getD ps
  if !ps.degrade && lanes.any (fun l => decide ((laneOf s l).above ≥ ps.fecWin)) then
    logSum .optics "FEC_DEGRADE_ENTRIES" 1 (raise (32 * (p / 32) + 1) (setPort p { ps with degrade := true } s))
  else if ps.degrade && lanes.all (fun l => decide ((laneOf s l).below ≥ ps.fecWin)) then
    raise (32 * (p / 32) + 1) (setPort p { ps with degrade := false } s)
  else s

def fecEval (s : State) : State := s.ports.ports.foldl (fun (s : State) e => fecPort e.1 e.2 s) s

/-! ### Cartridges (R49-R52) -/

/-- A cartridge supplies light: one handed over, or held by the module until it is restored, carries none (R50, R51). -/
def supplies (x : CartSt) : Bool := x.present && !x.fault && !x.handed && !x.held

/-- The engines of a cartridge's pair. -/
def pairEngines (c : Nat) : List Nat := (List.range 8).map (fun i => 8 * (c % 8) + i)

/-- ENGINES_DOWN (R52): neither cartridge of a pair supplies light. -/
def lightCheck (c : Nat) (s : State) : State :=
  if supplies (cartOf s c) || supplies (cartOf s (partnerCart c)) then s
  else
    (pairEngines c).foldl (fun (s : State) e =>
      if s.ports.engDown.contains e then s
      else
        let s := loseResource (resCode 2 e) { s with ports := { s.ports with engDown := s.ports.engDown ++ [e] } }
        (s.ports.ports.filter (fun x => x.1 / 16 == e)).foldl (fun (s : State) x => downPort x.1 .laneLoss s) s) s

/-- A pair supplies light again: its engines work (R404 keeps them in the set of lost resources). -/
def lightBack (c : Nat) (s : State) : State :=
  if supplies (cartOf s c) || supplies (cartOf s (partnerCart c)) then
    { s with ports := { s.ports with engDown := s.ports.engDown.filter (fun e => !(pairEngines c).contains e) } }
  else s

def pairDoms (c : Nat) : List Domain := [.cartridge c, .cartridge (partnerCart c)]

/-- A cartridge that is absent or reports a fault. -/
def cartBad (s : State) (c : Nat) : Bool := !(cartOf s c).present || (cartOf s c).fault

def execCartHandover (h : Hdr) (cart : Nat) (s : State) : Host.Outcome State Fault Refusal :=
  within s (
    .next (qcp { code := 0x0209, world := .nonSecure } h (fun s =>
      if cart ≥ 16 then badParam (po 0)
      else withTablets .ch (pairDoms cart) s (
        if cartBad s (partnerCart cart) then .refuse .hardwareFault (some (.entry (partnerCart cart)))
        else .pend (setCart cart { cartOf s cart with ramping := some (h, false, true) }
          (tabletTake .ch (pairDoms cart) h 0x0209 s)))) s))

/-- The handover's ramp has ended: the partner carries all of the pair's light, and the bay's indicator turns blue (`bayLight`). -/
def handoverEnds (cart : Nat) (s : State) : State :=
  let s := setCart cart { cartOf s cart with ramping := none, handed := true, share := 0 } s
  let s := setCart (partnerCart cart) { cartOf s (partnerCart cart) with share := 100 } s
  logSum .optics ("CART_HANDOVERS " ++ toString cart) 1 s

/-- CART_HANDOVER_DONE; the tablets stay held until CART_RESTORE completes. -/
def execCartHandoverDone (cart : Nat) (s : State) : Host.Outcome State Fault Refusal :=
  within s (
    match (cartOf s cart).ramping with
    | some (h, false, _) => .next (lightCheck cart (answer h 0x0209 .ok none [] (handoverEnds cart s)))
    | _ => .next s)

/-- Tablets on a cartridge pair that a restore of `c` may not join: all but those of its own handover or of the module's hold. -/
def restoreBlock (s : State) (c : Nat) : Option Tablet :=
  let x := cartOf s c
  s.mode.tablets.find? (fun t => (pairDoms c).contains t.dom &&
    (x.ramping.isSome || !((x.handed && t.act == .ch) || (t.act == .module && t.dom == .cartridge c))))

def execCartRestore (h : Hdr) (cart : Nat) (selfTestOk : Bool) (s : State) : Host.Outcome State Fault Refusal :=
  within s (
    .next (qcp { code := 0x020A, world := .nonSecure } h (fun s =>
      if cart ≥ 16 then badParam (po 0)
      else
        let x := cartOf s cart
        match restoreBlock s cart with
        | some t => .refuse .tabletHeld (some (holderOf t))
        | none =>
          if cartBad s (partnerCart cart) then .refuse .hardwareFault (some (.entry (partnerCart cart)))
          else if !x.present || !selfTestOk then .refuse .hardwareFault (some (.entry cart))
          else if !x.handed && !x.held then badParam (po 0)
          else
            let s := setCart cart { x with ramping := some (h, true, true) } s
            .pend (if x.held then tabletTake .ch [.cartridge (partnerCart cart)] h 0x020A s else s)) s))

/-- The restore's ramp has ended: equal shares, the pair's tablets released. -/
def restoreEnds (cart : Nat) (s : State) : State :=
  let s := setCart cart { cartOf s cart with ramping := none, handed := false, held := false, fault := false, share := 50 } s
  let s := setCart (partnerCart cart) { cartOf s (partnerCart cart) with share := 50 } s
  let keep (t : Tablet) : Bool := !((pairDoms cart).contains t.dom &&
    (t.act == .ch || (t.act == .module && t.dom == .cartridge cart)))
  { s with mode := { s.mode with tablets := s.mode.tablets.filter keep } }

/-- CART_RESTORE_DONE: the ramp back to equal shares ends, or the self-test has failed. -/
def execCartRestoreDone (cart : Nat) (ok : Bool) (s : State) : Host.Outcome State Fault Refusal :=
  within s (
    match (cartOf s cart).ramping with
    | some (h, true, _) =>
      if ok then .next (lightBack cart (answer h 0x020A .ok none [] (restoreEnds cart s)))
      else
        .next (finish h 0x020A .hardwareFault (some (.entry cart)) [] (setCart cart { cartOf s cart with ramping := none } s))
    | _ => .next s)

/-- A cartridge is out of use; its partner takes over the light and the module holds its tablet. -/
def partnerTakesOver (cart : Nat) (absent : Bool) (s : State) : State :=
  let x := cartOf s cart
  let s := setCart cart { x with present := !absent, fault := !absent, share := 0, held := true } s
  let p := partnerCart cart
  let s := if supplies (cartOf s p) then setCart p { cartOf s p with share := 100 } s else s
  if x.held then s
  else { s with mode := { s.mode with tablets := s.mode.tablets ++ [⟨.cartridge cart, .module, 4, 0, 0, 0⟩] } }

/-- CART_FAULT (R51): a cartridge in use fails or is pulled. -/
def execCartFault (cart : Nat) (absent : Bool) (s : State) : Host.Outcome State Fault Refusal :=
  within s (
    let x := cartOf s cart
    if cart ≥ 16 ∨ !x.present ∨ x.handed ∨ (x.fault ∧ !absent) then .next s
    else .next (lightCheck cart (logSum .optics ("CART_FAULTS " ++ toString cart) 1 (partnerTakesOver cart absent s))))

/-- CART_INSERT: a cartridge is fitted into an empty bay. -/
def execCartInsert (cart : Nat) (s : State) : Host.Outcome State Fault Refusal :=
  within s (
    let x := cartOf s cart
    if cart ≥ 16 ∨ x.present then .next s
    else .next (setCart cart { x with present := true, fault := false } s))

/-- CART_REMOVE: a handed-over cartridge is pulled. -/
def execCartRemove (cart : Nat) (s : State) : Host.Outcome State Fault Refusal :=
  within s (
    let x := cartOf s cart
    if cart ≥ 16 ∨ !x.present ∨ !x.handed then .next s
    else .next (setCart cart { x with present := false } s))

def execCartStatus (h : Hdr) (s : State) : Host.Outcome State Fault Refusal :=
  within s (
    .next (qcp { code := 0x020B, reads := true } h (fun s =>
      let (n, s) := draw s
      .done ((List.range 16).flatMap (fun c =>
        let x := cartOf s c
        [flag "PRESENT" x.present, fld "SHARE" x.share, fld "BIAS" (Config.laser c 0 n), fld "TEMPERATURE" (Config.laser c 1 n),
         flag "FAULT" x.fault])) s) s))

end Sys2Proof.Machine
end

