-- ==== Sys2Proof/Machine/Modes.lean ====
section
/-! DEFINITION. Operating modes, DRAIN, HALT, SANITIZE and what survives it, loss of power, tablets (chapters 16 and 17). -/

namespace Sys2Proof.Machine

/-! ### What a reset and a loss of power leave (R329, Table 16-5) -/

/-- The retired channels (R228). -/
def retiredChans (s : State) : Tab Nat ChanSt :=
  (s.hbm.chans.filter (fun e => e.2.st == .retired)).map (fun e => (e.1, { ChanSt.init with st := .retired }))

/-- Zeroes the left column of Table 16-5. -/
def wipeStores (s : State) : State :=
  { s with
    frames := []
    fab := { FabSt.init with halted := s.fab.halted }
    egr := { EgrSt.init with sent := s.egr.sent }
    arr := ArrSt.init
    ver := VerSt.init
    tt := { s.tt with classes := [], meters := [] }
    flow := FlowSt.init
    ucode := UcodeSt.init
    agents := []
    sec := { SecSt.init with epoch := s.sec.epoch + 1 }
    world := { s.world with salt := none }
    hbm := { HbmSt.init with chans := retiredChans s } }

/-- A cartridge after a reset: as it stands in its bay, held where it is absent or faulted (R51). DESIGN CHOICE (log entry 108): a
good cartridge's share stands at 50, whatever its partner. -/
def restartCart (c : CartSt) : CartSt :=
  let bad := !c.present || c.fault
  { CartSt.init with present := c.present, fault := c.fault, held := bad, share := if bad then 0 else 50 }

/-- The state of the module when everything volatile is gone: the reset values, with what Table 16-5 keeps, the cartridges in
their bays, the module's place in time, the pins and the management controller. -/
def restart (m : Mode) (s : State) : State :=
  let carts : Tab Nat CartSt := s.ports.carts.map (fun e => (e.1, restartCart e.2))
  let held : List Tablet := (carts.filter (fun e => e.2.held)).map (fun e => ⟨.cartridge e.1, .module, 4, 0, 0, 0⟩)
  { State.reset with
    pending := s.pending
    fresh := s.fresh
    nextFid := s.nextFid
    time := s.time
    clock := { ClockSt.init with lastAccept := s.time.now }
    ports := { PortsSt.init with carts := carts }
    hbm := { HbmSt.init with chans := retiredChans s }
    sec := { SecSt.init with epoch := s.sec.epoch + 1 }
    world := { WorldSt.init with
      lifecycle := s.world.lifecycle, owners := s.world.owners, svnFused := s.world.svnFused, idGone := s.world.idGone
      keys := s.world.keys, fwA := s.world.fwA, fwB := s.world.fwB, runB := s.world.runB, markB := s.world.markB }
    mode := { ModeSt.init with mode := m, tablets := held }
    log := { s.log with buffered := [], summary := [], noteAt := [], accum := [] }
    mmc := { s.mmc with sanFault := false, noImage := false, softStart := false, coolBad := false, recovery := [] } }

/-- A lifetime counter of the log as a record: its indices and its value (R56, R224, Table 18-4). -/
def lifeRec (o : Nat) (e : (Ctr × Nat × Nat) × Nat) : Option LogRec :=
  match e.1.1 with
  | .eccCorrections => some ⟨.memory, "CORRECTIONS", none, o, [e.1.2.1, e.1.2.2, e.2]⟩
  | .hbmTrr => some ⟨.memory, "HBM_TRR", none, o, [e.1.2.1, e.2]⟩
  | .burstHist => some ⟨.optics, "BURSTS", none, o, [e.1.2.1, e.1.2.2, e.2]⟩
  | .symErrors => some ⟨.optics, "SYMBOL_ERRORS", none, o, [e.1.2.1, e.2]⟩
  | .codewordHist => some ⟨.optics, "CODEWORDS", none, o, [e.1.2.1, e.1.2.2, e.2]⟩
  | _ => none

/-- The laser bias of a cartridge over the hour, its mean and its maximum (R52), both free. -/
def biasRec (o n c : Nat) : LogRec := ⟨.optics, "LASER_BIAS", none, o, [c, Config.laser c 2 n, Config.laser c 3 n]⟩

/-- The summary classes as records (Table 18-4): the quantities accumulated, the lifetime counters, laser bias, LATE totals per
slice, and the environment's histograms, which are free. -/
def summaryRecs (s : State) (n : Nat) : List LogRec :=
  let o := s.time.orbit
  let late (k : Nat) : Nat := ((List.range 32).map (fun i => tget s.log.life (.latePort, 32 * k + i, 0) 0)).sum
  s.log.summary.map (fun e => (⟨e.1.1, e.1.2, none, o, [e.2]⟩ : LogRec)) ++
  s.log.life.filterMap (lifeRec o) ++ (List.range 16).map (biasRec o n) ++
  [⟨.service, "LATE", none, o, allSlices.map late⟩, ⟨.environment, "HISTOGRAMS", none, o, [Config.undefinedRead n]⟩]

/-- What the lifetime counters gained goes into flash (R360). -/
def commitLife (s : State) : State :=
  { s with log := { s.log with
      life := s.log.accum.foldl (fun t e => tset t e.1 (tget t e.1 0 + e.2)) s.log.life
      accum := [] } }

/-- Commits the summary classes to flash (R360); they begin anew. -/
def commitSummary (s : State) : State :=
  let (n, s) := draw (commitLife s)
  { s with log := { s.log with sums := s.log.sums ++ summaryRecs s n, summary := [], commitAt := s.time.tc } }

/-- SANITIZE begins; `why` is the cause the log names: 0 power-on, 1 MOD_RESET_L, 2 a command, 3 the return of power. -/
def enterSanitize (why : Nat) (s : State) : State :=
  enterMode .sanitize (logAdd .use "RESET" none [why] (restart .sanitize s))

/-- A reset that the module requests (R326, R338): the summaries are committed first. -/
def requestedReset (s : State) : State := enterSanitize 2 (commitSummary s)

/-! ### Boot (R332) -/

/-- The ROM verifies the marked image, then the other one; where neither passes only the recovery loader runs. -/
def bootVerify (s : State) : State :=
  let b := s.world.markB
  if (fwValid s b).isSome then { s with world := { s.world with runB := b }, mmc := { s.mmc with noImage := false } }
  else
    let s := logAdd .security "BOOT_IMAGE_FAIL" none [b.toNat] s
    if (fwValid s (!b)).isSome then { s with world := { s.world with runB := !b }, mmc := { s.mmc with noImage := false } }
    else { s with mmc := { s.mmc with noImage := true } }

/-- BOOT begins: CYCLE counts from here (R352), losses that outlast the reset are counted (R404). -/
def enterBoot (s : State) : State :=
  let s := { s with
    pmu := { s.pmu with base := s.time.now }
    mode := { s.mode with resetHeld := false } }
  let s := bootVerify (enterMode .boot s)
  let s := (List.range 8).foldl (fun (s : State) c => lightCheck c s) s
  (List.range 12).foldl (fun (s : State) k => stackCheck (32 * k) s) s

/-- SANITIZE_DONE (R330, R326): on-die zeroing has completed. -/
def execSanitizeDone (readBackOk : Bool) (s : State) : Host.Outcome State Fault Refusal :=
  within s (
    if s.mode.mode ≠ .sanitize ∨ s.mode.phase = .powerOff then .next s
    else if !readBackOk then .next { s with mmc := { s.mmc with sanFault := true } }
    else if s.world.lifecycle = .decommissioned then
      .next { s with mode := { s.mode with phase := .powerOff }, mmc := { s.mmc with pwrGood := false } }
    else if s.mmc.resetLow then .next { s with mode := { s.mode with resetHeld := true } }
    else .next (enterBoot s))

/-- A channel that fails its read-back comes up frozen (R330); what its diagnosis record holds is free. -/
def comeUpFrozen (c : Nat) (s : State) : State :=
  if c ≥ 384 ∨ !chanActive s c then s
  else
    let (n, s) := draw s
    let u := Config.undefinedRead n
    let d : Diag := ⟨u % 4, u / 4 % 8, u / 32 % 8, u / 256 % 512, u / 131072 % 2 ^ 29, s.time.orbit, s.time.headway,
      u / 2 ^ 46 % 2 ^ 16⟩
    let s := updChan c (fun x => { x with st := .frozen, diag := some d }) s
    stackCheck c (logAdd .memory "HBM_FREEZE" none [c] s)

/-- HBM_ZEROING_DONE (R330). -/
def execHbmZeroingDone (failed : List Nat) (s : State) : Host.Outcome State Fault Refusal :=
  within s (
    if s.mode.zeroed ∨ s.mode.mode = .standby then .next s
    else .next (failed.foldl (fun (s : State) c => comeUpFrozen c s) { s with mode := { s.mode with zeroed := true } }))

/-! ### HALT (R341, R342) -/

/-- Every lane goes dark. -/
def lanesDark (s : State) : State := s.ports.ports.foldl (fun (s : State) e => downPort e.1 .modeDark s) s

/-- Every deferred command that has not completed completes with CANCELLED. -/
def cancelPending (s : State) : State :=
  (s.qcp.exec.filter (fun e => e.st == .pending)).foldl
    (fun (s : State) e => finish e.hdr e.opcode .cancelled none [] s) s

/-- Nothing of a deferred command is left to take effect. A version that was committing is OPEN again (R85). -/
def dropDeferred (s : State) : State :=
  { endBlackout s with
    tt := { s.tt with commit := none }
    clock := { (endBlackout s).clock with step := none }
    ver := { s.ver with commit := none, left := [], discard := none }
    flow := { s.flow with flushes := [], scans := s.flow.scans.filter (fun x => x.flush.isNone),
                          writes := s.flow.writes.filter (fun w => w.flush.isNone) }
    hbm := { s.hbm with ordering := []
                        chans := s.hbm.chans.map (fun e =>
                          (e.1, { e.2 with retrain := none, st := if e.2.st = .retraining then .frozen else e.2.st })) }
    ports := { s.ports with recals := [], carts := s.ports.carts.map (fun e => (e.1, { e.2 with ramping := none })) }
    ucode := { s.ucode with load := [] }
    agents := s.agents.map (fun e => (e.1, { e.2 with reset := e.2.reset.map (fun _ => none) }))
    world := { s.world with fwWrite := none, fwSwitch := none, agentLoad := [] }
    mode := { s.mode with phase := .none, drain := none, calib := none, service := none } }

/-- HALT begins; the worlds are locked, as wherever BOOT is left (R321). -/
def enterHalt (s : State) : State :=
  let s := { s with world := { s.world with locked := true } }
  lanesDark (enterMode .halt (dropDeferred (cancelPending s)))

/-- Whether HALT can be entered (Table 17-2). -/
def canHalt (s : State) : Bool :=
  match s.mode.mode with
  | .boot | .calibrate | .service | .holdover => true
  | .drain => s.mode.phase != .wipe && s.mode.phase != .powerOff
  | _ => false

/-- MODULE_FAULT_HALT: the core clock is lost or the signal box has stopped. -/
def execModuleFaultHalt (s : State) : Host.Outcome State Fault Refusal :=
  within s (if canHalt s then .next (enterHalt s) else .next s)

/-- SLICE_HALT: a fault stops one slice; its lanes go dark, its cells are lost (R175), it is a lost resource (R28). -/
def execSliceHalt (slice : Nat) (s : State) : Host.Outcome State Fault Refusal :=
  within s (
    if slice ≥ 32 ∨ sliceHalted s slice ∨ s.mode.mode = .standby ∨ s.mode.mode = .sanitize then .next s
    else
      let s := loseResource (resCode 1 slice) (fabricHalt slice s)
      .next ((s.ports.ports.filter (fun e => e.1 / 32 == slice)).foldl (fun (s : State) e => downPort e.1 .sliceHalt s) s))

/-! ### DRAIN (R343, Table 17-3) -/

/-- A pending timetable commit or time step that is not yet irrevocable completes with CANCELLED. -/
def cancelChanges (s : State) : State :=
  let s := match s.tt.commit with
    | some c =>
      if c.irrevocable || cyclesToTarget s c.target ≤ 80000 then s
      else finish c.hdr 0x0302 .cancelled none [] { s with tt := { s.tt with commit := none } }
    | none => s
  match s.clock.step with
  | some p =>
    if p.irrevocable || cyclesToTarget s p.target ≤ 80000 then s
    else finish p.hdr 0x0805 .cancelled none [] { s with clock := { s.clock with step := none } }
  | none => s

/-- A running calibration stops (R339). -/
def stopCalibration (s : State) : State :=
  match s.mode.calib with
  | some h => finish h 0x0111 .cancelled none [] { s with mode := { s.mode with calib := none } }
  | none => s

/-- Frames not yet on a wire. -/
def waitingFrames (s : State) : List Frame := s.frames.filter (fun f => f.stage != .wire)

/-- DARK begins: what still waits is discarded and counted, every lane goes dark. -/
def goDark (s : State) : State :=
  let fs := waitingFrames s
  let s := fs.foldl (fun (s : State) f => loseFrame f s) s
  let s := bumpBy .drainDiscard 0 0 fs.length s
  let s := { s with
    fab := { FabSt.init with halted := s.fab.halted, gp := s.fab.gp, ap := s.fab.ap }
    egr := { s.egr with
      bufs := [], sides := []
      queues := s.egr.queues.map (fun e => (e.1, { e.2 with items := [], side := [], d := 0, s := 0, spilling := false })) }
    mode := { s.mode with phase := .dark } }
  lanesDark s

/-- The totals MODE_SET DRAIN and MODE_STATUS report. -/
def drainTotals (s : State) : List RField :=
  [fld "MODE_DISCARD" (ctr s .drainModeDiscard 0 0), fld "DRAIN_DISCARD" (ctr s .drainDiscard 0 0)]

/-- In DARK the pending MODE_SET DRAIN gets its final reply. -/
def darkReply (s : State) : State :=
  match s.mode.drain with
  | none => s
  | some h =>
    if s.mode.mode = .drain ∧ s.mode.phase = .dark then
      finish h 0x0111 .ok none (drainTotals s) { s with mode := { s.mode with drain := none } }
    else s

/-- The first cycle of the orbit that runs. -/
def orbitStart (s : State) : Nat := s.time.hwStart - s.time.headway * 256

/-- The in-flight time of the active timetable, in headways (R83). -/
def inflightHw (s : State) : Nat := inflightOrbits (boundHw s) * 6250

/-- EMPTYING begins where an orbit has begun at or after HOLD_MS: the ingress closes. -/
def beginEmptying (s : State) : State :=
  if s.mode.mode = .drain ∧ s.mode.phase = .hold ∧ orbitStart s ≥ s.mode.holdUntil then
    cancelChanges { s with mode := { s.mode with
      phase := .emptying, emptyAt := s.time.hwCount, emptyMax := inflightHw s, emptySeen := false } }
  else s

/-- A timetable that takes effect during EMPTYING may raise its in-flight time. -/
def raiseEmptying (s : State) : State :=
  if s.mode.mode = .drain ∧ s.mode.phase = .emptying then
    { s with mode := { s.mode with emptyMax := max s.mode.emptyMax (inflightHw s) } }
  else s

/-- DARK begins where nothing waited any more at the end of the cycle before, or the in-flight time has passed. -/
def beginDark (s : State) : State :=
  if s.mode.mode = .drain ∧ s.mode.phase = .emptying ∧
      (s.mode.emptySeen = true ∨ s.time.hwCount ≥ s.mode.emptyAt + s.mode.emptyMax) then
    darkReply (goDark s)
  else s

/-- At the end of a cycle of EMPTYING: whether anything still waits (log entry 124). -/
def seeEmpty (s : State) : State :=
  if s.mode.mode = .drain ∧ s.mode.phase = .emptying then
    { s with mode := { s.mode with emptySeen := (waitingFrames s).isEmpty } }
  else s

/-- DRAIN_EMPTYING. -/
def execDrainEmptying (s : State) : Host.Outcome State Fault Refusal := within s (.next (beginEmptying s))

/-- DRAIN_DARK. -/
def execDrainDark (s : State) : Host.Outcome State Fault Refusal := within s (.next (beginDark s))

/-- DRAIN_WIPE_DONE: the key store and Table 16-5's left column are zeroed; POWER_OFF begins and PWR_GOOD falls. -/
def execDrainWipeDone (s : State) : Host.Outcome State Fault Refusal :=
  within s (
    if s.mode.mode = .drain ∧ s.mode.drain.isNone ∧ (s.mode.phase = .dark ∨ s.mode.phase = .wipe) then
      let s := zeroKeys (wipeStores (if s.mode.phase = .dark then commitSummary s else s))
      .next { s with mode := { s.mode with phase := .powerOff }, mmc := { s.mmc with pwrGood := false } }
    else .next s)

/-- POWER_OFF_DONE (R375): the rails are below 5 V; clear-to-remove lights. -/
def execPowerOffDone (s : State) : Host.Outcome State Fault Refusal :=
  within s (
    if s.mode.phase = .powerOff then
      let s := enterMode .standby (restart .standby s)
      .next { s with mmc := { s.mmc with clear := true, needFall := true, pwrGood := false, holdUp := false } }
    else .next s)

/-! ### Loss of main power (R331, R368, Table 16-6) -/

/-- Whether a loss of power or a withdrawal is a surprise removal: outside STANDBY, before DRAIN has completed its wipe. -/
def surprises (s : State) : Bool := s.mode.mode != .standby && s.mode.phase != .powerOff && !s.mmc.holdUp

/-- Surprise removal: forwarding stops, keys are zeroed, the record is written; the uncommitted summary is lost. -/
def surprise (s : State) : State :=
  if !surprises s then s
  else
    let s := zeroKeys s
    let s := { s with
      sec := { SecSt.init with epoch := s.sec.epoch + 1 }
      mmc := { s.mmc with holdUp := true, latched := s.mmc.latched ||| 0x80 }
      log := { s.log with summary := [], accum := [] } }
    logKeep ⟨.security, "SURPRISE_REMOVAL", none, s.time.orbit, [1]⟩ s

/-- HOLD_UP_EXHAUSTED: the hold-up energy runs out. -/
def execHoldUpExhausted (s : State) : Host.Outcome State Fault Refusal :=
  within s (
    if s.mmc.holdUp then
      let s := enterMode .standby (restart .standby s)
      .next { s with mmc := { s.mmc with holdUp := false, pwrGood := false } }
    else .next s)

/-- MAIN_POWER_RETURN: a full reset through SANITIZE. -/
def execMainPowerReturn (s : State) : Host.Outcome State Fault Refusal :=
  within s (if s.mmc.holdUp then .next (enterSanitize 3 { s with mmc := { s.mmc with holdUp := false } }) else .next s)

/-! ### Commands (Table 17-9) -/

def execModeStatus (h : Hdr) (s : State) : Host.Outcome State Fault Refusal :=
  within s (
    .next (qcp { code := 0x0110, reads := true } h (fun s =>
      let (n, s) := draw s
      .done (⟨"MODE_STATUS", 4, [withUndefined (modeWord s) modeUndef n]⟩ :: drainTotals s) s) s))

/-- Whether MODE_SET can reach a target (Table 17-2). -/
def reachable (s : State) (t : Mode) : Bool :=
  match t with
  | .calibrate => s.mode.mode == .boot
  | .service => s.mode.mode == .calibrate || (s.mode.mode == .drain && s.mode.phase == .hold)
  | .drain => [Mode.boot, .calibrate, .service, .holdover].contains s.mode.mode
  | .halt => canHalt s
  | _ => false

/-- Modes a life-cycle state permits (Table 16-3). -/
def lifePermits (l : Lifecycle) (m : Mode) : Bool :=
  match l with
  | .returned => [Mode.standby, .sanitize, .boot, .calibrate, .halt].contains m
  | .decommissioned => m == .standby
  | _ => true

/-- Whether the servo is locked: 8 consecutive accepted samples (Table 17-2). -/
def servoHeld (s : State) : Bool := decide (s.clock.consec ≥ 8)

/-- CALIBRATE begins and the worlds lock (R321, R339). -/
def enterCalibrate (h : Hdr) (s : State) : State :=
  enterMode .calibrate { s with world := { s.world with locked := true }, mode := { s.mode with calib := some h } }

/-- DRAIN begins, at HOLD where frames are forwarded, else at DARK. Leaving BOOT locks the worlds. -/
def enterDrain (h : Hdr) (holdMs : Nat) (s : State) : State :=
  let open_ := s.mode.mode == .service || s.mode.mode == .holdover
  let s := clearCtr .drainModeDiscard 0 0 (clearCtr .drainDiscard 0 0 s)
  let s := { s with
    world := { s.world with locked := true }
    mode := { s.mode with phase := .hold, drain := some h, holdUntil := s.time.now + holdMs * 1600000,
                          drainFrom := s.mode.mode, service := none } }
  let s := enterMode .drain s
  if open_ then s else lanesDark (cancelChanges (stopCalibration { s with mode := { s.mode with phase := .dark } }))

/-- The hold phase ends and forwarding goes on (R343). -/
def leaveDrain (s : State) : State :=
  let s := match s.mode.drain with
    | some d => finish d 0x0111 .cancelled none [] s
    | none => s
  let back := s.mode.drainFrom == .holdover && !servoHeld s
  enterMode (if back then .holdover else .service) { s with mode := { s.mode with phase := .none, drain := none } }

def nextOrbit (s : State) : Nat := (s.time.orbit + 1) % 2 ^ 32

/-- What MODE_SET does at step 8 (R340). -/
def modeSet (h : Hdr) (target : Mode) (holdMs : Nat) (s : State) : Out :=
  if s.mode.mode = .boot ∧ !s.mode.zeroed then .refuse .busy none
  else
    match target with
    | .calibrate => .pend (enterCalibrate h s)
    | .service =>
      if s.mode.mode = .drain then .done [fld "ORBIT" s.time.orbit] (leaveDrain s)
      else if s.mode.calib.isSome then .refuse .busy none
      else if s.tt.active.isNone then .refuse .notFound none
      else .done [fld "ORBIT" (nextOrbit s)] { s with mode := { s.mode with service := some h } }
    | .drain => if holdMs > 60000 then badParam (po 1) else .pend (enterDrain h holdMs s)
    | _ => .done [fld "ORBIT" s.time.orbit] (enterHalt { s with world := { s.world with locked := true } })

def execModeSet (h : Hdr) (target : Mode) (holdMs : Nat) (s : State) : Host.Outcome State Fault Refusal :=
  within s (
    .next (darkReply (qcp { code := 0x0111, world := .secure, modeOk := reachable s target,
                            lifeOk := lifePermits s.world.lifecycle target } h (modeSet h target holdMs) s)))

/-- The lanes of every port of the map. -/
def mapLanes (s : State) : List Nat := s.ports.ports.flatMap (fun e => (List.range e.2.width).map (fun i => e.1 + i))

/-- The lanes of the map as a calibration leaves them: calibrated, or lost (R55). -/
def calibrateLanes (bad : List Nat) (s : State) : State :=
  let s := (mapLanes s).foldl (fun (s : State) l => setLane l { laneOf s l with calOk := !bad.contains l } s) s
  bad.foldl (fun (s : State) l => if (laneOf s l).lost then s else loseLane l (raise (32 * (l / 32) + 2) s)) s

/-- CALIBRATION_DONE (R339): every lit lane is calibrated but those named, which are lost. -/
def execCalibrationDone (failed : List Nat) (s : State) : Host.Outcome State Fault Refusal :=
  within s (
    match s.mode.calib with
    | none => .next s
    | some h =>
      let bad := failed.filter (fun l => (mapLanes s).contains l)
      let s := calibrateLanes bad s
      .next (finish h 0x0111 .ok none [flds "FAILED" bad] { s with mode := { s.mode with calib := none } }))

/-- At an orbit boundary: MODE_SET SERVICE takes effect, in HOLDOVER where the servo is not locked. -/
def serviceBoundary (s : State) : State :=
  match s.mode.service with
  | none => s
  | some _ =>
    let s := { s with mode := { s.mode with service := none } }
    if s.mode.mode ≠ .calibrate then s
    else if servoHeld s then enterMode .service s else enterHoldover s

def actCode : Activity → Nat
  | .rv => 0 | .ag => 1 | .ul => 2 | .al => 3 | .ar => 4 | .hb => 5 | .lr => 6 | .ch => 7 | .tc => 8 | .ts => 9 | .fw => 10
  | .fs => 11 | .cr => 12 | .module => 13

/-- `n` domains of the kind of the first; none where they are not all there. -/
def domsFrom (d : Domain) (n : Nat) : Option (List Domain) :=
  let run (first size : Nat) (f : Nat → Domain) : Option (List Domain) :=
    if rangeOk first n size then some ((List.range n).map (fun i => f (first + i))) else none
  match d with
  | .slice k => run k 32 .slice
  | .stack k => run k 12 .stack
  | .engine k => run k 64 .engine
  | .cartridge k => run k 16 .cartridge
  | .timetable => run 0 1 (fun _ => .timetable)
  | .firmware => run 0 1 (fun _ => .firmware)

def execTabletStatus (h : Hdr) (first : Domain) (count : Nat) (s : State) : Host.Outcome State Fault Refusal :=
  within s (
    .next (qcp { code := 0x0112, reads := true } h (fun s =>
      match domsFrom first count with
      | none => badParam (po 1)
      | some ds => .done (ds.map (fun d => flds "HOLDERS"
          ((s.mode.tablets.filter (fun t => t.dom == d)).flatMap
            (fun t => [actCode t.act, t.source, t.opcode, t.seq, t.tag])))) s) s))

/-- MODULE_RESET: the reset follows at the next orbit boundary, within 10 ms. -/
def execModuleReset (h : Hdr) (s : State) : Host.Outcome State Fault Refusal :=
  within s (
    .next (qcp { code := 0x0113, world := .secure } h (fun s =>
      .done [] { s with mode := { s.mode with resetReq := true } }) s))

end Sys2Proof.Machine
end

