-- ==== Sys2Proof/Machine/Mmc.lean ====
section
/-! DEFINITION. The rear connector, power and the management controller (chapter 19). A happening that finds its pin or supply
already where it would put it changes nothing. -/

namespace Sys2Proof.Machine

/-! ### Power-up (R372, R373) -/

/-- Whether PWR_EN, high as sensed, is acted on now. -/
def startOk (s : State) : Bool :=
  s.mmc.pwrEn && s.mmc.ready && s.mmc.seated && s.mode.mode == .standby && !s.mmc.needFall && !s.mmc.softStart &&
    !s.mmc.coolBad && s.world.lifecycle != .decommissioned

/-- PWR_EN is acted on: soft-start begins; clear-to-remove goes dark (R375). -/
def tryStart (s : State) : State :=
  if startOk s then { s with mmc := { s.mmc with softStart := true, clear := false } } else s

/-- STBY_CONTACT: the controller starts, its registers at reset. -/
def execStbyContact (s : State) : Host.Outcome State Fault Refusal :=
  within s (
    if s.mmc.running then .next s
    else .next { s with mmc := { s.mmc with
      running := true, ready := false, clear := false, latched := 0, softStart := false, needFall := false, address := none } })

/-- MMC_READY: the controller answers; an earlier PWR_EN is acted on. -/
def execMmcReady (s : State) : Host.Outcome State Fault Refusal :=
  within s (if s.mmc.running ∧ !s.mmc.ready then .next (tryStart { s with mmc := { s.mmc with ready := true } }) else .next s)

/-- MODULE_SEATED: PRSNT_L is low. -/
def execModuleSeated (s : State) : Host.Outcome State Fault Refusal :=
  within s (
    if s.mmc.seated then .next s
    else .next (tryStart (logAdd .use "INSERTION" none [] { s with mmc := { s.mmc with seated := true } })))

/-- Whether PWR_EN has been low for 100 ms (R373, R375). -/
def lowLong (s : State) : Bool := s.mmc.lowAt.any (fun t => decide (s.time.now - t ≥ 160000000))

/-- PWR_EN_RISE. A start that R373 or R375 holds back takes a rise after 100 ms low. A rise after a refusal for coolant is the one acted
on once the coolant is back (R379). -/
def execPwrEnRise (s : State) : Host.Outcome State Fault Refusal :=
  within s (.next (tryStart { s with mmc := { s.mmc with
    pwrEn := true, coolBad := false, needFall := s.mmc.needFall && !lowLong s, lowAt := none } }))

/-- PWR_GOOD: the rails are in regulation; SANITIZE begins. -/
def execPwrGood (s : State) : Host.Outcome State Fault Refusal :=
  within s (
    if s.mmc.softStart then
      .next (enterSanitize 0 (logSum .use "POWER_CYCLES" 1 { s with mmc := { s.mmc with softStart := false, pwrGood := true } }))
    else .next s)

/-- SOFT_START_FAIL: POWER_FAULT; a new start needs PWR_EN low first. -/
def execSoftStartFail (s : State) : Host.Outcome State Fault Refusal :=
  within s (
    if s.mmc.softStart then
      .next { s with mmc := { s.mmc with softStart := false, latched := s.mmc.latched ||| 0x01, needFall := true } }
    else .next s)

/-- PWR_EN_FALL (R368): outside STANDBY before DRAIN's wipe it is a loss of main power. -/
def execPwrEnFall (s : State) : Host.Outcome State Fault Refusal :=
  within s (.next (surprise { s with mmc := { s.mmc with
    pwrEn := false, softStart := false, coolBad := false, lowAt := if s.mmc.pwrEn then some s.time.now else s.mmc.lowAt } }))

/-! ### Reset pin (R365) -/

/-- MOD_RESET: a falling edge resets the module through SANITIZE; in STANDBY it is ignored. -/
def execModReset (s : State) : Host.Outcome State Fault Refusal :=
  within s (
    if s.mmc.resetLow then .next s
    else
      let s := { s with mmc := { s.mmc with resetLow := true } }
      if s.mode.mode = .standby then .next s else .next (enterSanitize 1 s))

/-- MOD_RESET_L_RISE: a module held in SANITIZE goes on to BOOT. -/
def execModResetLRise (s : State) : Host.Outcome State Fault Refusal :=
  within s (
    let s := { s with mmc := { s.mmc with resetLow := false } }
    if s.mode.mode = .sanitize ∧ s.mode.resetHeld then .next (enterBoot s) else .next s)

/-! ### Supplies, presence, latch (R368, R374, R376) -/

/-- SURPRISE_REMOVAL: PRSNT_L de-asserts, or main power falls below 40 V. -/
def execSurpriseRemoval (prsnt : Bool) (s : State) : Host.Outcome State Fault Refusal :=
  within s (.next (surprise (if prsnt then { s with mmc := { s.mmc with seated := false } } else s)))

/-- PRSNT_L_RISE: after the wipe or in STANDBY only PRESENT clears; before, it is the surprise removal. -/
def execPrsntLRise (s : State) : Host.Outcome State Fault Refusal :=
  within s (.next (surprise { s with mmc := { s.mmc with seated := false } }))

/-- Latches an alarm of Table 19-3; the controller runs on standby power. -/
def latch (bits : BitVec 8) (s : State) : State :=
  if s.mmc.running then { s with mmc := { s.mmc with latched := s.mmc.latched ||| bits } } else s

/-- INPUT_LOW: forwarding goes on. -/
def execInputLow (s : State) : Host.Outcome State Fault Refusal :=
  within s (.next (logSum .environment "INPUT_LOW" 1 (latch 0x02 s)))

/-- POWER_FAULT: input above 60 V; the main input is isolated. -/
def execPowerFault (s : State) : Host.Outcome State Fault Refusal := within s (.next (surprise (latch 0x01 s)))

/-- STBY_LOW: with main power on it is a loss of main power. -/
def execStbyLow (s : State) : Host.Outcome State Fault Refusal := within s (.next (surprise s))

/-- STANDBY_POWER_REMOVED: the controller stops; clear-to-remove goes dark. -/
def execStandbyPowerRemoved (s : State) : Host.Outcome State Fault Refusal :=
  within s (
    if s.mode.mode = .standby then
      .next { s with mmc := { s.mmc with running := false, ready := false, clear := false, softStart := false, address := none } }
    else .next s)

def execEjectLatchOpen (s : State) : Host.Outcome State Fault Refusal :=
  within s (.next { s with mmc := { s.mmc with eject := true } })

def execEjectLatchClose (s : State) : Host.Outcome State Fault Refusal :=
  within s (.next { s with mmc := { s.mmc with eject := false } })

/-! ### Coolant and temperature (R379) -/

def execCoolantWarn (s : State) : Host.Outcome State Fault Refusal :=
  within s (.next (logSum .environment "COOLANT_WARN" 1 (latch 0x04 s)))

/-- COOLANT_FAULT: PWR_EN was acted on with the coolant out of range; main power is not started. -/
def execCoolantFault (s : State) : Host.Outcome State Fault Refusal :=
  within s (
    if s.mode.mode = .standby ∧ s.mmc.pwrEn then
      .next (logSum .environment "COOLANT_FAULT" 1 (latch 0x08 { s with mmc := { s.mmc with softStart := false, coolBad := true } }))
    else .next s)

def execLeak (s : State) : Host.Outcome State Fault Refusal := within s (.next (logSum .environment "LEAK" 1 (latch 0x10 s)))

def execThermalWarn (s : State) : Host.Outcome State Fault Refusal :=
  within s (.next (logSum .environment "THERMAL_WARN" 1 (latch 0x20 s)))

/-- THERMAL_TRIP: the main input is isolated. -/
def execThermalTrip (s : State) : Host.Outcome State Fault Refusal := within s (.next (surprise (latch 0x40 s)))

/-! ### The management bus (R369-R371, Table 19-4) -/

/-- An answer on the bus: its status code, then its data. -/
def busAnswer (status : Nat) (data : List Nat) (s : State) : State :=
  { s with mmc := { s.mmc with output := s.mmc.output ++ [status :: data] } }

/-- Runs a bus command where the controller answers its address. -/
def onBus (f : State → State) (s : State) : State := if s.mmc.ready then f s else s

def execMmcStatusRead (s : State) : Host.Outcome State Fault Refusal :=
  within s (
    .next (onBus (fun s =>
      let (n, s) := draw s
      busAnswer 0 [withUndefined (mmcWord s) mmcUndef n] s) s))

/-- A write clears the latched alarms written with 1. -/
def execMmcStatusWrite (value : W32) (s : State) : Host.Outcome State Fault Refusal :=
  within s (
    .next (onBus (fun s =>
      busAnswer 0 [] { s with mmc := { s.mmc with latched := s.mmc.latched &&& ~~~ (value.extractLsb' 11 8) } }) s))

/-- ORDERING_CODE (Table 13-9): DVH-SQ2048-LQ, zero-padded. -/
def orderingCode : List Nat := [0x44, 0x56, 0x48, 0x2D, 0x53, 0x51, 0x32, 0x30, 0x34, 0x38, 0x2D, 0x4C, 0x51, 0, 0, 0]

/-- Ordering code, serial number, stepping, life-cycle state. -/
def identityBytes (s : State) : List Nat :=
  orderingCode ++ Config.serial.map (fun b => b.toNat) ++ [0xB0, 0x00, lifeCode s.world.lifecycle]

def execMmcIdentity (s : State) : Host.Outcome State Fault Refusal :=
  within s (.next (onBus (fun s => busAnswer 0 (identityBytes s) s) s))

def execMmcSensors (s : State) : Host.Outcome State Fault Refusal :=
  within s (
    .next (onBus (fun s =>
      let (n, s) := draw s
      busAnswer 0 ((List.range 6).map (fun i => Config.sensor i n)) s) s))

/-- The records of a class, in order: the summaries, then the events. -/
def logRecords (s : State) (c : LogClass) : List LogRec :=
  (s.log.sums ++ s.log.recs).filter (fun r => r.cls == c)

/-- A record as numbers: its world (0 none, 1 non-secure, 2 secure), its orbit, its values, its kind's characters. -/
def recNats (r : LogRec) : List Nat :=
  [((r.world.map worldIx).map (· + 1)).getD 0, r.orbit] ++ r.vals ++ r.kind.toList.map Char.toNat

/-- A 64-byte record as one number. -/
def recWord (r : LogRec) : Nat := (recNats r).foldl (fun a v => a * 2 ^ 64 + v % 2 ^ 64) 0 % 2 ^ 512

/-- MMC_LOG_READ: the record's 64 bytes, as LOG_READ returns them. -/
def execMmcLogRead (cls : LogClass) (index : Nat) (s : State) : Host.Outcome State Fault Refusal :=
  within s (
    .next (onBus (fun s =>
      match (logRecords s cls)[index]? with
      | none => busAnswer 2 [] s
      | some r => busAnswer 0 ((List.range 64).map (fun i => recWord r / 256 ^ i % 256)) s) s))

/-- MMC_RECOVERY_WRITE: only where no image passes; at most 240 bytes. -/
def execMmcRecoveryWrite (slotB : Bool) (offset : Nat) (data : List Byte) (s : State) : Host.Outcome State Fault Refusal :=
  within s (
    .next (onBus (fun s =>
      if data.length > 240 then busAnswer 3 [] s
      else if !s.mmc.noImage then busAnswer 1 [] s
      else busAnswer 0 [] { s with mmc := { s.mmc with recovery := s.mmc.recovery ++ [(slotB, offset, data)] } }) s))

/-- The writes made to one slot. -/
def recoveryOf (s : State) (b : Bool) : List (Nat × List Byte) :=
  (s.mmc.recovery.filter (fun r => r.1 == b)).map (fun r => r.2)

/-- A slot as the recovery writes leave it; untouched where there are none. -/
def recoverSlot (b : Bool) (s : State) : State :=
  if (recoveryOf s b).isEmpty then s else setFwSlot b (Config.recovered (fwSlot s b) (recoveryOf s b)) s

/-- MMC_RECOVERY_BOOT: the ROM verifies both slots and boots. -/
def execMmcRecoveryBoot (s : State) : Host.Outcome State Fault Refusal :=
  within s (
    .next (onBus (fun s =>
      if !s.mmc.noImage then busAnswer 1 [] s
      else
        let s := recoverSlot true (recoverSlot false s)
        busAnswer 0 [] (bootVerify { s with mmc := { s.mmc with recovery := [] } })) s))

/-- ENTDAA: the bus controller assigns a dynamic address, which is free. -/
def execEntdaa (s : State) : Host.Outcome State Fault Refusal :=
  within s (
    .next (onBus (fun s =>
      let (n, s) := draw s
      { s with mmc := { s.mmc with address := some (Config.undefinedRead n % 128) } }) s))

end Sys2Proof.Machine
end

