-- ==== Sys2Proof/Machine/PmuLog.lean ====
section
/-! DEFINITION. Performance counters and the Ranvis service log (chapter 18). -/

namespace Sys2Proof.Machine

/-! ### Event codes (R354, Table 18-3) -/

/-- The codes of a block's kind. -/
def codesOf (block : Nat) : List Nat :=
  if block < 32 then [0x001, 0x002, 0x003, 0x004, 0x005, 0x006, 0x007, 0x008, 0x009, 0x00A, 0x080, 0x081, 0x082, 0x083, 0x084]
  else if block = 32 then [0x101, 0x102, 0x103, 0x180]
  else if block < 45 then [0x201, 0x202, 0x203, 0x204, 0x280]
  else if block = 45 then [0x301, 0x302, 0x303, 0x380, 0x381]
  else []

/-- Whether a control word's EVENT is valid in a block, with OCC as its kind asks. -/
def wordValid (block : Nat) (w : BitVec 64) : Bool :=
  let c := field w 0 10
  (codesOf block).contains c && (w.getLsbD 11 == decide (c % 256 ≥ 128))

/-- Reserved bits of a control word: [15:13], [31] and [63:56]. -/
def ctlReserved : BitVec 64 := 0xFF0000008000E000#64

/-- A control word as written: OVF clear; a reserved bit set leaves the word free (R8). -/
def ctlWritten (w : BitVec 64) (n : Nat) : BitVec 64 :=
  (if w &&& ctlReserved = 0 then w else BitVec.ofNat 64 (Config.undefinedRead n)) &&& ~~~ (BitVec.ofNat 64 (2 ^ 12))

/-! ### Occupancies -/

/-- An occupancy of a block, for the instance a qualifier names, or summed over all. -/
def occValue (s : State) (block code qual : Nat) (all : Bool) : Nat :=
  let is_ (n : Nat) : Bool := all || n == qual
  match code with
  | 0x080 => (bufOf s block).poolE + transitE s block
  | 0x081 => (bufOf s block).stagE
  | 0x082 => ((s.fab.voqE.filter (fun e => e.1.1 == block && is_ e.1.2)).map (fun e => e.2.length)).sum
  | 0x083 => ((s.egr.queues.filter (fun e => e.1.1 / 32 == block && is_ (e.1.1 + 1024 * e.1.2))).map
      (fun e => e.2.d + (if e.1.2 < 4 then 0 else e.2.s))).sum
  | 0x084 => stashUse s block
  | 0x180 => (s.fab.transit.filter (fun c => is_ c.via)).length
  | 0x280 => ((s.hbm.chans.filter (fun e => 33 + e.1 / 32 == block && is_ (e.1 % 32))).map (fun e => e.2.trq.length)).sum
  | 0x380 => (if is_ 0 then inExec s .nonSecure else 0) + (if is_ 1 then inExec s .secure else 0)
  | 0x381 => (s.arr.queues.map (fun q => q.2.length)).sum
  | _ => 0

/-- Whether a control word counts this cycle by its occupancy. -/
def occExceeds (s : State) (block : Nat) (w : BitVec 64) : Bool :=
  w.getLsbD 10 && w.getLsbD 11 && decide (field w 0 10 % 256 ≥ 128) &&
    decide (occValue s block (field w 0 10) (field w 16 14) (w.getLsbD 30) > field w 32 24)

/-- At the start of a cycle: the PMCs whose occupancy exceeds its threshold (R353). -/
def occStart (s : State) : State :=
  { s with pmu := { s.pmu with occ := (s.pmu.ctl.filter (fun e => occExceeds s e.1.1 e.2)).map (fun e => e.1) } }

/-- What one PMC adds in this cycle: its event's occurrences, and 1 for its occupancy. -/
def pmcGain (s : State) (key : Nat × Nat) : Nat :=
  ((s.pmu.now.filter (fun x => x.1 == key.1 && pmcMatches (tget s.pmu.ctl key 0) x.2.1 x.2.2.1)).map (fun x => x.2.2.2)).sum +
    (s.pmu.occ.contains key).toNat

/-- What PMU_CONFIG wrote to one counter takes effect. -/
def pmcWrite (key : Nat × Nat) (w : BitVec 64) (zero : Bool) (s : State) : State :=
  { s with pmu := { s.pmu with
      ctl := tset s.pmu.ctl key w
      pmc := if zero then tset s.pmu.pmc key 0 else s.pmu.pmc } }

/-- The counters at the end of a cycle (R353, R355, R358): the PMCs add, those written in this cycle take what was written and discard
their increment, and the user page's setting changes. -/
def pmcEnd (s : State) : State :=
  let keys := (s.pmu.ctl.map (fun e => e.1)).filter (fun k => !(s.pmu.cfg.any (fun x => x.1 == k)))
  let t := keys.foldl (fun (t : State) k => if pmcGain s k = 0 then t else pmcAdd k (pmcGain s k) t) s
  let t := s.pmu.cfg.foldl (fun (t : State) x => pmcWrite x.1 x.2.1 x.2.2 t) t
  { t with pmu := { t.pmu with now := [], occ := [], cfg := [], user := t.pmu.userNx.getD t.pmu.user, userNx := none } }

/-! ### Commands (Table 18-5) -/

/-- CYCLE (R352). -/
def cycleCount (s : State) : Nat := s.time.now - s.pmu.base

/-- The world rule of a command that names several blocks: violated by any block of the other world (R273). -/
def blocksRule (s : State) (h : Hdr) (bs : List Nat) : WRule :=
  match ringWorld s h.ring with
  | none => .both
  | some w => if bs.all (fun b => worldOf s .counterBlock b == w) then .both
    else .owned (some (if w = .secure then .nonSecure else .secure))

/-- PMU_CONFIG: the words take effect at the end of the cycle (R355). -/
def execPmuConfig (h : Hdr) (block : Nat) (words : List PmcSet) (zero : Bool) (s : State) : Host.Outcome State Fault Refusal :=
  within s (
    .next (qcp { code := 0x0B01,
                 world := .owned (if block < 46 then some (worldOf s .counterBlock block) else none) } h (fun s =>
      if block ≥ 46 then badParam (po 0)
      else if words.any (fun x => decide (x.counter > 7)) then badParam (po 1)
      else
        match words.find? (fun x => !wordValid block x.word) with
        | some x => badEntry x.counter
        | none =>
          let (n, s) := draw s
          .done [] { s with pmu := { s.pmu with
            cfg := s.pmu.cfg ++ words.map (fun x => ((block, x.counter), ctlWritten x.word n, zero)) } }) s))

/-- The control words of a block. -/
def ctlFld (s : State) (b : Nat) : RField := flds "CONTROL" ((List.range 8).map (fun i => (tget s.pmu.ctl (b, i) 0).toNat))

/-- CYCLE and the PMCs of a block, as they stand or as the snapshot holds them. -/
def pmuFlds (s : State) (snapshot : Bool) (b : Nat) : List RField :=
  let t := if snapshot then s.pmu.snap else s.pmu.pmc
  [fld "CYCLE" (if snapshot then tget s.pmu.snapAt b 0 else cycleCount s),
   flds "PMC" ((List.range 8).map (fun i => tget t (b, i) 0)), ctlFld s b]

/-- Zeroes the PMCs of a block and clears OVF. -/
def pmuClear (b : Nat) (s : State) : State :=
  (List.range 8).foldl (fun (s : State) i =>
    let w := tget s.pmu.ctl (b, i) 0 &&& ~~~ (BitVec.ofNat 64 (2 ^ 12))
    { s with pmu := { s.pmu with pmc := tset s.pmu.pmc (b, i) 0, ctl := tset s.pmu.ctl (b, i) w } }) s

def execPmuRead (h : Hdr) (blocks : BitVec 46) (snapshot : Bool) (clear : Bool) (s : State) :
    Host.Outcome State Fault Refusal :=
  within s (
    .next (qcp { code := 0x0B02, world := blocksRule s h (bitsOf blocks), reads := true } h (fun s =>
      let bs := bitsOf blocks
      if snapshot && bs.any (fun b => (tfind s.pmu.snapAt b).isNone) then .refuse .notFound none
      else .done (bs.flatMap (pmuFlds s snapshot)) (if clear then bs.foldl (fun s b => pmuClear b s) s else s)) s))

def execPmuSnapshot (h : Hdr) (blocks : BitVec 46) (s : State) : Host.Outcome State Fault Refusal :=
  within s (
    .next (qcp { code := 0x0B03, world := blocksRule s h (bitsOf blocks) } h (fun s =>
      .start { s with pmu := { s.pmu with wait := s.pmu.wait ++ [(h, bitsOf blocks)] } }) s))

/-- Latches a block into the snapshot set. -/
def snapBlock (b : Nat) (s : State) : State :=
  { s with pmu := { s.pmu with
      snapAt := tset s.pmu.snapAt b (cycleCount s)
      snap := (List.range 8).foldl (fun t i => tset t (b, i) (tget s.pmu.pmc (b, i) 0)) s.pmu.snap } }

/-- At a headway boundary the snapshots asked for are latched and their commands complete (R356). -/
def pmuHeadway (s : State) : State :=
  let wait := s.pmu.wait
  wait.foldl (fun (s : State) (x : Hdr × List Nat) =>
    answer x.1 0x0B03 .ok none [fld "ORBIT" s.time.orbit, fld "HEADWAY" s.time.headway]
      (x.2.foldl (fun s b => snapBlock b s) s)) { s with pmu := { s.pmu with wait := [] } }

def execPmuUserSet (h : Hdr) (enable : Bool) (s : State) : Host.Outcome State Fault Refusal :=
  within s (
    .next (qcp { code := 0x0B04, world := .secure } h (fun s =>
      .done [] { s with pmu := { s.pmu with userNx := some enable } }) s))

/-- What a 64-bit read of the user counter page returns (R357, R358). -/
def userPage (s : State) (offset : Nat) : Nat :=
  let b := offset / 0x80
  let r := offset % 0x80
  if !s.pmu.user ∨ b ≥ 46 ∨ worldOf s .counterBlock b = .secure ∨ r % 8 ≠ 0 then 0
  else if r = 0 then cycleCount s
  else if r ≤ 0x40 then tget s.pmu.pmc (b, r / 8 - 1) 0
  else 0

/-! ### The service log -/

def logClasses : List LogClass := [.environment, .optics, .memory, .use, .service, .security, .notes]

def execLogStatus (h : Hdr) (s : State) : Host.Outcome State Fault Refusal :=
  within s (
    .next (qcp { code := 0x0D01, reads := true } h (fun s =>
      let (n, s) := draw s
      let used := 64 * (s.log.sums.length + s.log.recs.length)
      .done [fld "USED" used, fld "FREE" (2 ^ 29 - used), flds "RECORDS" (logClasses.map (fun c => (logRecords s c).length)),
        fld "OVERWRITTEN" (ctr s .logOverwritten 0 0), fld "LAST_COMMIT" s.log.commitAt, fld "WEAR" (Config.wear n)] s) s))

def execLogRead (h : Hdr) (cls : LogClass) (first : Nat) (count : Nat) (s : State) : Host.Outcome State Fault Refusal :=
  within s (
    .next (qcp { code := 0x0D02, reads := true } h (fun s =>
      if count < 1 ∨ count > 64 then badParam (po 2)
      else
        let rs := ((logRecords s cls).drop first).take count
        .done (rs.map (fun r => ⟨r.kind, 64, [recWord r]⟩) ++ [fld "NEXT_CURSOR" (first + rs.length)]) s) s))

/-- Whether a world added a note less than one second ago; `noteAt` is the cycle after the last. -/
def noteBusy (s : State) (w : World) : Bool :=
  let t := tget s.log.noteAt w 0
  t != 0 && decide (s.time.now + 1 < t + 1600000000)

def execLogAnnotate (h : Hdr) (note : List Byte) (s : State) : Host.Outcome State Fault Refusal :=
  within s (
    .next (qcp { code := 0x0D03 } h (fun s =>
      let w := (ringWorld s h.ring).getD .nonSecure
      if noteBusy s w then .refuse .busy none
      else if note.length < 1 ∨ note.length > 32 then badParam (po 0)
      else
        let n := (logRecords s .notes).length
        let s := logAdd .notes "NOTE" (some w) (note.map (fun b => b.toNat)) s
        .done [fld "RECORD" n] { s with log := { s.log with noteAt := tset s.log.noteAt w (s.time.now + 1) } }) s))

/-- The hour of network time of a time-counter value. -/
def hourOf (tc : Nat) : Nat := tc / 65536 / 3600000000000

/-- The summaries are committed where the hour of network time has changed since the last commit. -/
def hourlyCommit (s : State) : State := if hourOf s.time.tc ≠ hourOf s.log.commitAt then commitSummary s else s

/-- LOG_HOURLY_COMMIT. -/
def execLogHourlyCommit (s : State) : Host.Outcome State Fault Refusal := within s (.next (hourlyCommit s))

end Sys2Proof.Machine
end

