-- ==== Sys2Proof/Machine/Events.lean ====
section
/-! DEFINITION. The event controller (chapter 15): sources, eligibility, claims, ends of interrupt, MSI-X messages. -/

namespace Sys2Proof.Machine

/-! ### Sources (Table 15-1, R314) -/

/-- Whether a transmit SA of a slice is exhausted. -/
def pnHard (s : State) (k : Nat) : Bool :=
  s.sec.chans.any (fun e => e.2.tx && e.2.port / 32 == k && e.2.sas.any (fun a => saDone e.2 a.2))

/-- Whether a port of a slice sends preemptable frames whole (R408). -/
def preemptIdle (s : State) (k : Nat) : Bool := s.ports.ports.any (fun e => e.1 / 32 == k && e.2.link && !e.2.preOn)

/-- The condition of a level source; none for an edge source and for a number the table does not allocate. -/
def levelCond (s : State) (n : Nat) : Option Bool :=
  if n < 1024 then
    if n % 32 = 8 then some (pnHard s (n / 32))
    else if n % 32 = 9 then some (preemptIdle s (n / 32))
    else if n % 32 = 10 then some (agentOf s (n / 32)).halted.isSome
    else none
  else if n < 1408 then some (chanFrozen s (n - 1024))
  else if n < 1424 then some (cartFaulted s (n - 1408))
  else if n < 1440 then some (cartOf s (n - 1424)).handed
  else if n = 1442 then some (!s.clock.alignValid)
  else if n = 1460 then some (s.mode.mode == .holdover)
  else if 1462 ≤ n ∧ n ≤ 1466 then some (!(pinOf s (n - 1462)).captures.isEmpty)
  else if n = 1489 then some (degraded s)
  else if n = 1490 then some s.mmc.eject
  else none

/-- Whether the table allocates a number as an edge source. -/
def isEdge (n : Nat) : Bool :=
  (decide (n < 1024) && decide (n % 32 ≤ 11) && !(decide (8 ≤ n % 32) && decide (n % 32 ≤ 10))) ||
    [1440, 1441, 1456, 1457, 1458, 1459, 1461, 1467, 1472, 1473, 1474, 1475, 1488, 1491].contains n ||
    (decide (2016 ≤ n) && decide (n ≤ 2046))

/-- Secure sources (R314). -/
def isSecureSrc (s : State) (n : Nat) : Bool :=
  n == 1473 || (decide (1462 ≤ n) && decide (n ≤ 1465) && worldOf s .timeIo (n - 1462) == .secure)

/-- A source's pending bit. -/
def pendingBit (s : State) (n : Nat) : Bool :=
  match levelCond s n with
  | some b => b
  | none => s.evc.pend.contains n

/-- A source's priority. -/
def prioOf (s : State) (n : Nat) : Nat := field (tget s.evc.prio (n / 8) 0) (4 * (n % 8)) 4

/-- Sources enabled for a target. The host's are those of its registers that it may carry; the service processor's firmware
enables the secure sources and SW_TO_SP (R401). -/
def enabledSrcs (s : State) (sp : Bool) : List Nat :=
  if sp then (1473 :: [1462, 1463, 1464, 1465]).filter (isSecureSrc s) ++ (List.range 16).map (fun i => 2016 + i)
  else (s.evc.enable.filter (fun e => !e.1.1)).flatMap (fun e =>
    (bitsOf e.2).map (fun b => 32 * e.1.2 + b)) |>.filter (fun n => !isSecureSrc s n)

def runPrio (s : State) (sp : Bool) : Nat := ((tget s.evc.stk sp []).head?).getD 0

/-- Sources eligible for a target. -/
def evcEligible (s : State) (sp : Bool) : List Nat :=
  (enabledSrcs s sp).filter (fun n => pendingBit s n && decide (prioOf s n > runPrio s sp))

/-- The highest priority, the lowest number among equals. -/
def bestSrc (s : State) : List Nat → Option Nat
  | [] => none
  | n :: ns =>
    match bestSrc s ns with
    | none => some n
    | some m => if prioOf s n > prioOf s m ∨ (prioOf s n = prioOf s m ∧ n < m) then some n else some m

/-- The host target's request line. -/
def lineNow (s : State) : Bool := !(evcEligible s false).isEmpty

/-! ### Claims and ends (R316, R317) -/

/-- Reserved bits of EVC_CLAIM. -/
def claimUndef : Nat := 0xFFF0F800

/-- The claim itself: the word it returns, and the state. -/
def claim (sp : Bool) (s : State) : Nat × State :=
  match bestSrc s (evcEligible s sp) with
  | none => (0x7FF, s)
  | some n =>
    let stk := tget s.evc.stk sp []
    if stk.length ≥ 16 then (0x7FF, { s with evc := { s.evc with ovf := insertNew sp s.evc.ovf } })
    else
      let p := prioOf s n
      (n + p * 2 ^ 16, { s with evc := { s.evc with
        stk := tset s.evc.stk sp (p :: stk), pend := s.evc.pend.filter (fun m => m ≠ n) } })

def execEvcClaim (sp : Bool) (s : State) : Host.Outcome State Fault Refusal :=
  within s (
    if sp || barOpen s then
      let (n, s) := draw s
      let (v, s) := claim sp s
      .next { s with evc := { s.evc with answer := tset s.evc.answer sp (withUndefined v claimUndef n) } }
    else .next s)

/-- An EOI pops the stack as it stands at the end of its cycle (log entry 119); where it leaves the host's line asserted a message is due again. -/
def eoi (sp : Bool) (s : State) : State :=
  match tget s.evc.stk sp [] with
  | [] => { s with evc := { s.evc with eoiEmpty := insertNew sp s.evc.eoiEmpty } }
  | _ :: rest => { s with evc := { s.evc with stk := tset s.evc.stk sp rest, line := s.evc.line && sp } }

def execEvcEoi (sp : Bool) (s : State) : Host.Outcome State Fault Refusal :=
  within s (.next (if sp || barOpen s then deferWrite (.evcEoi sp) s else s))

/-- Whether a writer may change a source's pending bit (R313-R315). -/
def mayWrite (s : State) (sp : Bool) (n : Nat) : Bool :=
  isEdge n && (sp || !isSecureSrc s n) &&
    (if n < 2016 then true else if sp then decide (n ≥ 2032) else decide (n < 2032))

/-- A write of EVC_PENDING[n]. -/
def pendingWrite (sp : Bool) (n : Nat) (value : W32) (s : State) : State :=
  if n ≥ 64 then s
  else
    let bits := (List.range 32).filter (fun b => mayWrite s sp (32 * n + b))
    let pend := bits.foldl (fun (l : List Nat) b =>
      if value.getLsbD b then insertNew (32 * n + b) l else l.filter (fun m => m ≠ 32 * n + b)) s.evc.pend
    { s with evc := { s.evc with pend := pend } }

def execEvcPendingWrite (sp : Bool) (n : Nat) (value : W32) (s : State) : Host.Outcome State Fault Refusal :=
  within s (.next (if sp || barOpen s then deferWrite (.evcPending sp n value) s else s))

/-- The enable bits the host target has in a register: all but those of secure sources and SW_TO_SP (R314, R401). -/
def enableMask (s : State) (n : Nat) : W32 :=
  (List.range 32).foldl (fun (m : W32) b =>
    let src := 32 * n + b
    if !isSecureSrc s src && !(decide (2016 ≤ src) && decide (src < 2032))
    then m ||| BitVec.ofNat 32 (2 ^ b) else m) 0

def enableWrite (n : Nat) (value : W32) (s : State) : State :=
  { s with evc := { s.evc with enable := tset s.evc.enable (false, n) (value &&& enableMask s n) } }

def prioWrite (n : Nat) (value : W32) (s : State) : State :=
  { s with evc := { s.evc with prio := tset s.evc.prio n value } }

/-! ### MSI-X (R316, R387) -/

/-- One message goes out. -/
def sendMsix (s : State) : State :=
  pmcCount 45 0x303 0 1 (bump .msixSent 0 0 { s with evc := { s.evc with sent := s.evc.sent + 1, held := false } })

/-- The host target's line has risen, or stayed asserted at an EOI: a message goes out, or is held by a masked vector. -/
def lineMessage (s : State) : State :=
  if lineNow s ∧ !s.evc.line then
    let s := { s with evc := { s.evc with line := true } }
    if s.evc.masked then { s with evc := { s.evc with held := true } } else sendMsix s
  else s

/-- MSIX_MESSAGE. -/
def execMsixMessage (s : State) : Host.Outcome State Fault Refusal := within s (.next (lineMessage s))

/-- The controller at the end of a cycle, after its writes: the edges of the cycle are pending (R10), a line that has fallen rises anew
when it next rises, and one that has risen sends its message. -/
def evcEnd (s : State) : State :=
  let s := { s with evc := { s.evc with pend := s.evc.setNow.foldl (fun l n => insertNew n l) s.evc.pend, setNow := [] } }
  lineMessage { s with evc := { s.evc with line := s.evc.line && lineNow s } }

def unmask (s : State) : State :=
  let s := { s with evc := { s.evc with masked := false } }
  if s.evc.held then sendMsix s else s

def execMsixVectorUnmask (s : State) : Host.Outcome State Fault Refusal := within s (.next (deferWrite .unmask s))

end Sys2Proof.Machine
end

