-- ==== Sys2Proof/Machine/Registers.lean ====
section
/-! DEFINITION. The host registers (chapter 20): ring registers and indices, time readout, access errors, PERST#, and every
write to a register without a row of its own. -/

namespace Sys2Proof.Machine

/-- BAR_ACCESS_ERR of a function; it saturates. -/
def barError (w : World) (s : State) : State :=
  if ctr s .barAccessErr (worldIx w) 0 ≥ 2 ^ 32 - 1 then s else bump .barAccessErr (worldIx w) 0 s

def execBarAccessFault (w : World) (s : State) : Host.Outcome State Fault Refusal :=
  within s (if barOpen s then .next (barError w s) else .next s)

def execBarAccessErrRead (w : World) (s : State) : Host.Outcome State Fault Refusal :=
  within s (
    if barOpen s then
      .next (clearCtr .barAccessErr (worldIx w) 0
        { s with evc := { s.evc with barRead := tset s.evc.barRead w (ctr s .barAccessErr (worldIx w) 0) } })
    else .next s)

/-! ### Time readout (R386) -/

/-- The time counter (Table 11-2), orbit, headway index, cycles since its start. -/
def timeLatch (s : State) : List Nat := [tcWord s.time.tc, s.time.orbit, s.time.headway, hwPos s]

def execTimeLoRead (w : World) (s : State) : Host.Outcome State Fault Refusal :=
  within s (
    if barOpen s then
      .next { s with clock := { s.clock with latches := tset s.clock.latches w (timeLatch s) } }
    else .next s)

/-! ### Rings (R267, R383, R384) -/

/-- PF1 has no trap and time ring (R382). -/
def hasRing (w : World) (k : RingKind) : Bool := w == .nonSecure || k == .command || k == .reply

/-- An index write refused: DB_ERR, and the function's count. -/
def indexRefused (w : World) (k : RingKind) (s : State) : State :=
  barError w (updRing w k (fun g => { g with dbErr := true }) s)

/-- A tail write of the command ring. -/
def doorbell (w : World) (tail : Nat) (s : State) : State :=
  if tail ≥ ringSize (ringOf s w .command) then indexRefused w .command s
  else updRing w .command (fun g => { g with prod := tail }) s

def execCommandDoorbell (w : World) (tail : Nat) (s : State) : Host.Outcome State Fault Refusal :=
  within s (.next (if barOpen s then deferWrite (.doorbell w tail) s else s))

/-- A head write of a reply, trap or time ring. -/
def headWrite (w : World) (k : RingKind) (head : Nat) (s : State) : State :=
  let g := ringOf s w k
  if k = .command ∨ !hasRing w k then s
  else if head ≥ ringSize g then indexRefused w k s
  else if (head + ringSize g - g.cons % ringSize g) % ringSize g > ringHeld g then indexRefused w k s
  else updRing w k (fun g => { g with cons := head }) s

def execRingHeadWrite (w : World) (kind : RingKind) (head : Nat) (s : State) : Host.Outcome State Fault Refusal :=
  within s (.next (if barOpen s then deferWrite (.ringHead w kind head) s else s))

/-- Base and size within R267's limits. -/
def ringValid (k : RingKind) (g : RingSt) : Bool :=
  decide (g.base % 4096 = 0) && decide (g.log2 ≤ 16) && decide ((if k = .time then 8 else 6) ≤ g.log2)

def ringEnable (w : World) (k : RingKind) (s : State) : State :=
  if !hasRing w k then s
  else updRing w k (fun g => if g.enable then g else if ringValid k g then { g with enable := true } else { g with cfgErr := true }) s

def execRingEnable (w : World) (kind : RingKind) (s : State) : Host.Outcome State Fault Refusal :=
  within s (.next (if barOpen s then deferWrite (.ringEnable w kind) s else s))

/-- ENABLE is cleared; both indices become 0 once the ring is IDLE. -/
def ringDisable (w : World) (k : RingKind) (s : State) : State :=
  if !(ringOf s w k).enable then s
  else
    let s := updRing w k (fun g => { g with enable := false }) s
    if ringIdle s w k then updRing w k (fun g => { g with prod := 0, cons := 0, lap := 0 }) s else s

def execRingDisable (w : World) (kind : RingKind) (s : State) : Host.Outcome State Fault Refusal :=
  within s (.next (if barOpen s then deferWrite (.ringDisable w kind) s else s))

/-- Changes a ring's base or size, where it is disabled and IDLE; else CFG_ERR. -/
def ringConfig (w : World) (k : RingKind) (f : RingSt → RingSt) (s : State) : State :=
  if !hasRing w k then s
  else if ringIdle s w k then updRing w k f s
  else updRing w k (fun g => { g with cfgErr := true }) s

/-- BASE_LO as written: bits [11:0] are reserved, and a write that sets one leaves the rest of that register free (R8). -/
def baseLoWritten (v n : Nat) : Nat := if v % 4096 = 0 then v % 2 ^ 32 else Config.undefinedRead n % 2 ^ 20 * 4096

/-- A base as written: BASE_LO and BASE_HI. -/
def baseWritten (v n : Nat) : Nat := baseLoWritten v n + v / 2 ^ 32 % 2 ^ 32 * 2 ^ 32

/-- A LOG2_SIZE as written; bits above 4 are reserved. -/
def log2Written (v n : Nat) : Nat := if v < 32 then v else Config.undefinedRead n % 32

/-- A write of a ring's base and size. -/
def configWrite (w : World) (kind : RingKind) (base log2Size : Nat) (s : State) : State :=
  ringConfig w kind (fun g => { g with base := baseWritten base s.fresh, log2 := log2Written log2Size s.fresh }) (drawn s)

def execRingConfigWrite (w : World) (kind : RingKind) (base : Nat) (log2Size : Nat) (s : State) :
    Host.Outcome State Fault Refusal :=
  within s (.next (if barOpen s then deferWrite (.ringConfig w kind base log2Size) s else s))

/-! ### Trace stream indices (R385) -/

/-- The world whose ring streams an agent's trace. -/
def streamWorld (s : State) (k : Nat) : Option World := (agentOf s k).stream.bind (fun x => ringWorld s x.1.ring)

def traceHead (w : World) (slice head : Nat) (s : State) : State :=
  match (agentOf s slice).stream with
  | none => s
  | some (_, _, entries) =>
    let a := agentOf s slice
    if streamWorld s slice ≠ some w then violateBy 1 0x2000 1 w s
    else if head ≥ entries then barError w s
    else if (head + entries - a.sHead) % entries > (a.sTail + entries - a.sHead) % entries then barError w s
    else updAgent slice (fun a => { a with sHead := head }) s

def execTraceHeadWrite (w : World) (slice : Nat) (head : Nat) (s : State) : Host.Outcome State Fault Refusal :=
  within s (.next (if barOpen s ∧ slice < 32 then deferWrite (.traceHead w slice head) s else s))

/-! ### PERST# (R366) -/

def allRings : List (World × RingKind) :=
  [(.nonSecure, .command), (.nonSecure, .reply), (.nonSecure, .trap), (.nonSecure, .time), (.secure, .command), (.secure, .reply)]

/-- PERST#: every ring is disabled; replies that wait are discarded and counted. -/
def execPerst (s : State) : Host.Outcome State Fault Refusal :=
  within s (
    let gone := (tget s.qcp.waiting .secure []).length + (tget s.qcp.waiting .nonSecure []).length
    let s := bumpBy .pcieResetDiscard 0 0 gone { s with
      mmc := { s.mmc with perst := true }
      qcp := { s.qcp with waiting := tdel (tdel s.qcp.waiting .secure) .nonSecure } }
    .next (allRings.foldl (fun (s : State) r => ringDisable r.1 r.2 s) s))

def execPerstRise (s : State) : Host.Outcome State Fault Refusal :=
  within s (.next { s with mmc := { s.mmc with perst := false } })

/-! ### Register writes (R9, Tables 15-2, 20-2 to 20-5, R387) -/

def kindOfSet : Nat → RingKind
  | 0 => .command | 1 => .reply | 2 => .trap | _ => .time

/-- CTRL of a ring: W1C errors, then ENABLE. A write that sets a reserved bit leaves the writable bits free (R8). -/
def ctrlWrite (w : World) (k : RingKind) (v : W32) (s : State) : State :=
  if v.toNat ≥ 16 then
    let (n, s) := draw s
    let u := Config.undefinedRead n
    updRing w k (fun g => { g with enable := u.testBit 0, cfgErr := u.testBit 1, dbErr := u.testBit 2 }) s
  else
    let s := updRing w k (fun g => { g with cfgErr := g.cfgErr && !v.getLsbD 2, dbErr := g.dbErr && !v.getLsbD 3 }) s
    if v.getLsbD 0 then ringEnable w k s else ringDisable w k s

/-- A write of PROD or CONS: only the index the host writes (Table 20-3). -/
def indexWrite (w : World) (k : RingKind) (prod : Bool) (v : W32) (s : State) : State :=
  if v.toNat ≥ 65536 then
    if prod != (k == .command) then s
    else
      let (n, s) := draw s
      updRing w k (fun g => if prod then { g with prod := Config.undefinedRead n % ringSize g }
        else { g with cons := Config.undefinedRead n % ringSize g }) s
  else if prod then (if k = .command then doorbell w v.toNat s else s)
  else headWrite w k v.toNat s

/-- A write inside the ring block. -/
def ringReg (w : World) (k : RingKind) (reg : Nat) (v : W32) (s : State) : State :=
  if !hasRing w k then s
  else
    match reg with
    | 0x00 =>
      let (n, s) := draw s
      ringConfig w k (fun g => { g with
        base := g.base / 2 ^ 32 * 2 ^ 32 + baseLoWritten v.toNat n }) s
    | 0x04 => ringConfig w k (fun g => { g with base := g.base % 2 ^ 32 + v.toNat * 2 ^ 32 }) s
    | 0x08 =>
      let (n, s) := draw s
      ringConfig w k (fun g => { g with log2 := log2Written v.toNat n }) s
    | 0x0C => ctrlWrite w k v s
    | 0x10 => indexWrite w k true v s
    | 0x14 => indexWrite w k false v s
    | _ => s

/-- EVC_RUNPRIO: the two W1C flags; a write that sets a reserved bit leaves them free (R8). -/
def runPrioWrite (v : W32) (s : State) : State :=
  if v &&& 0xFFFCFE00 ≠ 0 then
    let (n, s) := draw s
    let u := Config.undefinedRead n
    let keep (b : Bool) (l : List Bool) : List Bool := if b then insertNew false l else l.filter (fun x => x)
    { s with evc := { s.evc with ovf := keep (u.testBit 0) s.evc.ovf, eoiEmpty := keep (u.testBit 1) s.evc.eoiEmpty } }
  else
    let drop (b : Bool) (l : List Bool) : List Bool := if b then l.filter (fun x => x) else l
    { s with evc := { s.evc with ovf := drop (v.getLsbD 16) s.evc.ovf, eoiEmpty := drop (v.getLsbD 17) s.evc.eoiEmpty } }

/-- A write inside the event controller's block. -/
def evcReg (reg : Nat) (v : W32) (s : State) : State :=
  if reg < 0x100 then pendingWrite false (reg / 4) v s
  else if reg < 0x200 then enableWrite (reg / 4 - 64) v s
  else if reg < 0x600 then prioWrite (reg / 4 - 128) v s
  else if reg = 0x604 then eoi false s
  else if reg = 0x608 then runPrioWrite v s
  else s

/-- A write of the MSI-X table entry, PF0 only. -/
def msixReg (reg : Nat) (v : W32) (s : State) : State :=
  match reg with
  | 0x0 => { s with evc := { s.evc with msixAddr := s.evc.msixAddr / 2 ^ 32 * 2 ^ 32 + v.toNat } }
  | 0x4 => { s with evc := { s.evc with msixAddr := s.evc.msixAddr % 2 ^ 32 + v.toNat * 2 ^ 32 } }
  | 0x8 => { s with evc := { s.evc with msixData := v.toNat } }
  | 0xC => if v.getLsbD 0 then { s with evc := { s.evc with masked := true } } else unmask s
  | _ => s

/-- A write of TRACE_HEAD; reserved bits set leave the head free (R8). -/
def traceReg (w : World) (slice : Nat) (v : W32) (s : State) : State :=
  if v.toNat < 65536 then traceHead w slice v.toNat s
  else
    match (agentOf s slice).stream with
    | none => s
    | some (_, _, entries) =>
      if streamWorld s slice ≠ some w then violateBy 1 0x2000 1 w s
      else
        let (n, s) := draw s
        updAgent slice (fun a => { a with sHead := Config.undefinedRead n % entries }) s

/-- A 32-bit write of BAR0 through a world's function; offsets outside the assigned blocks, read-only registers and the
user counter page ignore it. -/
def registerWrite (w : World) (offset : Nat) (v : W32) (s : State) : State :=
  if offset % 4 ≠ 0 then barError w s
  else if 0x1000 ≤ offset ∧ offset < 0x1100 then
    ringReg w (kindOfSet ((offset - 0x1000) / 0x40)) (offset % 0x40) v s
  else if 0x2000 ≤ offset ∧ offset < 0x2100 then
    (if offset % 8 = 4 then traceReg w ((offset - 0x2000) / 8) v s else s)
  else if 0x10000 ≤ offset ∧ offset < 0x11000 then evcReg (offset - 0x10000) v s
  else if 0x30000 ≤ offset ∧ offset < 0x30010 ∧ w = .nonSecure then msixReg (offset - 0x30000) v s
  else s

def execRegisterWrite (w : World) (offset : Nat) (value : W32) (s : State) : Host.Outcome State Fault Refusal :=
  within s (.next (if barOpen s then deferWrite (.register w offset value) s else s))

end Sys2Proof.Machine
end

