-- ==== Sys2Proof/Machine/Qcp.lean ====
section
/-! DEFINITION. The command protocol's own commands and happenings (chapter 13): identity, cancellation, the in-band binding,
fetching, timeouts, replies. -/

namespace Sys2Proof.Machine

/-! ### Opcodes (R287) -/

/-- The assigned opcodes, as ranges. -/
def opcodeRanges : List (Nat × Nat) :=
  [(0x0101, 0x0105), (0x0110, 0x0113), (0x0201, 0x020C), (0x0301, 0x0306), (0x0401, 0x0419), (0x0501, 0x0506),
   (0x0601, 0x060A), (0x0701, 0x0709), (0x0720, 0x0721), (0x0801, 0x080C), (0x0901, 0x090C), (0x0910, 0x0915)] ++
  [(0x0920, 0x092B), (0x0A01, 0x0A07), (0x0B01, 0x0B04), (0x0B10, 0x0B12), (0x0C01, 0x0C0A), (0x0C10, 0x0C15),
   (0x0D01, 0x0D03), (0x0E01, 0x0E03), (0x0E10, 0x0E12), (0x0E20, 0x0E20)]

def assigned (code : Nat) : Bool := opcodeRanges.any (fun r => decide (r.1 ≤ code) && decide (code ≤ r.2))

/-! ### Fetching (R269, R272) -/

/-- A little-endian number of `n` bytes at an offset (R6). -/
def leAt (b : List Byte) (off n : Nat) : Nat := ((List.range n).map (fun i => (b.getD (off + i) 0).toNat * 256 ^ i)).sum

/-- The first reserved header field or reserved FLAGS bit that is not zero (Table 13-1). -/
def resvAt (b : List Byte) : Option Nat :=
  if leAt b 1 1 ≥ 8 then some 0x01 else if leAt b 0x0A 2 ≠ 0 then some 0x0A else if leAt b 0x18 8 ≠ 0 then some 0x18 else none

/-- The command header in a slot (Table 13-1). -/
def rawOf (r : Ring) (b : List Byte) : RawCmd :=
  ⟨leAt b 0 1, leAt b 2 2, leAt b 8 2, (leAt b 1 1).testBit 2, resvAt b,
   ⟨r, leAt b 4 4, leAt b 0x10 8, (leAt b 1 1).testBit 0, (leAt b 1 1).testBit 1, leAt b 0x0C 4⟩⟩

/-- Slots a command takes. -/
def slotsOf (length : Nat) : Nat := (length + 63) / 64

/-- Steps 1 and 2 of Table 13-2 as the first slot shows them: the command is fetched at once with that slot. -/
def firstSlotBad (c : RawCmd) (size : Nat) : Bool :=
  c.version != 1 || decide (c.length < 32) || decide (c.length > 4096) || decide (slotsOf c.length > size - 1)

/-- Steps 1 to 4 of Table 13-2. `size` is the ring's size in slots; the virtual in-band ring sets no limit of slots. -/
def headerCheck (c : RawCmd) (size : Option Nat) : Option (Status × Option Detail) :=
  if c.version ≠ 1 then some (.badVersion, none)
  else if decide (c.length < 32) || decide (c.length > 4096) || size.any (fun n => decide (slotsOf c.length > n - 1)) then
    some (.badLength, none)
  else if c.indirect ∧ c.length ≠ 48 then some (.badLength, none)
  else if !assigned c.opcode then some (.badOpcode, none)
  else
    match c.resvOffset with
    | some o => some (.badParam, some (.param o))
    | none => if c.hdr.timeoutUs > 60000000 then some (.badParam, some (.param 0x0C)) else none

/-- The first waiting reply of a ring lacks room, so fetching stops (R279). -/
def replyStalled (s : State) (w : World) : Bool :=
  match tget s.qcp.waiting (hostRing w) [] with
  | [] => false
  | r :: _ => decide (ringRoom (ringOf s w .reply) < slotsOf (replyBytes r.detail r.results))

/-- Whether a host ring's command may be fetched now. -/
def mayFetch (s : State) (w : World) : Bool :=
  protocolRuns s && (ringOf s w .command).enable && !replyStalled s w && decide (inExec s (hostRing w) < 4096)

/-- The command joins those in execution, or is refused. -/
def fetched (c : RawCmd) (size : Option Nat) (inb : Option (Nat × BitVec 48)) (s : State) : State :=
  let s := fetchCmd c.hdr c.opcode inb s
  match headerCheck c size with
  | some (st, d) => answer c.hdr c.opcode st d [] s
  | none => s

/-- COMMAND_FETCH: the command at the head of a world's command ring, whose first slot is given. -/
def execCommandFetch (f : FetchedSlot) (s : State) : Host.Outcome State Fault Refusal :=
  within s (
    let w := f.world
    let c := rawOf (hostRing w) f.bytes
    let g := ringOf s w .command
    let n := if firstSlotBad c (ringSize g) then 1 else slotsOf c.length
    .next (if !mayFetch s w || decide (ringHeld g < n) then s
      else fetched c (some (ringSize g)) none (updRing w .command (advanceCons n) s)))

/-! ### In-band commands (R284-R286) -/

def execQcpInbandSet (h : Hdr) (port : Nat) (world : World) (channel : Nat) (queue : Nat) (enable : Bool) (s : State) :
    Host.Outcome State Fault Refusal :=
  within s (
    .next (qcp { code := 0x0104, world := .secure } h (fun s =>
      if !enable then
        .done [] (if s.qcp.inband.any (fun b => b.port == port) then { s with qcp := { s.qcp with inband := none } } else s)
      else
        match portOf s port with
        | none => badParam (po 0)
        | some ps =>
          if ps.pol.rxValidate != .strict || ps.pol.txProtect != .confidential || decide (ps.maxLen < 8250) then badParam (po 0)
          else if !(match tfind s.sec.chans channel with | some c => c.port == port && !c.tx | none => false) then
            badParam (po 2)
          else if queue < 4 ∨ queue > 15 then badParam (po 3)
          else .done [] { s with qcp := { s.qcp with inband := some ⟨port, world, channel, queue⟩ } }) s))

/-- The command of an in-band frame, which follows the 8-byte in-band header, stands in the virtual ring. -/
def inbandCmd (f : InbandFrame) : RawCmd := rawOf .inband (f.payload.drop 8)

/-- INB_VERSION is 0x01, FRAG_LAST is set and FRAG_INDEX is 0, as a command frame has them. -/
def inbandHeaderOk (f : InbandFrame) : Bool :=
  leAt f.payload 0 1 == 1 && (leAt f.payload 1 1).testBit 0 && leAt f.payload 2 1 == 0 && decide (f.payload.length ≥ 40)

/-- SESSION, in network byte order (R6). -/
def inbandSession (f : InbandFrame) : Nat := beAt f.payload 4 4

/-- INBAND_COMMAND: a frame of EtherType 0x88B5 on the bound port; on other ports it is an ordinary frame. -/
def execInbandCommand (f : InbandFrame) (s : State) : Host.Outcome State Fault Refusal :=
  within s (
    match s.qcp.inband with
    | none => .next s
    | some b =>
      if f.port ≠ b.port ∨ !ingressOpen s then .next s
      else if f.channel != some b.channel || !f.checksOk || !inbandHeaderOk f then .next (bump .inbandRefused 0 0 s)
      else if inExec s .inband ≥ 64 then .next (bump .inbandOverflow 0 0 s)
      else
        let c := inbandCmd f
        let inb := some (inbandSession f, f.src)
        match headerCheck c none with
        | some _ => .next (fetched c none inb s)
        | none =>
          let s := fetchCmd c.hdr c.opcode inb s
          .next (if c.indirect then answer c.hdr c.opcode .badParam (some (.param 0x20)) [] s else s))

/-! ### Timeouts (R280) -/

/-- A started command that is called off before its commit point takes no effect. -/
def callOff (h : Hdr) (s : State) : State :=
  let s := dropWaits h { s with
    pmu := { s.pmu with wait := s.pmu.wait.filter (fun x => x.1 != h) }
    arr := { s.arr with queries := s.arr.queries.filter (fun q => q.hdr != h) }
    ucode := { s.ucode with swap := s.ucode.swap.filter (fun x => x.hdr != h) } }
  let mine (f : Frame) : Bool := match f.ptp with
    | some (x, _, _, _) => x == h
    | none => false
  (s.frames.filter mine).foldl (fun (s : State) f =>
    dropFrame f.fid { takeOut f s with clock := { s.clock with ptpPending := s.clock.ptpPending - 1 } }) s

/-- Whether an entry's timeout has expired; a blackout's cycles do not count (R282). -/
def timedOut (s : State) (e : ExecEnt) : Bool :=
  e.hdr.timeoutUs != 0 && e.st != .pending && s.qcp.blackout.isNone &&
    decide (s.time.now - e.fetched - e.paused ≥ 1600 * e.hdr.timeoutUs)

/-- A command whose timeout has expired is cancelled with no effect. -/
def expire (e : ExecEnt) (s : State) : State :=
  let w := ((ringWorld s e.hdr.ring).map worldIx).getD 0
  finish e.hdr e.opcode .timeout none [] (bump .qcpTimeouts w 0 (callOff e.hdr s))

/-- The first command of a ring with a sequence and tag whose timeout has expired. -/
def expiring (ring : Ring) (seq tag : Nat) (s : State) : Option ExecEnt :=
  s.qcp.exec.find? (fun e => e.hdr.ring == ring && e.hdr.seq == seq && e.hdr.tag == tag && timedOut s e)

/-- A COMMAND_TIMEOUT of this cycle, at its end. -/
def commandTimeout (ring : Ring) (seq tag : Nat) (s : State) : State :=
  match expiring ring seq tag s with
  | none => s
  | some e => expire e s

/-- COMMAND_TIMEOUT: it waits for the end of the cycle, since a commit point in the same cycle wins (R10). -/
def execCommandTimeout (ring : Ring) (seq : Nat) (tag : Nat) (s : State) : Host.Outcome State Fault Refusal :=
  within s (.next (if (expiring ring seq tag s).isSome then deferWrite (.timeout ring seq tag) s else s))

/-- Every timeout that expires in this cycle. -/
def timeoutsCycle (s : State) : State :=
  if s.qcp.exec.isEmpty then s
  else (s.qcp.exec.filter (timedOut s)).foldl (fun s e => commandTimeout e.hdr.ring e.hdr.seq e.hdr.tag s) s

/-! ### Replies (R274, R275, R279, R286) -/

/-- Status codes (Table 13-7). -/
def statusCode : Status → Nat
  | .ok => 0x0000 | .pending => 0x0001 | .badVersion => 0x0100 | .badOpcode => 0x0101 | .badLength => 0x0102
  | .badParam => 0x0103 | .worldViolation => 0x0200 | .modeNotPermitted => 0x0201 | .lifecycleNotPermitted => 0x0202
  | .tabletHeld => 0x0300 | .resourceClaimed => 0x0301 | .busy => 0x0302 | .tableFull => 0x0400 | .notFound => 0x0401
  | .exists_ => 0x0402 | .versionLimit => 0x0403 | .contractInfeasible => 0x0500 | .timetableMismatch => 0x0501
  | .signatureFail => 0x0600 | .imageIncompatible => 0x0601 | .timeout => 0x0700 | .cancelled => 0x0701
  | .running => 0x0702 | .channelFrozen => 0x0800 | .hardwareFault => 0x0801

/-- An error detail (Table 13-4). -/
def detailBytes : Detail → List Byte
  | .param o => leNum 4 1 ++ leNum 4 o ++ leNum 8 0
  | .holder src op seq tag => leNum 1 2 ++ leNum 1 src ++ leNum 2 op ++ leNum 4 seq ++ leNum 8 tag
  | .entry v => leNum 4 3 ++ leNum 4 v ++ leNum 8 0
  | .aggregate a => leNum 4 4 ++ leNum 4 a ++ leNum 8 0
  | .orbit hw o => leNum 4 5 ++ leNum 4 hw ++ leNum 8 o
  | .stage w st => leNum 4 6 ++ leNum 4 (w + st * 65536) ++ leNum 8 0

/-- A reply's bytes (Table 13-3); `u` fills the reserved ones, which read undefined. -/
def replyImage (r : Reply) (phase : Bool) (u : Nat) : List Byte :=
  leNum 1 1 ++ leNum 1 (r.detail.isSome.toNat + (u % 64) * 2 + 128 * phase.toNat) ++ leNum 2 (statusCode r.status) ++
  leNum 4 r.hdr.seq ++ leNum 2 (replyBytes r.detail r.results) ++ leNum 2 r.opcode ++ leNum 4 r.elapsed ++
  leNum 8 r.hdr.tag ++ leNum 8 (u / 64) ++ ((r.detail.map detailBytes).getD []) ++
  r.results.flatMap (fun f => f.vals.flatMap (leNum f.width))

/-- The frame of one in-band reply fragment: addresses, EtherType, in-band header, payload, padding; its FCS makes 4 bytes
more. Fields of the packet stand in network byte order (R6). The module's own address is free. -/
def inbandBytes (session : Nat) (dst : BitVec 48) (index : Nat) (last : Bool) (u : Nat) (body : List Byte) : List Byte :=
  let be (n v : Nat) : List Byte := (leNum n v).reverse
  let l := be 6 dst.toNat ++ be 6 u ++ be 2 0x88B5 ++ be 1 1 ++ be 1 last.toNat ++ be 1 index ++ be 1 0 ++
    be 4 session ++ body
  l ++ List.replicate (60 - l.length) 0

/-- Sends one frame of a reply into the bound queue. -/
def sendInband (b : InbandBind) (bytes : List Byte) (s : State) : State :=
  let f := { supplied s b.port b.queue bytes with len := bytes.length + 4, outLen := bytes.length + 4 }
  let s := { s with nextFid := s.nextFid + 1 }
  if portUp s b.port then takeIn f (cellsOf f.len) s else bump .portDownDiscard b.port 0 s

/-- A reply's frames: fragments of 8,192 bytes. -/
def sendReply (r : Reply) (s : State) : State :=
  match r.inb, s.qcp.inband with
  | some (session, src), some b =>
    let (n, s) := draw s
    let u := Config.undefinedRead n
    let img := replyImage r false u
    if img.length ≤ 8192 then sendInband b (inbandBytes session src 0 true (u / 2 ^ 64) img) s
    else sendInband b (inbandBytes session src 1 true (u / 2 ^ 64) (img.drop 8192))
      (sendInband b (inbandBytes session src 0 false (u / 2 ^ 64) (img.take 8192)) s)
  | _, _ => s

/-- DRAIN's final reply written, WIPE begins; the summaries are committed first (R343, R360). -/
def afterReply (r : Reply) (s : State) : State :=
  if r.opcode = 0x0111 ∧ r.status = .ok ∧ s.mode.mode = .drain ∧ s.mode.phase = .dark ∧ s.mode.drain.isNone then
    let s := commitSummary s
    { s with mode := { s.mode with phase := .wipe } }
  else s

/-- Takes the first waiting reply of a ring as written; a draw fills its undefined bits. -/
def noteWritten (ring : Ring) (phase : Bool) (r : Reply) (rest : List Reply) (s : State) : State :=
  settleRing ring (afterReply r { drawn s with qcp := { s.qcp with
    waiting := tset s.qcp.waiting ring rest, written := s.qcp.written ++ [(ring, phase, r, s.fresh)] } })

/-- The bytes of a written reply as they stand in host memory. -/
def writtenImage (e : Ring × Bool × Reply × Nat) : List Byte := replyImage e.2.2.1 e.2.1 (Config.undefinedRead e.2.2.2)

/-- REPLY_WRITE: the first waiting reply of a ring, where its ring has room for all of its slots. -/
def execReplyWrite (ring : Ring) (s : State) : Host.Outcome State Fault Refusal :=
  within s (
    let host (w : World) (src : Nat) : State :=
      match tget s.qcp.waiting ring [] with
      | [] => s
      | r :: rest =>
        let g := ringOf s w .reply
        let n := slotsOf (replyBytes r.detail r.results)
        if ringRoom g < n then s
        else raise src (noteWritten ring (g.lap % 2 == 0) r rest (updRing w .reply (advanceProd n) s))
    match ring with
    | .secure => .next (host .secure 1473)
    | .nonSecure => .next (host .nonSecure 1472)
    | .inband =>
      match tget s.qcp.waiting .inband [] with
      | [] => .next s
      | r :: rest => .next (noteWritten .inband false r rest (sendReply r s)))

/-! ### Commands (Table 13-8) -/

/-- The defined fields of the identity record (Table 13-9). -/
def identityRec (s : State) (n : Nat) : List RField :=
  let ver (b : Bool) : Nat := ((fwValid s b).map (fun i => i.version)).getD 0
  let svn (b : Bool) : Nat := ((fwValid s b).map (fun i => i.svn)).getD 0
  let u := Config.undefinedRead n
  [⟨"ORDERING_CODE", 1, orderingCode⟩, ⟨"SERIAL", 1, Config.serial.map (fun b => b.toNat)⟩, ⟨"STEPPING", 2, [0x00B0]⟩,
   ⟨"LIFECYCLE", 1, [lifeCode s.world.lifecycle]⟩, ⟨"MODE", 1, [modeCode s.mode.mode]⟩,
   ⟨"FW_VERSION", 4, [ver false, ver true]⟩, ⟨"SVN", 2, [svn false, svn true]⟩, ⟨"SVN_FUSED", 2, [s.world.svnFused]⟩,
   ⟨"FLAGS", 1, [s.world.runB.toNat + 2 * (degraded s).toNat + 4 * (u % 64)]⟩,
   ⟨"RESERVED", 1, (List.range 17).map (fun i => u / 256 ^ (i + 1) % 256)⟩]

def execModuleInfo (h : Hdr) (s : State) : Host.Outcome State Fault Refusal :=
  within s (
    .next (qcp { code := 0x0101, reads := true } h (fun s =>
      let (n, s) := draw s
      .done (identityRec s n) s) s))

def execQcpEcho (h : Hdr) (data : List Byte) (s : State) : Host.Outcome State Fault Refusal :=
  within s (
    .next (qcp { code := 0x0102, reads := true } h (fun s =>
      if data.length > 4064 then badParam (po 0) else .done [bytesFld "DATA" data] s) s))

def execQcpCancel (h : Hdr) (seq : Nat) (tag : Nat) (s : State) : Host.Outcome State Fault Refusal :=
  within s (
    .next (qcp { code := 0x0103, reads := true } h (fun s =>
      match s.qcp.exec.find? (fun e => e.hdr.ring == h.ring && e.hdr.seq == seq && e.hdr.tag == tag &&
          !(e.hdr == h && e.opcode == 0x0103)) with
      | none => .refuse .notFound none
      | some e =>
        if e.st = .fetched then .done [] (finish e.hdr e.opcode .cancelled none [] s) else .refuse .running none) s))

/-- Clears the statistics of a world, its execution count apart. -/
def clearStats (w : Nat) (s : State) : State :=
  [Ctr.trapRingDrop, .inbandRefused, .inbandOverflow].foldl (fun s c => clearCtr c 0 0 s)
    ([Ctr.cmdsFetched, .qcpTimeouts, .qcpReplyStall, .execMax].foldl (fun s c => clearCtr c w 0 s) s)

def execQcpStats (h : Hdr) (clear : Bool) (s : State) : Host.Outcome State Fault Refusal :=
  within s (
    .next (qcp { code := 0x0105, reads := true } h (fun s =>
      let w := ((ringWorld s h.ring).map worldIx).getD 0
      let rs := [fld "COMMANDS" (ctr s .cmdsFetched w 0), fld "QCP_TIMEOUTS" (ctr s .qcpTimeouts w 0),
        fld "QCP_REPLY_STALL" (ctr s .qcpReplyStall w 0), fld "EXEC_NOW" (inExec s h.ring), fld "EXEC_MAX" (ctr s .execMax w 0),
        fld "TRAP_RING_DROP" (ctr s .trapRingDrop 0 0), fld "INBAND_REFUSED" (ctr s .inbandRefused 0 0),
        fld "INBAND_OVERFLOW" (ctr s .inbandOverflow 0 0)]
      .done rs (if clear then clearStats w s else s)) s))

end Sys2Proof.Machine
end

