-- ==== Sys2Proof/Machine/TtLayout.lean ====
section
/-! DEFINITION. How a timetable image lies in its bytes (Tables 1-6, 1-7, 1-12 to 1-23). Each reader answers a section's content
and whether its bytes are sound: exactly as long as its counts say, with every reserved byte 0 (R41). A byte beyond the end reads as 0 in
the content, and the section is then not sound. -/

namespace Sys2Proof.Machine

/-- Bytes as a number, the first most significant: a digest. -/
def beNat (bs : List Byte) : Nat := bs.foldl (fun n b => n * 256 + b.toNat) 0

/-- `n` bytes from an offset on. -/
def span (bs : List Byte) (off n : Nat) : List Byte := (bs.drop off).take n

/-- The little-endian number in `n` bytes from an offset on (R6). -/
def num (bs : List Byte) (off n : Nat) : Nat := (span bs off n).foldr (fun b x => b.toNat + 256 * x) 0

/-- As many bytes as stated, no more and no fewer. -/
def exactly (n : Nat) (bs : List Byte) : Bool := (bs.drop n).isEmpty && (n == 0 || !(bs.drop (n - 1)).isEmpty)

/-- Reserved bytes are 0. -/
def clear (bs : List Byte) (off n : Nat) : Bool := (span bs off n).all (fun b => b == 0)

/-- Up to `count` records of `n` bytes each. -/
def records (n : Nat) : Nat → List Byte → List (List Byte)
  | 0, _ => []
  | count + 1, bs => if (bs.drop (n - 1)).isEmpty then [] else bs.take n :: records n count (bs.drop n)

/-! ### Sections -/

/-- RESERVE (Table 1-12). -/
def readReserve (bs : List Byte) : Reserve × Bool :=
  let p := num bs 0 2
  let counts := (span bs 16 (p * 8192)).zipIdx.filterMap (fun e =>
    if e.1 == 0 then none
    else some ⟨e.2 / 8192, e.2 / 1024 % 8, e.2 / 32 % 32, e.2 % 32, e.1.toNat⟩)
  (⟨p, counts⟩, exactly (16 + p * 8192) bs && clear bs 2 14)

/-- METER (Table 1-13). -/
def readMeters (bs : List Byte) : List MeterRec × Bool :=
  let n := num bs 0 4
  let rs := records 16 n (bs.drop 16)
  (rs.map (fun r => ⟨num r 0 1, num r 2 2, num r 4 2, BitVec.ofNat 64 (num r 8 8)⟩),
    exactly (16 + 16 * n) bs && clear bs 4 12 && rs.all (fun r => clear r 1 1 && clear r 6 2))

/-- An aggregate record (Table 1-14). -/
def readAgg (r : List Byte) : QAgg :=
  let f := num r 5 1
  { agg := num r 0 2, cls := num r 2 1, equeue := num r 3 1, ncAction := num r 4 1, flowState := f.testBit 0,
    crossHop := f.testBit 1, mcast := f.testBit 2, egress := num r 6 2, kL := num r 8 2, kA := num r 10 2, prec := num r 12 2 }

/-- QMAP (Tables 1-14 to 1-16). -/
def readQmap (bs : List Byte) : QMap × Bool :=
  let a := num bs 0 4
  let c := num bs 4 4
  let e := num bs 8 4
  let aggs := records 16 a (bs.drop 16)
  let classes := records 112 c (bs.drop (16 + 16 * a))
  let egms := records 16 e (bs.drop (16 + 16 * a + 112 * c))
  (⟨aggs.map readAgg,
    classes.map (fun r => ⟨num r 0 1, num r 2 2, num r 4 2, num r 6 2, BitVec.ofNat 384 (num r 0x10 48),
      BitVec.ofNat 384 (num r 0x40 48)⟩),
    egms.map (fun r => ⟨num r 0 2, num r 2 1, BitVec.ofNat 64 (num r 8 8)⟩)⟩,
    exactly (16 + 16 * a + 112 * c + 16 * e) bs && clear bs 12 4 &&
      aggs.all (fun r => decide (num r 5 1 < 8) && clear r 14 2) && classes.all (fun r => clear r 1 1 && clear r 8 8) &&
      egms.all (fun r => clear r 3 5))

/-- HBMCAL (Table 1-17). -/
def readCal (bs : List Byte) : List CalEnt × Bool :=
  let rs := records 16 384 bs
  (rs.map (fun r => ⟨num r 0 2, num r 2 2, num r 4 2, num r 6 2, num r 8 2⟩),
    exactly 6144 bs && rs.all (fun r => clear r 10 6))

/-- SPARE (Table 1-18). -/
def readSpare (bs : List Byte) : List SpareRec × Bool :=
  ((records 96 32 bs).map (fun r => ⟨BitVec.ofNat 256 (num r 0 32), BitVec.ofNat 256 (num r 0x20 32), BitVec.ofNat 256 (num r 0x40 32)⟩),
    exactly 3072 bs)

/-- The blocks of DEMAND, and whether they fill the bytes exactly. -/
def readBlocks : Nat → List Byte → List DemBlock × Bool
  | 0, bs => ([], bs.isEmpty)
  | n + 1, bs =>
    if (bs.drop 7).isEmpty then ([], false)
    else
      let m := num bs 2 2
      let ts := records 8 m (bs.drop 8)
      let r := readBlocks n (bs.drop (8 + 8 * m))
      (⟨num bs 0 2, ts.map (fun t => ⟨BitVec.ofNat 32 (num t 0 4), num t 4 4⟩)⟩ :: r.1, ts.length == m && clear bs 4 4 && r.2)

/-- DEMAND (Table 1-19). -/
def readDemand (bs : List Byte) : List DemBlock × Bool :=
  let r := readBlocks (num bs 0 4) (bs.drop 16)
  (r.1, !(bs.drop 15).isEmpty && clear bs 4 12 && r.2)

/-- A replacement section that a variant record names at an offset, with its length; none where the base section stays. -/
def readPart {α : Type} (bs rec : List Byte) (at_ : Nat) (f : List Byte → α × Bool) : Option α × Bool :=
  let off := num rec at_ 4
  let len := num rec (at_ + 4) 4
  if off = 0 then (none, true)
  else
    let r := f (span bs off len)
    (some r.1, off % 16 == 0 && exactly len (span bs off len) && r.2)

/-- A variant record (Table 1-20) of the section `bs`. -/
def readVariant (bs r : List Byte) : Variant × Bool :=
  let n := num r 0 1
  let reserve := readPart bs r 0x24 readReserve
  let qmap := readPart bs r 0x2C readQmap
  let cal := readPart bs r 0x34 readCal
  (⟨((records 4 8 (r.drop 4)).take n).map (fun c => BitVec.ofNat 32 (num c 0 4)), reserve.1, qmap.1, cal.1⟩,
    decide (n ≤ 8) && clear r 1 3 && clear r (4 + 4 * n) (32 - 4 * n) && clear r 0x3C 4 && reserve.2 && qmap.2 && cal.2)

/-- VARIANT. -/
def readVariants (bs : List Byte) : List Variant × Bool :=
  let n := num bs 0 4
  let vs := (records 64 n (bs.drop 16)).map (readVariant bs)
  (vs.map (fun v => v.1), vs.length == n && clear bs 4 12 && vs.all (fun v => v.2))

/-- ELASTIC (Table 1-21). -/
def readElastic (bs : List Byte) : List ElasticRec × Bool :=
  let rs := records 16 12 bs
  (rs.map (fun r => ⟨num r 0 4, (BitVec.ofNat 8 (num r 4 1)).toInt, num r 5 1, num r 6 2, num r 8 2⟩),
    exactly 192 bs && rs.all (fun r => clear r 10 6))

/-- CODE (Table 1-22). -/
def readCode (bs : List Byte) : List CodeEnt × Bool :=
  let n := num bs 0 4
  let rs := records 56 n (bs.drop 16)
  (rs.map (fun r => ⟨num r 0 1, BitVec.ofNat 32 (num r 4 4), beNat (span r 8 48)⟩),
    exactly (16 + 56 * n) bs && clear bs 4 12 && rs.all (fun r => clear r 1 3))

/-- FEATURES (Table 1-23). -/
def readFeatures (bs : List Byte) : Features × Bool :=
  (⟨num bs 0 4, num bs 4 2, num bs 6 2, BitVec.ofNat 1024 (num bs 0x10 128),
    (span bs 0x90 1024).zipIdx.filterMap (fun e => if e.1 == 0 then none else some (e.2, e.1.toNat))⟩,
    exactly 1168 bs && clear bs 8 8)

/-- The section of a type. -/
def readSection (type : Nat) (bs : List Byte) : Section × Bool :=
  match type with
  | 0 => (.unused, true)
  | 1 => let r := readReserve bs; (.reserve r.1, r.2)
  | 2 => let r := readMeters bs; (.meter r.1, r.2)
  | 3 => let r := readQmap bs; (.qmap r.1, r.2)
  | 4 => let r := readCal bs; (.hbmcal r.1, r.2)
  | 5 => let r := readSpare bs; (.spare r.1, r.2)
  | 6 => let r := readDemand bs; (.demand r.1, r.2)
  | 7 => let r := readVariants bs; (.variant r.1, r.2)
  | 8 => let r := readElastic bs; (.elastic r.1, r.2)
  | 9 => let r := readCode bs; (.code r.1, r.2)
  | 10 => let r := readFeatures bs; (.features r.1, r.2)
  | n => (.unknown n, true)

/-! ### The image -/

/-- A directory entry of the image `bs` of the length its header states: type, offset, length and a reserved field. -/
def readEntry (length : Nat) (bs d : List Byte) : DirEnt :=
  let off := num d 4 4
  let len := num d 8 4
  let r := readSection (num d 0 4) (span bs off len)
  ⟨r.1, clear d 12 4 && (r.1 == .unused || (off % 16 == 0 && decide (off + len ≤ length) && r.2))⟩

/-- An image with its IMAGE_DIGEST field taken as zero. -/
def undigested (bs : List Byte) : List Byte := bs.take 0x48 ++ List.replicate 48 0 ++ bs.drop 0x78

/-- What TT_LOAD reads in the bytes of an image. -/
def readImage (bytes : List Byte) : TtImage :=
  let bs := undigested bytes
  let digest := beNat (span bytes 0x48 48)
  { magic := num bs 0 4, format := num bs 4 2, stepping := num bs 6 2, version := num bs 8 4, length := num bs 0xC 4,
    aggCount := num bs 0x10 4, variantCount := num bs 0x14 2, guardNs := num bs 0x16 2, portDigest := beNat (span bs 0x18 48),
    digest := digest,
    intact := num bs 0xC 4 == bytes.length && decide (0x180 ≤ bytes.length) && digest == beNat (sha384 bs) && clear bs 0x78 8,
    dir := (records 16 16 (bs.drop 0x80)).map (readEntry (num bs 0xC 4) bs) }

end Sys2Proof.Machine
end

