-- ==== Sys2Proof/Machine/Ucode.lean ====
section
/-! DEFINITION. Parser and action images: their structural checks (R140), loading (R153), swapping (R154, R155) and scrubbing
(R156). -/

namespace Sys2Proof.Machine

/-! ### The CODE section -/

def imgCode (i : TtImage) : List CodeEnt :=
  (i.dir.findSome? (fun d => match d.body with | .code r => some r | _ => none)).getD []

/-- The digest a timetable names for a slice: kind 1 parser, 2 action, 3 agent. -/
def codeDigest (i : TtImage) (kind k : Nat) : Option Nat :=
  ((imgCode i).find? (fun e => e.kind == kind && e.slices.getLsbD k)).map (fun e => e.digest)

/-! ### Reachable words -/

/-- A word of an image; one the image does not list is all zeros. -/
def pword (i : UcodeImage) (n : Nat) : BitVec 256 := tget i.pwords n 0
def aword (i : UcodeImage) (n : Nat) : BitVec 512 := tget i.awords n 0

/-- The words an action word can be followed by: the branch alone where its condition is TRUE. -/
def nextAction (w : BitVec 512) : List Nat :=
  if field w 28 6 = 0 then (if w.getLsbD 34 then [field w 0 14] else [field w 14 14])
  else [field w 0 14, field w 14 14]

/-- The words a parser word can be followed by. -/
def nextParser (w : BitVec 256) : List Nat := if field w 24 3 = 0 then [field w 0 12] else [field w 0 12, field w 12 12]

/-- The (word, stage) pairs reached in `n` stages from the words of stage `k`. -/
def reach (succ : Nat → List Nat) : Nat → Nat → List Nat → List (Nat × Nat)
  | 0, _, _ => []
  | n + 1, k, ws =>
    let ws := ws.dedup
    ws.map (fun w => (w, k)) ++ reach succ n (k + 1) (ws.flatMap succ)

/-! ### Checks on one word (R140) -/

def predReserved (p : Nat) : Bool := decide (23 ≤ p) && decide (p ≤ 31)

/-- The stage from which an operand selector is readable (Table 6-3); none for a reserved one. -/
def readableFrom (sel : Nat) : Option Nat :=
  if sel < 32 then some 1
  else
    match sel with
    | 32 | 34 => some 3
    | 33 | 35 => some 5
    | 36 | 37 => some 4
    | 38 | 39 | 40 | 41 | 42 => some 5
    | 43 | 44 => some 7
    | 45 | 46 | 47 => some 1
    | 127 => some 1
    | _ => none

def selBad (stage sel : Nat) : Bool :=
  match readableFrom sel with
  | none => true
  | some k => decide (stage < k)

/-- An operation's faults: a reserved code or field, or an operand read too early. -/
def opBad (w : BitVec 64) (stage : Nat) : Bool :=
  let op := field w 7 4
  decide (op ≥ 14) || (field w 30 2 != 0) ||
    (op != 0 && (predReserved (field w 0 6) ||
      (decide (op ≤ 10) && decide (field w 11 5 > 15)) ||
      (decide (op ≤ 12) && selBad stage (field w 16 7)) ||
      (decide (2 ≤ op) && decide (op ≤ 12) && selBad stage (field w 23 7))))

/-- What a segment of a key profile may name (R133): a parse-result field, a metadata word or a constant. -/
def segOk (g : Seg) : Bool := decide (g.sel < 32) || g.sel == 127

/-- Whether a key profile cannot be assembled (R133): a segment of another kind, more than 32 segments, or more bits than the
widest key. That the segments' bits are counted together is log entry 47. -/
def segsBad (l : List Seg) : Bool :=
  l.any (fun g => !segOk g) || decide (l.length > 32) || decide ((l.map (fun g => g.width)).sum > 960)

def profileBad (i : UcodeImage) (p : Nat) : Bool := segsBad (tget i.profiles p [])

/-- Whether an image's content fits the stores of Table 6-1. -/
def storesFit (i : UcodeImage) : Bool :=
  i.storesOk && i.pwords.all (fun w => decide (w.1 < 4096)) && i.awords.all (fun w => decide (w.1 < 16384)) &&
    i.profiles.all (fun p => decide (p.1 < 16) && !segsBad p.2) && i.edits.all (fun e => decide (e.1 < 256)) &&
    i.policy.all (fun c => decide (1 ≤ c.1) && decide (c.1 ≤ 15))

/-- Whether an action word is refused at a stage. -/
def actionBad (i : UcodeImage) (w : BitVec 512) (stage : Nat) : Bool :=
  let rs := w.getLsbD 36
  let rt := w.getLsbD 53
  let fl := w.getLsbD 70
  let dw := w.getLsbD 391
  let q := field w 424 4
  (rs && stage != 1 && stage != 3) || (rt && stage != 1) || (fl && stage != 2) || (field w 118 2 != 0 && stage != 6) ||
    w.getLsbD 35 || field w 120 8 != 0 || field w 438 10 != 0 || field w 464 48 != 0 || field w 392 3 == 7 ||
    predReserved (field w 28 6) || (rs && predReserved (field w 37 6)) || (rt && predReserved (field w 54 6)) ||
    (fl && predReserved (field w 71 6)) || (rs && profileBad i (field w 44 4)) ||
    (dw && (predReserved (field w 384 6) || selBad stage (field w 395 7) || (decide (1 ≤ q) && decide (q ≤ 3)))) ||
    [0, 1, 2, 3].any (fun n => opBad (w.extractLsb' (128 + 64 * n) 64) stage)

/-- Whether a parser word is refused. -/
def parserBad (w : BitVec 256) : Bool :=
  decide (field w 24 3 ≥ 6) || field w 218 38 != 0 || decide (field w 199 4 > 3)

/-- An edit template that changes the frame length out of its limits, or has more than 8 operations. -/
def editBad (l : List EditOp) : Bool :=
  let d := editDelta l
  decide (d < -128) || decide (d > 32) || decide (l.length > 8)

/-- The ENTRY values a parser image can set. -/
def parserEntries (i : UcodeImage) : List Nat :=
  (i.pwords.filter (fun w => w.2.getLsbD 217)).map (fun w => field w.2 203 14)

/-- The entry list at fault: word 0 missing, a word named twice or above 16,383, a length outside 1–1,024. -/
def entryFault (i : UcodeImage) : Option Nat :=
  if !i.entries.contains 0 then some 0
  else
    match i.entries.find? (fun w => decide (w > 16383) || decide (i.entries.count w > 1)) with
    | some w => some w
    | none => if i.entries.length > 1024 then some i.entries.length else none

/-- An image's structural faults: the detail that names the first, of an action image by stage and then by word. Every word of a
parser image is checked; one that no path reaches is named with stage 0 (log entry 67). -/
def imageFault (i : UcodeImage) : Option Detail :=
  let stageOf (p : Nat × Nat) : Detail := .stage p.1 p.2
  if i.isAction then
    match entryFault i with
    | some w => some (.entry w)
    | none =>
      match (reach (fun w => nextAction (aword i w)) 7 1 i.entries).find? (fun p => actionBad i (aword i p.1) p.2) with
      | some p => some (stageOf p)
      | none => (i.edits.find? (fun e => editBad e.2)).map (fun e => .entry e.1)
  else
    (i.pwords.find? (fun w => parserBad w.2)).map (fun w =>
      stageOf (((reach (fun n => nextParser (pword i n)) 8 1 [0]).find? (fun p => p.1 == w.1)).getD (w.1, 0)))

/-- The parser and action images of a slice agree (R140). -/
def agree (p a : Option UcodeImage) : Bool :=
  match p, a with
  | some p, some a => (parserEntries p).all (fun e => a.entries.contains e)
  | _, _ => true

/-! ### Loading (R153) -/

/-- A pending commit's staged image names the shadow image of a slice. -/
def shadowNamed (s : State) (action : Bool) (k : Nat) : Bool :=
  match s.tt.commit, s.tt.staged with
  | some _, some i =>
    match (if action then (ucOf s k).aShad else (ucOf s k).pShad) with
    | some x => codeDigest i (if action then 2 else 1) k == some x.digest
    | none => false
  | _, _ => false

/-- An old bank still held (R155). -/
def oldHeld (s : State) (action : Bool) (k : Nat) : Bool := if action then (ucOf s k).aOld.isSome else (ucOf s k).pOld.isSome

def setShadow (action : Bool) (k : Nat) (i : Option UcodeImage) (s : State) : State :=
  updUc k (fun u => if action then { u with aShad := i } else { u with pShad := i }) s

def clearShadows (action : Bool) (ks : List Nat) (s : State) : State :=
  ks.foldl (fun (s : State) k => setShadow action k none s) s

def execUcodeLoad (h : Hdr) (action : Bool) (slices : W32) (img : UcodeImage) (s : State) : Host.Outcome State Fault Refusal :=
  within s (
    .next (qcp { code := 0x0E01, world := .secure, host := true } h (fun s =>
      let ks := slicesOf slices
      if slices = 0 then badParam (po 1)
      else withTablets .ul (sliceDoms ks) s (
        if s.ucode.swap.isSome || ks.any (shadowNamed s action) || ks.any (oldHeld s action) then .refuse .busy none
        else if !signerOk s img.sig then .reply .signatureFail none [] (clearShadows action ks s)
        else if img.stepping ≠ 0x00B0 ∨ !storesFit img ∨ img.isAction ≠ action then
          .reply .imageIncompatible none [] (clearShadows action ks s)
        else
          match imageFault img with
          | some d => .reply .imageIncompatible (some d) [] (clearShadows action ks s)
          | none => .pend (tabletTake .ul (sliceDoms ks) h 0x0E01
              (clearShadows action ks { s with ucode := { s.ucode with load := s.ucode.load ++ [⟨h, action, ks, img⟩] } })))) s))

/-- A load's image stands in the shadow bank of each slice it names; `rest` are the loads after it. -/
def shadowsWritten (l : UcLoad) (rest : List UcLoad) (s : State) : State :=
  l.slices.foldl (fun (s : State) k => setShadow l.action k (some l.img) s) { s with ucode := { s.ucode with load := rest } }

/-- UCODE_LOAD_DONE: every shadow bank of the earliest load is written. -/
def execUcodeLoadDone (s : State) : Host.Outcome State Fault Refusal :=
  within s (
    match s.ucode.load with
    | [] => .next s
    | l :: rest =>
      .next (finish l.hdr 0x0E01 .ok none [] (shadowsWritten l rest s)))

/-! ### Swapping (R154, R155) -/

/-- The action and parser images of a slice as a swap would leave them. -/
def afterSwap (s : State) (parser action : Bool) (ks : List Nat) (k : Nat) : Option UcodeImage × Option UcodeImage :=
  let u := ucOf s k
  (if parser ∧ k ∈ ks then u.pShad else u.pAct, if action ∧ k ∈ ks then u.aShad else u.aAct)

/-- Two images have the same edit-template tables; a template not listed is empty. -/
def sameEdits (a b : UcodeImage) : Bool := (List.range 256).all (fun t => tget a.edits t [] == tget b.edits t [])

/-- Every action image active on some slice has the same edit templates. -/
def editsAgree (l : List (Option UcodeImage)) : Bool :=
  match l.filterMap id with
  | [] => true
  | a :: as => as.all (fun b => a == b || sameEdits a b)

/-- A swapped-in image is named in the active timetable's CODE section; with no active timetable none is asked for. -/
def swapNamed (s : State) (kind k : Nat) (i : Option UcodeImage) : Bool :=
  match s.tt.active, i with
  | some t, some x => codeDigest t kind k == some x.digest
  | _, _ => true

def execUcodeSwap (h : Hdr) (parser : Bool) (action : Bool) (slices : W32) (s : State) : Host.Outcome State Fault Refusal :=
  within s (
    .next (qcp { code := 0x0E02, world := .secure } h (fun s =>
      let ks := slicesOf slices
      if !parser ∧ !action then badParam (po 0)
      else if slices = 0 then badParam (po 1)
      else if ks.any (fun k => (parser && (ucOf s k).pShad.isNone) || (action && (ucOf s k).aShad.isNone)) then
        .refuse .notFound none
      else if ks.any (fun k => (parser && !swapNamed s 1 k (ucOf s k).pShad) || (action && !swapNamed s 2 k (ucOf s k).aShad)) then
        .refuse .timetableMismatch none
      else if action && !editsAgree (allSlices.map (fun k => (afterSwap s parser action ks k).2)) then .refuse .imageIncompatible none
      else if !allSlices.all (fun k => agree (afterSwap s parser action ks k).1 (afterSwap s parser action ks k).2) then .refuse .imageIncompatible none
      else if s.ucode.swap.isSome then .refuse .busy none
      else .start { s with ucode := { s.ucode with swap := some ⟨h, parser, action, ks⟩ } }) s))

/-- The shadow bank becomes active; the old bank is held, with the words in error it has. A shadow bank that a commit at the same
boundary has already made active (R37) is not swapped again. -/
def swapParser (k : Nat) (s : State) : State :=
  updUc k (fun u => if u.pShad.isNone then u else
    { u with pOld := u.pAct, pAct := u.pShad, pShad := none, pOldHw := s.time.hwCount, pOldBad := u.pBad, pBad := [] }) s
def swapAction (k : Nat) (s : State) : State :=
  updUc k (fun u => if u.aShad.isNone then u else
    { u with aOld := u.aAct, aAct := u.aShad, aShad := none, aOldHw := s.time.hwCount, aOldBad := u.aBad, aBad := [] }) s

/-- Old banks swapped out at H are empty from the end of headway H + 1. -/
def releaseOld (s : State) : State :=
  { s with ucode := { s.ucode with slices := s.ucode.slices.map (fun e =>
      let u := e.2
      let p := decide (s.time.hwCount ≥ u.pOldHw + 2)
      let a := decide (s.time.hwCount ≥ u.aOldHw + 2)
      (e.1, { u with pOld := if p then none else u.pOld, aOld := if a then none else u.aOld
                     pOldBad := if p then [] else u.pOldBad, aOldBad := if a then [] else u.aOldBad })) } }

/-- A headway boundary at the control stores. -/
def ucodeHeadway (s : State) : State :=
  let s := releaseOld s
  match s.ucode.swap with
  | none => s
  | some x =>
    let s := { s with ucode := { s.ucode with swap := none } }
    let s := if x.parser then x.slices.foldl (fun (s : State) k => swapParser k s) s else s
    let s := if x.action then x.slices.foldl (fun (s : State) k => swapAction k s) s else s
    answer x.hdr 0x0E02 .ok none [fld "ORBIT" s.time.orbit, fld "HEADWAY" s.time.headway] s

def digestFld (name : String) (i : Option UcodeImage) : RField :=
  ⟨name, 48, (i.map (fun x => x.digest)).toList⟩

/-- The headway in which a held old bank is released. -/
def oldRelease (s : State) (o : Option UcodeImage) (at_ : Nat) : List Nat :=
  if o.isSome then [(s.time.headway + (at_ + 2 - s.time.hwCount)) % 6250] else []

/-- The fields of UCODE_STATUS. -/
def ucodeFlds (s : State) (u : UcSlice) : List RField :=
  [digestFld "PARSER_ACTIVE" u.pAct, digestFld "PARSER_SHADOW" u.pShad, digestFld "ACTION_ACTIVE" u.aAct,
    digestFld "ACTION_SHADOW" u.aShad, flds "PARSER_OLD" (oldRelease s u.pOld u.pOldHw),
    flds "ACTION_OLD" (oldRelease s u.aOld u.aOldHw)]

def execUcodeStatus (h : Hdr) (slice : Nat) (s : State) : Host.Outcome State Fault Refusal :=
  within s (
    .next (qcp { code := 0x0E03, reads := true } h (fun s =>
      if slice ≥ 32 then badParam (po 0)
      else
        .done (ucodeFlds s (ucOf s slice)) s) s))

/-- A word with an uncorrectable error: found first, then rewritten from the verified copy (R156, log entry 65). -/
def scrubList (w : Nat) (bad : List Nat) : List Nat := if bad.contains w then bad.filter (· ≠ w) else w :: bad

/-- The scrub of a slice's active banks: action words by their number, parser words from 16,384 on (log entry 65). -/
def scrubWord (word : Nat) (u : UcSlice) : UcSlice :=
  if word < 16384 then { u with aBad := scrubList word u.aBad } else { u with pBad := scrubList (word - 16384) u.pBad }

/-- UCODE_SCRUB_REWRITE: a corrected word is counted; an uncorrectable one is found in error, and the next such row rewrites
it. -/
def execUcodeScrubRewrite (slice : Nat) (word : Nat) (uncorrectable : Bool) (s : State) : Host.Outcome State Fault Refusal :=
  within s (
    if slice ≥ 32 ∨ word ≥ 20480 then .next s
    else if uncorrectable then .next (updUc slice (scrubWord word) s)
    else .next (bump .ucodeCorrected slice 0 s))

end Sys2Proof.Machine
end

