-- ==== Sys2Proof/Machine/TtImage.lean ====
section
/-! DEFINITION. What TT_LOAD checks of a timetable image (R33, R40, R41, R166, R180, R214, R217) and the demand arithmetic of R29. -/

namespace Sys2Proof.Machine

/-! ### Sections -/

/-- The type of a directory entry (Table 1-7). -/
def secType : Section → Nat
  | .unused => 0 | .reserve _ => 1 | .meter _ => 2 | .qmap _ => 3 | .hbmcal _ => 4 | .spare _ => 5 | .demand _ => 6
  | .variant _ => 7 | .elastic _ => 8 | .code _ => 9 | .features _ => 10 | .unknown t => t

def imgReserve (i : TtImage) : Reserve :=
  (i.dir.findSome? (fun d => match d.body with | .reserve r => some r | _ => none)).getD ⟨1, []⟩
def imgMeters (i : TtImage) : List MeterRec :=
  (i.dir.findSome? (fun d => match d.body with | .meter r => some r | _ => none)).getD []
def imgHbmcal (i : TtImage) : List CalEnt :=
  (i.dir.findSome? (fun d => match d.body with | .hbmcal r => some r | _ => none)).getD []
def imgDemand (i : TtImage) : List DemBlock :=
  (i.dir.findSome? (fun d => match d.body with | .demand r => some r | _ => none)).getD []
def imgFeatures (i : TtImage) : Features :=
  (i.dir.findSome? (fun d => match d.body with | .features r => some r | _ => none)).getD ⟨2097152, 4096, 0, 0, []⟩

/-- Strictly ascending. -/
def ascending : List Nat → Bool
  | [] => true
  | [_] => true
  | a :: b :: r => decide (a < b) && ascending (b :: r)

/-! ### Field ranges -/

/-- RESERVE (Table 1-12). -/
def reserveOk (r : Reserve) : Bool :=
  decide (1 ≤ r.p) && decide (r.p ≤ 6250) && 6250 % r.p == 0 &&
    r.counts.all (fun c => decide (c.x < r.p) && decide (c.k < 8) && decide (c.i < 32) && decide (c.j < 32) && c.i != c.j &&
      decide (c.n ≤ 96))

/-- An ingress meter word (Table 3-7). -/
def imWordOk (w : BitVec 64) : Bool :=
  let slope := imSlope w
  (if imByte w then decide (1 ≤ slope) && decide (slope ≤ 8192000) else decide (2 ≤ slope) && decide (slope ≤ 67108864)) &&
    decide (1 ≤ field w 27 12) && decide (64 ≤ imMaxSize w) && decide (imMaxSize w ≤ 9216) && field w 61 3 == 0

/-- METER (Table 1-13). -/
def metersOk (rs : List MeterRec) : Bool :=
  ascending (rs.map (fun r => r.slice * 4096 + r.meter)) &&
    rs.all (fun r => decide (r.slice < 32) && decide (r.meter < 4096) && decide (r.agg < 65536) && imWordOk r.param)

/-- A QMAP aggregate record (Table 1-14). -/
def qaggOk (a : QAgg) : Bool :=
  decide (a.agg < 65536) && decide (a.cls < 4) && decide (4 ≤ a.equeue) && decide (a.equeue ≤ 15) && decide (a.ncAction ≤ 1) &&
    decide (a.egress < if a.mcast then 65536 else 1024) && decide (1 ≤ a.kL) && decide (a.kL ≤ 4095) &&
    decide (1 ≤ a.kA) && decide (a.kA ≤ a.kL) && (a.crossHop || a.kA == a.kL) && decide (a.prec < 65536)

/-- QMAP (Tables 1-14 to 1-16); a METER record names each class entry's slice, meter and aggregate. -/
def qmapOk (meters : List MeterRec) (q : QMap) : Bool :=
  ascending (q.aggs.map (fun a => a.agg)) && q.aggs.all qaggOk &&
    ascending (q.classes.map (fun c => c.slice * 4096 + c.entry)) &&
    q.classes.all (fun c => decide (c.slice < 32) && decide (c.entry < 4096) && decide (c.agg < 65536) &&
      meters.any (fun m => m.slice == c.slice && m.meter == c.meter && m.agg == c.agg)) &&
    ascending (q.egms.map (fun e => e.port * 4 + e.queue)) &&
    q.egms.all (fun e => decide (e.port < 1024) && decide (e.queue < 4) && field e.param 61 3 == 0 &&
      (!mEn e.param || meterWordOk e.param))

/-- An HBMCAL entry that marks its channel retired. -/
def calRetired (e : CalEnt) : Bool := [e.flow, e.siding, e.maint, e.refresh, e.spare].all (fun x => x == 0xFFFF)

def calStarts (e : CalEnt) : List Nat := [e.flow, e.siding, e.maint, e.refresh, e.spare]

/-- HBMCAL's fields (Table 1-17). -/
def hbmcalOk (es : List CalEnt) : Bool :=
  es.length == 384 && es.all (fun e => calRetired e || (calStarts e).all (fun x => decide (x ≤ 374)))

/-- The windows of a channel: start and end beats, by their lengths (Table 10-3). -/
def calWindows (e : CalEnt) : List (Nat × Nat) := (calStarts e).zip [220, 104, 6, 24, 12] |>.map (fun x => (x.1, x.1 + x.2))

/-- R217: windows within beats 0–374, at least one beat apart. -/
def calPlaced (e : CalEnt) : Bool :=
  calRetired e ||
    ((calWindows e).all (fun x => decide (x.2 ≤ 375)) &&
     decide ((calWindows e).Pairwise (fun x y => x.2 < y.1 ∨ y.2 < x.1)))

/-- A demand code (Table 1-19). -/
def demandOk (c : BitVec 32) : Bool :=
  let n := field c 0 28
  match field c 28 4 with
  | 1 | 5 => decide (n < 32)
  | 2 => decide (n < 1024)
  | 3 => decide (n < 1024)
  | 4 => decide (n < 512)
  | 6 => decide (n < 16384) && n / 4 % 4 == 0
  | _ => false

/-- DEMAND: one block for each aggregate of the base QMAP. -/
def demandsOk (aggs : List QAgg) (bs : List DemBlock) : Bool :=
  (bs.map (fun b => b.agg)) == (aggs.map (fun a => a.agg)) &&
    bs.all (fun b => decide (1 ≤ b.terms.length) && decide (b.terms.length ≤ 1024) &&
      b.terms.all (fun t => demandOk t.res && decide (t.amount < 2 ^ 32)))

/-- A resource code (R19). -/
def resourceOk (c : BitVec 32) : Bool :=
  let n := field c 0 28
  match field c 28 4 with
  | 1 => decide (n < 32)
  | 2 => decide (n < 64)
  | 3 => decide (n < 12)
  | 4 => decide (n < 1024)
  | _ => false

/-- Two lists of codes as sets. -/
def sameCodes (a b : List (BitVec 32)) : Bool := a.all (fun x => b.contains x) && b.all (fun x => a.contains x)

/-- VARIANT (Table 1-20) and what R41 asks of its replacement sections. DESIGN CHOICE (log entry 104): a loss descriptor that names one code
twice is at fault. -/
def variantsOk (i : TtImage) (vs : List Variant) : Bool :=
  let base := (imgQmap i).aggs.map (fun a => a.agg)
  decide (1 ≤ vs.length) && vs.length == i.variantCount &&
    vs.all (fun v => decide (1 ≤ v.loss.length) && decide (v.loss.length ≤ 8) && v.loss.all resourceOk &&
      decide v.loss.Nodup && v.reserve.all reserveOk &&
      v.qmap.all (fun q => qmapOk (imgMeters i) q && q.aggs.all (fun a => base.contains a.agg)) && v.hbmcal.all hbmcalOk) &&
    decide (vs.Pairwise (fun a b => !sameCodes a.loss b.loss))

/-- ELASTIC (Table 1-21). -/
def elasticsOk (rs : List ElasticRec) : Bool :=
  rs.length == 12 &&
    rs.all (fun r => decide (1 ≤ r.ageLimit) && decide (r.ageLimit ≤ 312500) && decide (-6 ≤ r.k) && decide (r.k ≤ 3) &&
      decide (r.defer ≤ 1) && decide (16 ≤ r.weight) && decide (r.weight ≤ 4095) &&
      (r.spill == 0 || (decide (64 ≤ r.spill) && decide (r.spill ≤ 40960))))

/-- CODE (Table 1-22): every slice in exactly one entry of each kind. -/
def codesOk (es : List CodeEnt) : Bool :=
  es.all (fun e => decide (1 ≤ e.kind) && decide (e.kind ≤ 3)) &&
    [1, 2, 3].all (fun k => allSlices.all (fun n => (es.filter (fun e => e.kind == k && e.slices.getLsbD n)).length == 1))

/-- FEATURES (Table 1-23). -/
def featuresOk (f : Features) : Bool :=
  [524288, 1048576, 2097152, 4194304].contains f.b && decide (f.stash ≤ 16384) && f.stash % 2048 == 0 && decide (f.gib ≤ 160) &&
    f.ptpMax.all (fun e => decide (e.1 < 1024) && decide (e.2 ≤ 8))

/-- Whether a section's fields lie in their ranges and its counts agree. -/
def sectionOk (i : TtImage) (b : Section) : Bool :=
  match b with
  | .unused => true
  | .reserve r => reserveOk r
  | .meter rs => metersOk rs
  | .qmap q => qmapOk (imgMeters i) q && q.aggs.length == i.aggCount
  | .hbmcal es => hbmcalOk es
  | .spare rs => rs.length == 32
  | .demand bs => demandsOk (imgQmap i).aggs bs && bs.length == i.aggCount
  | .variant vs => variantsOk i vs
  | .elastic rs => elasticsOk rs
  | .code es => codesOk es
  | .features f => featuresOk f
  | .unknown _ => false

/-- The section types an image must hold (R40). -/
def requiredTypes (i : TtImage) : List Nat :=
  [1, 2, 3, 4, 5, 6] ++ (if i.variantCount ≠ 0 then [7] else []) ++ [8, 9, 10]

/-- The fault R41 names: a missing type, or the first directory entry at fault. -/
def dirFault (i : TtImage) : Option Nat :=
  let types := i.dir.map (fun d => secType d.body)
  match (requiredTypes i).find? (fun t => !types.contains t) with
  | some t => some (0x100 + t)
  | none =>
    (List.range i.dir.length).find? (fun n =>
      match i.dir[n]? with
      | none => false
      | some d => !d.sound || !sectionOk i d.body ||
          (secType d.body != 0 && (types.take n).contains (secType d.body)))

/-- The header (Table 1-6, R33). -/
def headerOk (i : TtImage) : Bool :=
  i.magic == 0x48545432 && i.format == 2 && decide (i.length ≤ 268435456) && i.intact && i.version != 0 && decide (i.aggCount ≤ 65536) && decide (i.variantCount ≤ 64) &&
    decide (50 ≤ i.guardNs) && decide (i.guardNs ≤ 1000)

/-! ### What must match the module (R33, R217, R228) -/

/-- The lit lanes of a map with their codes and lengths, ascending. -/
def normalMap (m : List MapEnt) : List (Nat × Nat × Nat) :=
  sortBy (fun a b => decide (a.1 ≤ b.1))
    ((m.filter (fun e => e.code != 0)).map (fun e => (e.lane, e.code, if e.code = 1 then maxLenOf e else 0)))

/-- The map an image was compiled for: the staged map where there is one, else the active one (R45). -/
def mapAhead (s : State) : List MapEnt := s.ports.staged.getD s.ports.map

/-- The base HBMCAL section and each replacement. -/
def calSections (i : TtImage) : List (List CalEnt) := imgHbmcal i :: (imgVariants i).filterMap (fun v => v.hbmcal)

/-- A calendar marks retired exactly the channels the module holds retired. -/
def calMatches (s : State) (es : List CalEnt) : Bool :=
  (es.zipIdx).all (fun e => calRetired e.1 == decide ((chanOf s e.2).st = .retired))

/-- SHA-384 of a port configuration (Table 1-6), whose byte form the manual does not give. -/
def portDigest (m : List MapEnt) : Nat := beNat (sha384 (Config.portBytes (normalMap m)))

/-- STEPPING, PORT_DIGEST and the calendars match the module. -/
def matchesModule (s : State) (i : TtImage) : Bool :=
  i.stepping == 0x00B0 && i.portDigest == portDigest (mapAhead s) &&
    (calSections i).all (fun es => calMatches s es && es.all calPlaced)

/-! ### Demand (R29, Table 1-19) -/

/-- The capacity a demand code draws on: its kind and number. A pair draws on its ingress (2) and its egress (7). -/
def capKeys (c : BitVec 32) : List (Nat × Nat) :=
  let n := field c 0 28
  match field c 28 4 with
  | 2 => [(2, n / 32), (7, n % 32)]
  | 6 => [(6, n / 16 / 32)]
  | k => [(k, n)]

/-- The sums of demands by capacity. -/
def demandSums (bs : List DemBlock) : Tab (Nat × Nat) Nat :=
  bs.foldl (fun t b => b.terms.foldl (fun t d =>
    (capKeys d.res).foldl (fun t k => tset t k (tget t k 0 + d.amount)) t) t) []

/-- Whether demands fit capacities. -/
def demandFits (cap : Nat × Nat → Nat) (bs : List DemBlock) : Bool := (demandSums bs).all (fun e => decide (e.2 ≤ cap e.1))

/-- Capacities of Table 1-2 and R180 before loss; ports and resident rows are judged by R29 alone. -/
def quota (k : Nat × Nat) : Nat :=
  match k.1 with
  | 1 => 1024 * 65536
  | 2 | 7 => 96
  | 5 => 4864
  | 6 => 36480
  | _ => 2 ^ 48

/-! ### Placement and regions (R166, R214) -/

/-- The slices a descriptor counts halted. -/
def lostSlices (l : List (BitVec 32)) : List Nat := (l.filter (fun c => field c 28 4 == 1)).map (fun c => field c 0 28)

/-- The placements of the base timetable and of each variant. -/
def placements (i : TtImage) : List (Option (List (List Resv))) :=
  placeAll [] (imgReserve i) :: (imgVariants i).map (fun v => placeAll (lostBoxes (lostSlices v.loss)) (v.reserve.getD (imgReserve i)))

/-- Distinct placed blocks: as many as there are different count matrices with their lost sub-boxes. -/
def distinctBlocks (i : TtImage) : Nat := ((placements i).flatMap (fun p => p.getD [])).dedup.length

/-- A flow store or a siding that would take a region assigned to the secure world. -/
def regionsSecure (s : State) (f : Features) : Bool :=
  let n := sidingRegions f.gib
  ((List.range (flowRegions f.b)) ++ (List.range n).map (fun x => 255 - x)).any (fun r => worldOf s .hbmRegion r == World.secure)

/-- Whether the contract can be carried at all. -/
def feasible (s : State) (i : TtImage) : Bool :=
  demandFits quota (imgDemand i) && (placements i).all (fun p => p.isSome) && decide (distinctBlocks i ≤ 4096) &&
    !regionsSecure s (imgFeatures i)

/-- More class entries or meters on one slice than it holds (R73). -/
def overFull (i : TtImage) : Bool :=
  allSlices.any (fun k =>
    decide (((imgQmap i).classes.filter (fun c => c.slice == k)).length > 4096) ||
      decide (((imgMeters i).filter (fun m => m.slice == k)).length > 4096))

/-- What TT_LOAD refuses an image with. -/
def imageRefusal (s : State) (i : TtImage) : Option (Status × Option Detail) :=
  if !headerOk i then some (.badParam, some (.param (po 0)))
  else if overFull i then some (.contractInfeasible, none)
  else
    match dirFault i with
    | some n => some (.badParam, some (.entry n))
    | none =>
      if !matchesModule s i then some (.timetableMismatch, none)
      else if !feasible s i then some (.contractInfeasible, none)
      else none

end Sys2Proof.Machine
end

