-- ==== Sys2Proof/Machine/Timetable.lean ====
section
/-! DEFINITION. The timetable (chapter 1): loading, committing, the irrevocable point, loss of resources with its variants and
shed-to-fit, and what an orbit boundary puts in force. -/

namespace Sys2Proof.Machine

/-! ### Lost resources (R19, R28, R404) -/

/-- Losses that a boundary in cycle `c` does not act on: detected less than 50 µs before it. -/
def notDue (s : State) (c : Nat) : List (BitVec 32) :=
  (s.tt.lostNow.filter (fun e => decide (e.2 + 80000 > c))).map (fun e => e.1)

/-- The set a boundary in cycle `c` compares. -/
def lostSet (s : State) (c : Nat) : List (BitVec 32) := s.tt.lost.filter (fun x => !(notDue s c).contains x)

/-- The losses it acts on for the first time. -/
def newLosses (s : State) (c : Nat) : List (BitVec 32) :=
  (s.tt.lostNow.filter (fun e => decide (e.2 + 80000 ≤ c))).map (fun e => e.1)

/-- The resources lost at this moment. -/
def lostAtPresent (s : State) : List (BitVec 32) :=
  s.fab.halted.map (resCode 1) ++ s.ports.engDown.map (resCode 2) ++
    ((List.range 12).filter (stackDead s)).map (resCode 3) ++
    (s.ports.lanes.filter (fun e => e.2.lost)).map (fun e => resCode 4 e.1)

/-! ### Capacities after loss (R29) -/

/-- Transmit capacity of a port in bits per headway, under a set of losses. -/
def portCapacity (s : State) (ls : List (BitVec 32)) (p : Nat) : Nat :=
  match portOf s p with
  | none => 0
  | some x =>
    let bad := (lostLanes s p x.width).filter (fun l => ls.contains (resCode 4 l))
    if ls.contains (resCode 1 (p / 32)) then 0
    else if ls.contains (resCode 2 (p / 16)) && s.ports.engDown.contains (p / 16) then 0
    else if bad.isEmpty then 32000 * x.width
    else if x.opWidth < x.width ∧ !bad.any (fun l => decide (x.opLow ≤ l) && decide (l < x.opLow + x.opWidth)) then
      32000 * x.opWidth
    else 0

def capacity (s : State) (ls : List (BitVec 32)) (k : Nat × Nat) : Nat :=
  let dead (n : Nat) : Bool := ls.contains (resCode 1 n)
  let h := (lostSlices ls).length
  match k.1 with
  | 1 => if dead k.2 then 0 else 1024 * 65536
  | 2 | 7 => if dead k.2 then 0 else 96 - 3 * h
  | 3 => portCapacity s ls k.2
  | 4 => if dead (k.2 / 16) then 0 else 2048
  | 5 => if dead k.2 then 0 else 4864
  | _ => if dead k.2 then 0 else 36480

/-! ### Shedding (R28-R31) -/

/-- The slices and the port a demand code rests on. -/
def demandSlices (c : BitVec 32) : List Nat :=
  let n := field c 0 28
  match field c 28 4 with
  | 2 => [n / 32, n % 32]
  | 3 => [n / 32]
  | 4 => [n / 16]
  | 6 => [n / 512]
  | _ => [n]

def demandPort (c : BitVec 32) : Option Nat :=
  match field c 28 4 with
  | 3 => some (field c 0 28)
  | 6 => some (field c 0 28 / 16)
  | _ => none

/-- Whether an aggregate's demand rests on a lost resource. -/
def restsOn (s : State) (b : DemBlock) (c : BitVec 32) : Bool :=
  let n := field c 0 28
  b.terms.any (fun t => decide (t.amount > 0) &&
    match field c 28 4 with
    | 1 => (demandSlices t.res).contains n
    | 2 => (demandPort t.res).any (fun p => p / 16 == n)
    | 4 => (demandPort t.res).any (fun p => decide (p ≤ n) && decide (n < p + portWidth s p))
    | _ => false)

/-- The lowest of some codes. -/
def lowestCode : List (BitVec 32) → BitVec 32
  | [] => 0
  | c :: cs => cs.foldl (fun a b => if b.toNat < a.toNat then b else a) c

/-- The LOSS of a shed-table entry (Table 1-9). -/
def lossCode (s : State) (b : DemBlock) (causes : List (BitVec 32)) : BitVec 32 :=
  match causes.filter (restsOn s b) with
  | [] => lowestCode causes
  | l => lowestCode l

/-- The demand block of an aggregate in the active image. -/
def demandOf (i : TtImage) (a : Nat) : DemBlock := ((imgDemand i).find? (fun b => b.agg == a)).getD ⟨a, []⟩

/-- Sheds an aggregate, with its reason: an entry of the shed table and of the service log. -/
def shedOne (i : TtImage) (causes : List (BitVec 32)) (a : QAgg) (reason : Nat) (s : State) : State :=
  let loss := lossCode s (demandOf i a.agg) causes
  let e : ShedEnt := ⟨a.agg, a.prec, reason, s.time.orbit, loss⟩
  logAdd .service "SHED" none [a.agg, a.prec, reason, s.time.orbit, loss.toNat, i.version]
    { s with tt := { s.tt with shed := s.tt.shed ++ [e] } }

/-- Shed order among equals of nothing: precedence ascending, then number descending (R30). -/
def shedBefore (a b : QAgg) : Bool := decide (a.prec < b.prec ∨ (a.prec = b.prec ∧ b.agg ≤ a.agg))

/-- The aggregates of an ordered list that must go before the rest fit. -/
def shedUntilFit (cap : Nat × Nat → Nat) (i : TtImage) : List QAgg → List QAgg
  | [] => []
  | a :: r =>
    if demandFits cap ((a :: r).map (fun x => demandOf i x.agg)) then [] else a :: shedUntilFit cap i r

/-- Demand on a resource that has no capacity left. -/
def stranded (cap : Nat × Nat → Nat) (b : DemBlock) : Bool :=
  b.terms.any (fun t => decide (t.amount > 0) && (capKeys t.res).any (fun k => cap k == 0))

/-- Shed-to-fit under a set of losses. -/
def shedToFit (i : TtImage) (causes ls : List (BitVec 32)) (s : State) : State :=
  let cap := capacity s ls
  let live := sortBy (fun a b => decide (a.agg ≤ b.agg)) (guaranteed s)
  let gone := live.filter (fun a => stranded cap (demandOf i a.agg))
  let kept := sortBy shedBefore (live.filter (fun a => !stranded cap (demandOf i a.agg)))
  let s := gone.foldl (fun s a => shedOne i causes a 1 s) s
  (shedUntilFit cap i kept).foldl (fun s a => shedOne i causes a 2 s) s

/-! ### Putting sections in force -/

/-- Class entries of a QMAP, with those of the base kept for aggregates in the shed table where the place is free. -/
def classTable (q base : QMap) (shed : List ShedEnt) : Tab (Nat × Nat) ClassRow :=
  let row (c : QClass) : (Nat × Nat) × ClassRow := ((c.slice, c.entry), ⟨c.value, c.mask, c.agg, c.meter⟩)
  let used (c : QClass) : Bool := q.classes.any (fun x => x.slice == c.slice && x.entry == c.entry)
  q.classes.map row ++
    (base.classes.filter (fun c => shed.any (fun e => e.agg == c.agg) && !used c)).map row

/-- The guaranteed egress meters of every port: the word of its record, or disabled (R202). -/
def installEgress (q : QMap) (s : State) : State :=
  s.ports.ports.foldl (fun (s : State) e =>
    [0, 1, 2, 3].foldl (fun (s : State) n =>
      let w := ((q.egms.find? (fun r => r.port == e.1 && r.queue == n)).map (fun r => r.param)).getD (BitVec.ofNat 64 (2 ^ 39))
      updQueue e.1 n (setMeterWord s.time.now w) s) s) s

/-- A QMAP in force. -/
def installQmap (q base : QMap) (s : State) : State :=
  let aggs := q.aggs ++ base.aggs.filter (fun a => !q.aggs.any (fun b => b.agg == a.agg))
  installEgress q { s with tt := { s.tt with aggs := aggs, classes := classTable q base s.tt.shed } }

/-- A RESERVE section in force, placed without the sub-boxes of halted slices. -/
def installReserve (r : Reserve) (lost : List Nat) (s : State) : State :=
  { s with tt := { s.tt with placed := (placeAll (lostBoxes lost) r).getD [], period := r.p } }

/-- The carves of the aggregates that are guaranteed (R180). -/
def installCarves (i : TtImage) (s : State) : State :=
  let terms := (guaranteed s).flatMap (fun a => (demandOf i a.agg).terms)
  let stag := terms.foldl (fun (t : Tab Nat Nat) d =>
    if field d.res 28 4 = 5 then tset t (field d.res 0 28) (tget t (field d.res 0 28) 0 + d.amount) else t) []
  let pool := terms.foldl (fun (t : Tab (Nat × Nat) Nat) d =>
    let k := (field d.res 0 28 / 16, field d.res 0 28 % 4)
    if field d.res 28 4 = 6 then tset t k (tget t k 0 + d.amount) else t) []
  { s with tt := { s.tt with stagCarve := stag, poolCarve := pool } }

/-- Elastic weights of every port (R197). -/
def installWeights (i : TtImage) (s : State) : State :=
  s.ports.ports.foldl (fun (s : State) e =>
    (imgElastic i).zipIdx.foldl (fun (s : State) r =>
      updQueue e.1 (r.2 + 4) (fun q => { q with weight := r.1.weight, weightNx := none }) s) s) s

/-! ### Loss at a boundary (R28) -/

/-- A variant takes over: base aggregates it does not list are shed, with reason FALLBACK. -/
def applyVariant (i : TtImage) (n : Nat) (v : Variant) (causes : List (BitVec 32)) (s : State) : State :=
  let base := imgQmap i
  let q := v.qmap.getD base
  let gone := (sortBy (fun a b => decide (a.agg ≤ b.agg)) (guaranteed s)).filter (fun a => !q.aggs.any (fun b => b.agg == a.agg))
  let s := gone.foldl (fun s a => shedOne i causes a 3 s) s
  let s := installQmap q base { s with tt := { s.tt with variant := some n } }
  let s := installReserve (v.reserve.getD (imgReserve i)) (lostSlices v.loss) s
  raise 1440 (logAdd .service "FALLBACK_APPLIED" none [n, i.version] s)

/-- The variant whose descriptor equals a set of losses. -/
def variantFor (i : TtImage) (ls : List (BitVec 32)) : Option (Variant × Nat) :=
  (imgVariants i).zipIdx.find? (fun v => sameCodes v.1.loss ls)

/-- Fallback, or shed-to-fit; SHED once for all the aggregates shed. -/
def settleLoss (i : TtImage) (causes ls : List (BitVec 32)) (s : State) : State :=
  let before := s.tt.shed.length
  let s := match variantFor i ls with
    | some (v, n) => applyVariant i n v causes s
    | none => shedToFit i causes ls s
  let s := installCarves i s
  if s.tt.shed.length > before then raise 1441 s else s

/-! ### Code images (R37) -/

/-- Whether a named image is present on a slice. -/
def codePresent (s : State) (fixed : List Nat) (kind k d : Nat) : Bool :=
  let u := ucOf s k
  let a := agentOf s k
  match kind with
  | 1 => u.pAct.any (fun x => x.digest == d) || u.pShad.any (fun x => x.digest == d)
  | 2 => u.aAct.any (fun x => x.digest == d) || u.aShad.any (fun x => x.digest == d)
  | _ => a.image.any (fun x => x.digest == d) || (fixed.contains k && a.staged.any (fun x => x.digest == d))

/-- Whether the commit swaps in a slice's shadow bank: it holds the named image and the active bank does not. -/
def swapsIn (i : TtImage) (kind k : Nat) (act shad : Option UcodeImage) : Bool :=
  match codeDigest i kind k with
  | none => false
  | some d => !act.any (fun x => x.digest == d) && shad.any (fun x => x.digest == d)

/-- The images of a slice after the boundary agree (R140). -/
def agreeAfter (s : State) (i : TtImage) (k : Nat) : Bool :=
  let u := ucOf s k
  agree (if swapsIn i 1 k u.pAct u.pShad then u.pShad else u.pAct) (if swapsIn i 2 k u.aAct u.aShad then u.aShad else u.aAct)

def codeOk (s : State) (i : TtImage) (fixed : List Nat) : Bool :=
  (imgCode i).all (fun e => (slicesOf e.slices).all (fun k => codePresent s fixed e.kind k e.digest)) &&
    allSlices.all (agreeAfter s i)

/-- Agents whose named image is staged and not active. -/
def agentsToReset (s : State) (i : TtImage) : List Nat :=
  allSlices.filter (fun k =>
    match codeDigest i 3 k with
    | none => false
    | some d =>
      let a := agentOf s k
      !a.image.any (fun x => x.digest == d) && a.staged.any (fun x => x.digest == d))

/-! ### The irrevocable point (R36-R38, R404) -/

/-- R38: the resources present, as TT_LOAD checks them, and the code images. -/
def revalidates (s : State) (c : PendingCommit) (i : TtImage) : Bool :=
  matchesModule s i && feasible s i && codeOk s i c.fixed

/-- The lost resources as they are now (R404). -/
def recountLost (s : State) : State :=
  { s with tt := { s.tt with
    lost := lostAtPresent s, lostNow := s.tt.lostNow.filter (fun e => (lostAtPresent s).contains e.1) } }

def passIrrevocable (c : PendingCommit) (s : State) : State :=
  let s := recountLost s
  if s.tt.staged.any (revalidates s c) then { s with tt := { s.tt with commit := some { c with irrevocable := true } } }
  else finish c.hdr 0x0302 .timetableMismatch none [] { s with tt := { s.tt with commit := none } }

/-- TT_COMMIT_IRREVOCABLE, 50 µs before the target. -/
def execTtCommitIrrevocable (s : State) : Host.Outcome State Fault Refusal :=
  within s (
    match s.tt.commit with
    | none => .next s
    | some c => if !c.irrevocable && decide (cyclesToTarget s c.target ≤ 80000) then .next (passIrrevocable c s) else .next s)

/-! ### A commit takes effect (R34, R37, R110, R180, R185) -/

/-- The banks exchange; what the base image says is in force. -/
def installImage (i : TtImage) (s : State) : State :=
  let meters : Tab (Nat × Nat) MeterSt :=
    (imgMeters i).map (fun m => ((m.slice, m.meter), ⟨m.param, imCap m.param, s.time.hwCount⟩))
  let s := { s with tt := { s.tt with
    active := some i, staged := s.tt.active, variant := none, commit := none, shed := [], meters := meters
    nPlaced := distinctBlocks i } }
  let s := installReserve (imgReserve i) [] (installQmap (imgQmap i) (imgQmap i) s)
  installCarves i (installWeights i s)

/-- The code images a commit swaps in, and the agents it resets. -/
def installCode (i : TtImage) (fixed : List Nat) (s : State) : State :=
  let s := allSlices.foldl (fun (s : State) k =>
    let u := ucOf s k
    let s := if swapsIn i 1 k u.pAct u.pShad then swapParser k s else s
    if swapsIn i 2 k u.aAct u.aShad then swapAction k s else s) s
  fixed.foldl (fun (s : State) k => startAgentReset k none s) s

/-- The stores a commit sizes anew. -/
def installSizes (f : Features) (s : State) : State :=
  let s := flowResize f.b f.stash s
  if f.gib = s.egr.gib then s
  else
    let s := sidingFlush s
    { s with egr := { s.egr with gib := f.gib } }

/-- The service processor draws a salt where none was set (R71). -/
def drawSalt (s : State) : State :=
  if s.world.salt.isSome then s
  else
    let (n, s) := draw s
    { s with world := { s.world with salt := some (Config.drawnSalt (n + 1)) } }

def commitEffect (c : PendingCommit) (i : TtImage) (s : State) : State :=
  let ls := lostSet s s.time.now
  let s := match s.ports.staged with
    | some m => applyMap m s
    | none => s
  let s := installImage i { s with tt := { s.tt with
    lostNow := s.tt.lostNow.filter (fun e => decide (e.2 + 80000 > s.time.now)) } }
  let s := if ls.isEmpty then s else settleLoss i ls ls s
  let s := drawSalt (installSizes (imgFeatures i) (installCode i c.fixed s))
  let s := noResvCheck s
  finish c.hdr 0x0302 .ok none [fld "ORBIT" s.time.orbit, fld "SHED" s.tt.shed.length] s

/-- What a boundary that begins now does to the timetable: a commit that targets it, else the losses it acts on (Table 1-11). -/
def ttBoundary (s : State) : State :=
  let due (c : PendingCommit) : Bool := c.target == s.time.orbit
  let s := match s.tt.commit with
    | some c => if due c && !c.irrevocable then passIrrevocable c s else s
    | none => s
  let new := newLosses s s.time.now
  match s.tt.commit.filter due, s.tt.staged with
  | some c, some i => raiseEmptying (raiseBounds (commitEffect c i s))
  | _, _ =>
    let ls := lostSet s s.time.now
    let s := { s with tt := { s.tt with lostNow := s.tt.lostNow.filter (fun e => decide (e.2 + 80000 > s.time.now)) } }
    match new, s.tt.active with
    | _ :: _, some i => raiseEmptying (raiseBounds (noResvCheck (settleLoss i new ls s)))
    | _, _ => s

/-! ### Commands (Table 1-10) -/

/-- TT_LOAD: `bytes` are those at the host address, as many as the command's length says. -/
def execTtLoad (h : Hdr) (bytes : List Byte) (s : State) : Host.Outcome State Fault Refusal :=
  within s (
    .next (qcp { code := 0x0301, world := .secure, host := true } h (fun s =>
      if s.tt.commit.isSome then .refuse .busy none
      else
        let img := readImage bytes
        match imageRefusal s img with
        | some (st, d) => .reply st d [] { s with tt := { s.tt with staged := none } }
        | none => .done [fld "TT_VERSION" img.version] { s with tt := { s.tt with staged := some img } }) s))

/-- TT_COMMIT. DESIGN CHOICE (log entry 103): from its acceptance on a first commit has been made, for R71, even where it is aborted. -/
def execTtCommit (h : Hdr) (version : Nat) (target : Nat) (s : State) : Host.Outcome State Fault Refusal :=
  within s (
    .next (qcp { code := 0x0302, world := .secure,
                 modeOk := [Mode.boot, .calibrate, .service, .holdover].contains s.mode.mode,
                 lifeOk := s.world.lifecycle != .returned } h (fun s =>
      match s.tt.staged.filter (fun i => i.version == version) with
      | none => .refuse .notFound none
      | some i =>
        match targetAhead s target with
        | none => badParam (po 1)
        | some n =>
          let fixed := agentsToReset s i
          let ds := Domain.timetable :: sliceDoms fixed
          withTablets .tc ds s (.pend (tabletTake .tc ds h 0x0302 { s with tt := { s.tt with
            committed := true, commit := some ⟨h, version, (s.time.orbit + n) % 2 ^ 32, false, fixed⟩ } }))) s))

def execTtAbort (h : Hdr) (version : Nat) (s : State) : Host.Outcome State Fault Refusal :=
  within s (
    .next (qcp { code := 0x0303, world := .secure } h (fun s =>
      match s.tt.commit.filter (fun c => c.version == version) with
      | none => .refuse .notFound none
      | some c =>
        if c.irrevocable || decide (cyclesToTarget s c.target ≤ 80000) then .refuse .running none
        else .done [] (finish c.hdr 0x0302 .cancelled none [] { s with tt := { s.tt with commit := none } })) s))

/-- The class-array diagnostics of TT_STATUS (R73): the entries in force on each slice (log entry 130). -/
def classDiag (s : State) : RField :=
  ⟨"CLASS_ENTRIES", 2, allSlices.map (fun k => (s.tt.classes.filter (fun e => e.1.1 == k)).length)⟩

def execTtStatus (h : Hdr) (s : State) : Host.Outcome State Fault Refusal :=
  within s (
    .next (qcp { code := 0x0304, reads := true } h (fun s =>
      .done [fld "ACTIVE" ((s.tt.active.map (fun i => i.version)).getD 0), fld "STAGED" ((s.tt.staged.map (fun i => i.version)).getD 0),
        flds "VARIANT" s.tt.variant.toList, flag "ALIGN_INVALID" (!s.clock.alignValid),
        flds "PENDING_TARGET" (s.tt.commit.map (fun c => c.target)).toList, classDiag s] s) s))

def shedFlds (e : ShedEnt) : List RField :=
  [⟨"AGG", 4, [e.agg]⟩, ⟨"PRECEDENCE", 2, [e.prec]⟩, ⟨"REASON", 1, [e.reason]⟩, ⟨"RESERVED", 1, [0]⟩, ⟨"ORBIT", 4, [e.orbit]⟩,
   ⟨"LOSS", 4, [e.loss.toNat]⟩]

def execTtShedRead (h : Hdr) (first : Nat) (count : Nat) (s : State) : Host.Outcome State Fault Refusal :=
  within s (
    .next (qcp { code := 0x0305, reads := true } h (fun s =>
      if !rangeOk first count 65536 then badParam (po 1)
      else .done (((s.tt.shed.drop first).take count).flatMap shedFlds) s) s))

/-- The counters of R24. -/
def aggFlds (s : State) (a : Nat) : RField :=
  flds "AGG" [ctr s .accepted a 0, ctr s .demoted a 0, ctr s .refusedNc a 0, ctr s .lateAgg a 0]

def execTtAggRead (h : Hdr) (first : Nat) (count : Nat) (s : State) : Host.Outcome State Fault Refusal :=
  within s (
    .next (qcp { code := 0x0306, reads := true } h (fun s =>
      if !rangeOk first count 65536 then badParam (po 1)
      else .done ((List.range count).map (fun i => aggFlds s (first + i))) s) s))

end Sys2Proof.Machine
end

