-- ==== Sys2Proof/Machine/Schedule.lean ====
section
/-! DEFINITION. The end of a core cycle (Table 0-6, R9, R10): whatever falls in this cycle and whose row has not come happens now, in one
order, then what the cycle deferred (log entries 7 and 26). Here too stand CELL_INJECT and UPDATE_SLOT, whose turn comes after the
lookups of their cycle. -/

namespace Sys2Proof.Machine

/-- What a row leaves of the state; a row that stops leaves it as it was. -/
def rowLeaves (f : State → Host.Outcome State Fault Refusal) (s : State) : State :=
  match f s with
  | .next t => t
  | _ => s

/-! ### The forwarding path -/

/-- The learn ring of a home slice: requests join their headway, and every message due is handled (R120-R128). -/
def ringSlice (k : Nat) (s : State) : State :=
  let s := learnArrives k s
  let turn (s : State) : State := rowLeaves (execPairDelete k) (rowLeaves (execPairAge k) (rowLeaves (execPairAnswer k) s))
  (List.range s.flow.ring.length).foldl (fun (s : State) _ => turn s) s

/-- The messages of the learn ring that are due. -/
def ringDue (s : State) : Bool := s.flow.ring.any (fun m => decide (m.due ≤ s.time.now))

def ringCycle (s : State) : State :=
  if ringDue s then
    takeLive ((allSlices.filter (fun k => s.flow.ring.any (fun m => m.dst == k && decide (m.due ≤ s.time.now)))).foldl
      (fun (s : State) k => ringSlice k s) s)
  else s

/-- Siding reads that return (R186). -/
def sidingCycle (s : State) : State :=
  s.egr.sides.foldl (fun (s : State) e => sideReturns e.1 e.2.cells.length s) s

/-- Ingress and lookup: tail statuses (R148), the front end (Table 3-1), the words and decisions (Table 6-3). -/
def lookupCycle (s : State) : State := headersCycle (frontCycle (tailsCycle s))

/-- That part of the cycle, once. -/
def lookupOnce (s : State) : State := once 1 lookupCycle s

/-- Every cell that has spent its 96 cycles is released (R161). -/
def releaseCycle (s : State) : State :=
  if s.fab.transit.isEmpty then s else allSlices.foldl (fun (s : State) k => releasesLeft k 3 s) s

/-- The injection ports of a slice below a lane. -/
def injectBelow (slice lane : Nat) (s : State) : State :=
  (List.range lane).foldl (fun (s : State) l => injectSlot slice l s) s

/-- Whether any slot of the fabric can find something to send, or is counted idle. -/
def injects (s : State) : Bool := forwarding s && (!s.fab.grants.isEmpty || s.tt.placed.any (fun b => !b.isEmpty))

/-- The depths of this cycle, then every injection port. -/
def injectCycle (s : State) : State :=
  let s := once 2 voqDepths s
  if injects s then allSlices.foldl (fun (s : State) k => injectBelow k 3 s) s else s

/-- CELL_INJECT (R157, R164): the slot of an ingress slice on a lane, after the decisions of the cycle and the lanes below. -/
def execCellInject (slice : Nat) (lane : Nat) (s : State) : Host.Outcome State Fault Refusal :=
  within s (
    if slice ≥ 32 ∨ lane ≥ 3 then .next s
    else .next (injectBelow slice (lane + 1) (once 2 voqDepths (lookupOnce s))))

/-- Whether a port's scheduler may act. -/
def selects (s : State) : Bool := forwarding s && s.ports.ports.any (fun e => e.2.link)

/-- Every port's scheduler (R195, R196). -/
def selectCycle (s : State) : State :=
  if selects s then s.ports.ports.foldl (fun (s : State) e => rowLeaves (execEgressSelect e.1) s) s else s

/-- The forwarding path in a cycle. -/
def pathCycle (s : State) : State :=
  let s := injectCycle (releaseCycle (lookupOnce (sidingCycle (ringCycle s))))
  selectCycle (admitReleased (underruns s))

/-! ### Arrays and statistics -/

/-- Whether a slice's arrays have an update to make: a repair, a step, a replenishment. -/
def updates (s : State) (k : Nat) : Bool :=
  !(stepsOf s k).isEmpty || !(tget s.arr.repairs k []).isEmpty ||
    (slotReserved s && ((tfind s.arr.repl k).isSome || s.arr.shadow.any (fun e => e.1.1 == k)))

/-- The update slots of every slice (R88, R91). -/
def slotsCycle (s : State) : State :=
  allSlices.foldl (fun (s : State) k => if updates s k then updateSlot k (updateSlot k s) else s) s

/-- UPDATE_SLOT: the next update slot of a slice in this cycle, once its searches are known (R90, R91). -/
def execUpdateSlot (slice : Nat) (s : State) : Host.Outcome State Fault Refusal :=
  within s (if slice ≥ 32 then .next s else .next (updateSlot slice (lookupOnce s)))

/-- Histogram samples (R207) and targeted refreshes (R222). -/
def statsCycle (s : State) : State :=
  let s := if s.ports.ports.isEmpty || hwPos s != 0 then s
    else allSlices.foldl (fun (s : State) k => rowLeaves (execHistSample k) s) s
  triggersCycle s

/-! ### Clock, modes, agents -/

/-- The TIME_IO pins and PPS_OUT (R245, R246); in STANDBY nothing drives them (log entry 116). -/
def pinsCycle (s : State) : State :=
  if s.mode.mode = .standby then s
  else
    let s := [0, 1, 2, 3].foldl (fun (s : State) p => rowLeaves (execTimeIoOneShot p) (rowLeaves (execTimeIoPeriodicEdge p) s)) s
    pinsEnd (rowLeaves (execTimeIoPeriodicEdge 5) s)

/-- What the clock brings about: irrevocable points (R36, R240), holdover (R243), a new hour's commit (R359), DARK (R343). -/
def clockCycle (s : State) : State :=
  let s := rowLeaves execTimeStepIrrevocable (rowLeaves execTtCommitIrrevocable (pinsCycle s))
  beginDark (hourlyCommit (rowLeaves execHoldoverEntry s))

/-! ### What the cycle deferred -/

/-- One deferred act. -/
def runLateOne (s : State) (c : Late) : State :=
  match c with
  | .evcEoi sp => eoi sp s
  | .evcPending sp n v => pendingWrite sp n v s
  | .unmask => unmask s
  | .doorbell w t => doorbell w t s
  | .ringHead w k h => headWrite w k h s
  | .ringEnable w k => ringEnable w k s
  | .ringDisable w k => ringDisable w k s
  | .ringConfig w k b l => configWrite w k b l s
  | .traceHead w k h => traceHead w k h s
  | .register w o v => registerWrite w o v s
  | .timeout r q t => commandTimeout r q t s
  | .take k => taskRow k 0 effTake s
  | .prefetch k => dispatch k s
  | .waitEnd k t => endWait k t s

/-- Register writes, timeouts and the like take effect in the order in which they came (R9, R10). -/
def runLate (s : State) : State := s.late.foldl runLateOne { s with late := [] }

/-! ### The end of a cycle -/

/-- A host ring whose first waiting reply lacks room counts the cycle (R279). -/
def countStall (w : World) (s : State) : State :=
  if replyStalled s w then pmcCount 45 0x302 (worldIx w) 1 (bump .qcpReplyStall (worldIx w) 0 s) else s

/-- What a cycle was keeping for its own length is dropped. -/
def cycleDone (s : State) : State :=
  { s with ran := [], arr := { s.arr with used := [] }, egr := { s.egr with freed := [] } }

/-- The occupancy maxima of the slices, where any pool holds a cell (R192). -/
def useCycle (s : State) : State :=
  if s.egr.bufs.isEmpty && s.fab.transit.isEmpty then s else allSlices.foldl (fun (s : State) k => noteUse k s) s

/-- Everything that falls in a cycle, then what it deferred, then what it observed. -/
def cycleWork (s : State) : State :=
  let s := clockCycle (statsCycle (slotsCycle (pathCycle s)))
  let s := countStall .secure (countStall .nonSecure s)
  let s := runLate (timeoutsCycle (agentsCycle s))
  let s := observeEnd (evcEnd (agentCycle s))
  cycleDone (pmcEnd (seeEmpty (useCycle s)))

/-! ### Cycles in which nothing happens -/

/-- Nothing moves on the forwarding path. -/
def idlePath (s : State) : Bool :=
  s.frames.isEmpty && s.fab.transit.isEmpty && !injects s && !selects s && !ringDue s &&
    s.fab.voqE.all (fun e => e.2.isEmpty) && s.fab.voqM.all (fun e => e.2.isEmpty) &&
    s.egr.sides.all (fun e => e.2.cells.all (fun c => c.readAt.isNone)) && s.egr.released.isEmpty && s.egr.freed.isEmpty &&
    s.egr.samples.isEmpty && s.egr.delays.isEmpty

/-- No array has an update to make, no channel a refresh to trigger. -/
def idleArrays (s : State) : Bool :=
  s.arr.shadow.isEmpty && s.arr.repl.isEmpty && s.arr.queues.all (fun e => e.2.isEmpty) && s.arr.repairs.all (fun e => e.2.isEmpty) &&
    s.arr.used.isEmpty && s.hbm.chans.all (fun e => e.2.acts.all (fun a => decide (a.count < s.hbm.thresh))) &&
    (s.ports.ports.isEmpty || hwPos s != 0)

/-- A pin drives nothing, and no pulse ends, within `n` cycles. -/
def idlePin (n : Nat) (s : State) (p : Nat) : Bool :=
  let x := pinOf s p
  (match periodOf s p with
    | some (per, ph, _) =>
      let off := (s.time.tc + (per - ph % per)) % per
      off != 0 && decide (off + n * unitsPerCycle ≤ per)
    | none => true) &&
  (match x.fn with
    | some (.oneShot t _) => x.fired || decide (t ≥ s.time.tc + n * unitsPerCycle)
    | _ => true) &&
  x.fallAt.all (fun t => decide (t ≥ (s.time.now + n) * 8))

/-- The clock brings nothing about within `n` cycles. -/
def idleClock (n : Nat) (s : State) : Bool :=
  (s.mode.mode == .standby || (s.clock.pinsNx.isEmpty && [0, 1, 2, 3, 5].all (idlePin n s))) &&
    s.tt.commit.all (fun c => c.irrevocable || decide (cyclesToTarget s c.target > 80000 + n)) &&
    s.clock.step.all (fun p => p.irrevocable || decide (cyclesToTarget s p.target > 80000 + n)) &&
    !holdoverDue { s with time := { s.time with now := s.time.now + n } } &&
    hourOf (s.time.tc + n * unitsPerCycle) == hourOf s.log.commitAt &&
    !(s.mode.mode == .drain && s.mode.phase == .emptying)

/-- Neither the protocol, nor events, nor counters have anything to do. -/
def idleHost (s : State) : Bool :=
  s.late.isEmpty && s.ran.isEmpty && s.agents.isEmpty && s.qcp.exec.all (fun e => e.st == .pending) &&
    !replyStalled s .secure && !replyStalled s .nonSecure && s.evc.setNow.isEmpty && (lineNow s == s.evc.line) &&
    s.pmu.now.isEmpty && s.pmu.occ.isEmpty && s.pmu.cfg.isEmpty && s.pmu.userNx.isNone && !s.pmu.ctl.any (fun e => e.2.getLsbD 11)

/-- Whether the next `n` cycles change nothing but the clock. -/
def quiet (n : Nat) (s : State) : Bool := idlePath s && idleArrays s && idleClock n s && idleHost s

end Sys2Proof.Machine
end

