-- ==== Sys2Proof/Machine/SignalBox.lean ====
section
/-! DEFINITION. The signal box (R168–R172, R174, R182): reports at a block's first cycle, the grants of the next block, and what a
block boundary does. -/

namespace Sys2Proof.Machine

/-! ### The map of the next block (R174) -/

/-- The cycle in which the present headway ends. -/
def hwEnd (s : State) : Nat := s.time.hwStart + s.time.hwLen

/-- Whether the present block is its headway's last. -/
def lastBlock (s : State) : Bool := decide (s.time.now + 32 - hwPos s % 32 ≥ hwEnd s)

/-- The timetable as the next orbit's first block will find it. -/
def ttAhead (s : State) : TtSt :=
  (ttBoundary { s with time := { s.time with orbit := nextOrbit s, now := hwEnd s } }).tt

/-- The reserved sub-boxes of the next block. -/
def nextResv (s : State) : List Resv :=
  if !lastBlock s then resvIn s.tt.placed s.tt.period s.time.headway (blockNow s + 1)
  else if s.time.headway < 6249 then resvIn s.tt.placed s.tt.period (s.time.headway + 1) 0
  else
    let t := ttAhead s
    resvIn t.placed t.period (nextHw s).2 0

/-! ### Reports (R168) -/

/-- A cell of a train that a report may count: it entered before this cycle; the head only where no other cell of its frame is
left. -/
def reportable (s : State) (left : List VCell) (c : VCell) : Bool :=
  decide (c.ready < s.time.now) && (!c.last || !left.any (fun x => x.fid == c.fid && !x.last))

/-- Takes the cells that grants already made will carry. -/
def takeGranted (s : State) : Nat → List VCell → List VCell
  | 0, q => q
  | n + 1, q =>
    match q.find? (reportable s q) with
    | none => q
    | some c => takeGranted s n (q.erase c)

/-- What a pair reports: its cells less the grants of the block that begins. -/
def pairReq (s : State) (i j : Nat) (q : List VCell) : Nat :=
  let granted := (s.fab.grants.filter (fun g => !g.mcast && g.i == i && g.dests.contains j)).length
  let q := takeGranted s granted (sortBy (fun a b => decide (a.ready ≤ b.ready)) q)
  (q.filter (reportable s q)).length

/-- A multicast queue's cells with their remaining sets, as the grants of the block that begins will leave them. -/
def mcastLeft (s : State) (i : Nat) (q : List VCell) : List (BitVec 32) :=
  let q := (sortBy (fun a b => decide (a.ready ≤ b.ready)) q).filter (fun c => decide (c.ready < s.time.now))
  (s.fab.grants.filter (fun g => g.mcast && g.i == i)).foldl (fun l g =>
    match l with
    | [] => []
    | m :: r => let m' := clearBits m g.dests; if m' = 0 then r else m' :: r) (q.map (fun c => c.left))

/-! ### Matching (R169-R172) -/

/-- What the signal box holds while it computes a block. -/
structure Match where
  req    : Tab (Nat × Nat) Nat
  mc     : Tab Nat (List (BitVec 32))
  gp     : Tab (Nat × Nat) Nat
  ap     : Tab (Nat × Nat) Nat
  grants : List Grant
  deriving DecidableEq, Repr

/-- The slices from `p` upwards, wrapping. -/
def fromUp (p : Nat) : List Nat := (List.range 32).map (fun n => (p + n) % 32)

/-- Whether the remaining set of an ingress slice's multicast head names an egress slice. -/
def mcWants (x : Match) (i j : Nat) : Bool := ((tget x.mc i []).head?.map (fun m => m.getLsbD j)).getD false

/-- Whether ingress i requests egress j: for its multicast head where that still needs j, else for unicast. -/
def requests (x : Match) (i j : Nat) : Bool := mcWants x i j || decide (tget x.req (i, j) 0 > 0)

/-- One iteration of a sub-box: the accepted ingress slices, with the egress slices served and whether for multicast. -/
def iterate (x : Match) (lane : Nat) (is js : List Nat) : List (Nat × List Nat × Bool) :=
  let grantOf (j : Nat) : Option Nat := (fromUp (tget x.gp (lane, j) 0)).find? (fun i => is.contains i && requests x i j)
  let grants := js.filterMap (fun j => (grantOf j).map (fun i => (i, j)))
  is.filterMap (fun i =>
    let held := (grants.filter (fun g => g.1 == i)).map (fun g => g.2)
    match (fromUp (tget x.ap (lane, i) 0)).find? (fun j => held.contains j) with
    | none => none
    | some j =>
      if mcWants x i j then some (i, j :: held.filter (fun k => k ≠ j ∧ mcWants x i k), true) else some (i, [j], false))

/-- Records what a sub-box accepted; pointers move on first-iteration accepts. -/
def accept (lane c : Nat) (first : Bool) (l : List (Nat × List Nat × Bool)) (x : Match) : Match :=
  l.foldl (fun (x : Match) a =>
    let i := a.1
    let js := a.2.1
    let x := { x with grants := x.grants ++ [⟨i, c, js, a.2.2⟩] }
    let x := if a.2.2 then
        match tget x.mc i [] with
        | m :: r => let m' := clearBits m js; { x with mc := tset x.mc i (if m' = 0 then r else m' :: r) }
        | [] => x
      else js.foldl (fun (x : Match) j => { x with req := tset x.req (i, j) (tget x.req (i, j) 0 - 1) }) x
    if first then
      { x with gp := js.foldl (fun t j => tset t (lane, j) ((i + 1) % 32)) x.gp
               ap := tset x.ap (lane, i) (((js.headD 0) + 1) % 32) }
    else x) x

/-- One sub-box: two iterations among the slices free at it. -/
def matchBox (lane m : Nat) (resv : List Resv) (halted full : List Nat) (x : Match) : Match :=
  if halted.contains m then x
  else
    let c := 3 * m + lane
    let used := resv.filter (fun r => r.c == c)
    let is := allSlices.filter (fun i => !halted.contains i && !used.any (fun r => r.i == i))
    let js := allSlices.filter (fun j => !halted.contains j && !full.contains j && !used.any (fun r => r.j == j))
    let a := iterate x lane is js
    let x := accept lane c true a x
    let is := is.filter (fun i => !a.any (fun e => e.1 == i))
    let js := js.filter (fun j => !a.any (fun e => e.2.1.contains j))
    accept lane c false (iterate x lane is js) x

/-- The requests of every pair and of every multicast queue. -/
def reports (s : State) : Match where
  req := (s.fab.voqE.map (fun e => (e.1, pairReq s e.1.1 e.1.2 e.2))).filter (fun e => e.2 > 0)
  mc := (s.fab.voqM.map (fun e => (e.1, mcastLeft s e.1 e.2))).filter (fun e => !e.2.isEmpty)
  gp := s.fab.gp
  ap := s.fab.ap
  grants := []

/-- The grants of the next block. -/
def computeGrants (s : State) (x : Match) : Match :=
  if x.req.isEmpty && x.mc.isEmpty then x
  else
    let resv := nextResv s
    (List.range 32).foldl (fun x n =>
      let m := (s.time.blkCount + n) % 32
      [0, 1, 2].foldl (fun x lane => matchBox lane m resv s.fab.halted s.fab.full x) x) x

/-! ### A block boundary -/

/-- FULL reports (R182). -/
def reportFull (s : State) : State :=
  let full := (liveSlices s).filter (fun k => decide (freePool s k < 384))
  full.foldl (fun (s : State) k => pmcCount 32 0x103 k 1 (bump .fullBlocks k 0 s)) { s with fab := { s.fab with full := full } }

/-- What a block's first cycle does: the grants computed in the last block come into force, the next are computed. -/
def blockEffects (s : State) : State :=
  let s := reportFull s
  let s := { s with fab := { s.fab with grants := s.fab.next } }
  let x := computeGrants s (reports s)
  let s := { s with fab := { s.fab with next := x.grants, gp := x.gp, ap := x.ap } }
  x.grants.foldl (fun (s : State) g => pmcCount 32 0x101 g.i 1 s) s

end Sys2Proof.Machine
end

