-- ==== Sys2Proof/Machine/Boundary.lean ====
section
/-! DEFINITION. The passage of time (R11–R13, Table 1-1): what a core cycle, a block boundary, a headway boundary and an orbit
boundary do. -/

namespace Sys2Proof.Machine

/-! ### One cycle -/

/-- The clock a number of cycles on. -/
def TimeSt.advance (t : TimeSt) (n : Nat) : TimeSt := { t with now := t.now + n, tc := t.tc + unitsPerCycle * n }

/-- A core cycle ends, the next begins: the work of the cycle is done, and occupancies are sampled for the counters (R353). -/
def endCycle (s : State) : State := occStart { cycleWork s with time := s.time.advance 1 }

/-- A number of cycles pass with no command; those in which nothing happens pass at once. -/
def passCycles : Nat → State → State
  | 0, s => s
  | n + 1, s => if quiet (n + 1) s then { s with time := s.time.advance (n + 1) } else passCycles n (endCycle s)

/-! ### Orbits -/

/-- Alignment is judged at an orbit boundary (R26). -/
def judgeAlignment (s : State) : State := { s with clock := { s.clock with alignValid := alignOk s } }

/-- What a port counts afresh in every orbit. -/
def portsOrbit (s : State) : State :=
  { s with ports := { s.ports with ports := s.ports.ports.map (fun e => (e.1, { e.2 with learns := 0, ptpSent := 0 })) } }

/-- Work at a boundary that leaves the clock where it stands. -/
def atClock (f : State → State) (s : State) : State := { f s with time := s.time }

/-- A reset that a command asked for begins at an orbit boundary. -/
def resetBoundary (s : State) : State := if s.mode.resetReq then requestedReset s else s

/-- What every orbit counts: a millisecond in the mode and of each lit cartridge (Table 18-4), and the orbits since a step (R26). -/
def countOrbit (s : State) : State :=
  let s := ((List.range 16).filter (fun c => supplies (cartOf s c))).foldl
    (fun s c => logSum .optics ("LIT_MS " ++ toString c) 1 s) s
  let s := logSum .use ("MODE_MS " ++ toString (modeCode s.mode.mode)) 1 s
  { s with clock := { s.clock with stepHold := s.clock.stepHold - 1 } }

/-- What takes effect at the first cycle of an orbit, whose number `time` already holds; only a time step moves the clock, and first: what
the boundary records then carries the orbit number after the step (R242). -/
def orbitEffects (s : State) : State :=
  atClock (fun s => resetBoundary (serviceBoundary (portsOrbit (fecEval (judgeAlignment (beginEmptying (ttBoundary s)))))))
    (applyTimeStep (slewOrbit (countOrbit s)))

/-! ### Headways -/

/-- What every headway boundary does; `h` is the index of the headway that has ended. The flow and maintenance windows of the calendar
come before the siding's (Table 10-3). -/
def headwayEffects (h : Nat) (s : State) : State :=
  let s := egressHeadway (macsecBoundary (versionSwitch (meterHeadway s)))
  let s := maintHeadway s.time.headway (hbmHeadway (flowHeadway h s))
  let s := agentHeadway s.time.headway s
  let s := allSlices.foldl (fun s k => sidingHeadway k s) (parseHeadway s)
  pmuHeadway (ucodeHeadway { s with trapHw := [] })

/-- The next headway's place, before a time step. -/
def TimeSt.nextHeadway (t : TimeSt) : TimeSt :=
  if t.headway < 6249 then { t with hwStart := t.now, hwLen := 256, headway := t.headway + 1, hwCount := t.hwCount + 1 }
  else
    { t with hwStart := t.now, hwLen := 256, headway := 0, hwCount := t.hwCount + 1, orbit := (t.orbit + 1) % 2 ^ 32,
             orbCount := t.orbCount + 1 }

/-- A new headway begins, and with the last headway of an orbit a new orbit. -/
def enterHeadway (s : State) : State :=
  let h := s.time.headway
  let s := { s with time := s.time.nextHeadway }
  atClock (headwayEffects h) (if h < 6249 then s else orbitEffects s)

/-- A new block begins. -/
def enterBlock (s : State) : State :=
  atClock blockEffects { s with time := { s.time with blkCount := s.time.blkCount + 1 } }

/-- What begins in the cycle just reached. -/
def arrive (s : State) : State :=
  if s.time.now ≥ hwEnd s then occStart (enterBlock (enterHeadway s))
  else if hwPos s % 32 = 0 then occStart (enterBlock s)
  else s

/-- One core cycle passes, with no command waiting (log entry 2). -/
def tick (s : State) : State := { arrive (endCycle s) with pending := s.pending }

/-! ### The rows -/

/-- The cycle in which the next block begins: headways cut the blocks anew (R241). -/
def nextBlockAt (s : State) : Nat := min (hwEnd s) (s.time.hwStart + (hwPos s / 32 + 1) * 32)

/-- Time runs to the next block boundary. -/
def crossBlock (s : State) : State := arrive (passCycles (nextBlockAt s - s.time.now) s)

/-- The block boundaries up to the end of the present headway. -/
def blocksLeft (s : State) : Nat := (hwEnd s - (s.time.hwStart + hwPos s / 32 * 32) + 31) / 32

/-- Time runs to the next headway boundary. -/
def crossHeadway (s : State) : State := crossBlock^[max 1 (blocksLeft s)] s

/-- Time runs to the next orbit boundary. -/
def crossOrbit (s : State) : State := crossHeadway^[max 1 (6250 - s.time.headway)] s

/-- Time passes, the queue of waiting commands stands. -/
def timePasses (s t : State) : Host.Outcome State Fault Refusal := .next { t with pending := s.pending }

def execBlockBoundary (s : State) : Host.Outcome State Fault Refusal := timePasses s (crossBlock s)
def execHeadwayBoundary (s : State) : Host.Outcome State Fault Refusal := timePasses s (crossHeadway s)
def execOrbitBoundary (s : State) : Host.Outcome State Fault Refusal := timePasses s (crossOrbit s)

end Sys2Proof.Machine
end

