-- ==== Sys2Proof/Machine/HostRead.lean ====
section
/-! DEFINITION. What a read of a host register returns (R7, Tables 15-2, 20-1 to 20-5): a function of the state. The reads that also change
it (TIME_LO, EVC_CLAIM, BAR_ACCESS_ERR) have rows of their own, and return what they do here. -/

namespace Sys2Proof.Machine

/-- The bits of a 32-bit register from `lo` up, as a mask. -/
def upper (lo : Nat) : Nat := bitsMask 31 lo

/-- The running firmware's version word and slot. -/
def fwWord (s : State) : Nat :=
  ((fwValid s s.world.runB).map (fun i => i.version)).getD 0 % 2 ^ 31 + 2 ^ 31 * s.world.runB.toNat

/-- Identity and mode (Table 20-2). -/
def identityRead (s : State) (w : World) (reg n : Nat) : Nat :=
  match reg with
  | 0x00 => 0x53512048
  | 0x04 => withUndefined (0xB0 + 0x01 * 256) (upper 16) n
  | 0x08 => withUndefined (worldIx w + 2 * s.world.locked.toNat + 4 * lifeCode s.world.lifecycle) (upper 5) n
  | 0x0C => withUndefined (modeWord s) modeUndef n
  | 0x10 => fwWord s
  | 0x14 => ctr s .barAccessErr (worldIx w) 0
  | _ => withUndefined 0 (upper 0) n

/-- One ring's register set (Table 20-4). -/
def ringRegRead (s : State) (w : World) (k : RingKind) (reg n : Nat) : Nat :=
  let g := ringOf s w k
  if !hasRing w k then 0
  else
    match reg with
    | 0x00 => withUndefined (g.base % 2 ^ 32 / 4096 * 4096) (bitsMask 11 0) n
    | 0x04 => g.base / 2 ^ 32 % 2 ^ 32
    | 0x08 => withUndefined (g.log2 % 32) (upper 5) n
    | 0x0C => withUndefined (ringCtrl s w k) (upper 4) n
    | 0x10 => withUndefined (g.prod % 2 ^ 16) (upper 16) n
    | 0x14 => withUndefined (g.cons % 2 ^ 16) (upper 16) n
    | _ => withUndefined 0 (upper 0) n

/-- TRACE_TAIL and TRACE_HEAD of a slice (R385); 0 in the function of the other world. -/
def traceRead (s : State) (w : World) (slice : Nat) (head : Bool) (n : Nat) : Nat :=
  let a := agentOf s slice
  match streamWorld s slice with
  | none => withUndefined 0 (upper 16) n
  | some x => if x = w then withUndefined ((if head then a.sHead else a.sTail) % 2 ^ 16) (upper 16) n else 0

/-- Time readout (Table 20-5): the function's latch; TIME_LO returns what it latches. -/
def timeRegRead (s : State) (w : World) (reg n : Nat) : Nat :=
  let l := tget s.clock.latches w [0, 0, 0, 0]
  match reg with
  | 0x00 => tcWord s.time.tc % 2 ^ 32
  | 0x04 => l.getD 0 0 / 2 ^ 32 % 2 ^ 32
  | 0x08 => l.getD 0 0 / 2 ^ 64 % 2 ^ 32
  | 0x0C => l.getD 1 0
  | 0x10 => withUndefined (l.getD 2 0 + 2 ^ 13 * l.getD 3 0) (upper 22) n
  | 0x14 => withUndefined ((!s.clock.alignValid).toNat + 2 * s.clock.step.isSome.toNat) (upper 2) n
  | _ => withUndefined 0 (upper 0) n

/-- EVC_PENDING[n] as the host reads it: 0 for a secure source and for 0x7FF (R314). -/
def pendingRead (s : State) (n : Nat) : Nat :=
  bitWord ((List.range 32).map (fun b =>
    let src := 32 * n + b
    decide (src < 2047) && !isSecureSrc s src && pendingBit s src))

/-- EVC_RUNPRIO of a target. -/
def runPrioRead (s : State) (sp : Bool) (n : Nat) : Nat :=
  withUndefined (runPrio s sp + 16 * (tget s.evc.stk sp []).length + 2 ^ 16 * (s.evc.ovf.contains sp).toNat +
    2 ^ 17 * (s.evc.eoiEmpty.contains sp).toNat) (bitsMask 15 9 + upper 18) n

/-- The event controller's block, host target (Table 15-2); the write-only EVC_EOI reads 0. -/
def evcRead (s : State) (reg n : Nat) : Nat :=
  if reg < 0x100 then pendingRead s (reg / 4)
  else if reg < 0x200 then (tget s.evc.enable (false, reg / 4 - 64) 0).toNat
  else if reg < 0x600 then (tget s.evc.prio (reg / 4 - 128) 0).toNat
  else if reg = 0x600 then withUndefined (claim false s).1 claimUndef n
  else if reg = 0x604 then 0
  else if reg = 0x608 then runPrioRead s false n
  else withUndefined 0 (upper 0) n

/-- The MSI-X table's entry and the pending-bit array (R387). -/
def msixRead (s : State) (reg : Nat) : Nat :=
  match reg with
  | 0x0 => s.evc.msixAddr % 2 ^ 32
  | 0x4 => s.evc.msixAddr / 2 ^ 32
  | 0x8 => s.evc.msixData
  | 0xC => s.evc.masked.toNat
  | 0x800 => s.evc.held.toNat
  | _ => 0

/-- What a 32-bit read of BAR0 at an offset returns through a world's function; `n` draws undefined bits. A misaligned read and an offset
outside every block read 0 (R380, R381); offsets inside a block to which no register is assigned are free (log entry 122). -/
def registerRead (s : State) (w : World) (offset n : Nat) : Nat :=
  if offset % 4 ≠ 0 then 0
  else if offset < 0x1000 then identityRead s w offset n
  else if offset < 0x1100 then ringRegRead s w (kindOfSet ((offset - 0x1000) / 0x40)) (offset % 0x40) n
  else if 0x2000 ≤ offset ∧ offset < 0x2100 then traceRead s w ((offset - 0x2000) / 8) (offset % 8 == 4) n
  else if 0x3000 ≤ offset ∧ offset < 0x4000 then timeRegRead s w (offset - 0x3000) n
  else if 0x10000 ≤ offset ∧ offset < 0x11000 then evcRead s (offset - 0x10000) n
  else if 0x20000 ≤ offset ∧ offset < 0x22000 then
    (if w = .nonSecure then userPage s ((offset - 0x20000) / 8 * 8) / 2 ^ (32 * (offset / 4 % 2)) % 2 ^ 32 else 0)
  else if 0x30000 ≤ offset ∧ offset < 0x31000 then (if w = .nonSecure then msixRead s (offset - 0x30000) else 0)
  else if (0x1100 ≤ offset ∧ offset < 0x2000) ∨ (0x2100 ≤ offset ∧ offset < 0x3000) then withUndefined 0 (upper 0) n
  else 0

/-- An aligned 64-bit read, which TIME_LO and the user counter page take (R381); any other reads 0. -/
def registerRead64 (s : State) (w : World) (offset : Nat) : Nat :=
  if offset = 0x3000 then tcWord s.time.tc % 2 ^ 64
  else if 0x20000 ≤ offset ∧ offset < 0x22000 ∧ offset % 8 = 0 ∧ w = .nonSecure then userPage s (offset - 0x20000)
  else 0

end Sys2Proof.Machine
end

