-- ==== Sys2Proof/Machine/Lookaside.lean ====
section
/-! DEFINITION. The lookaside cipher (chapter 12): its 16 contexts, the modes of Table 12-4 and their commands. -/

namespace Sys2Proof.Machine

/-! ### Blocks -/

/-- Splits bytes into `n` blocks. -/
def blocksOf : Nat → List Byte → List (BitVec 128)
  | 0, _ => []
  | n + 1, bs => packBlock (bs.take 16) :: blocksOf n (bs.drop 16)

/-- The counter block after one: GCM counts in the low 32 bits, CTR in all 128 (log entry 30). -/
def nextCounter (m : LaMode) (c : BitVec 128) : BitVec 128 :=
  match m with
  | .gcm => BitVec.ofNat 128 (c.toNat / 2 ^ 32 * 2 ^ 32 + (c.toNat + 1) % 2 ^ 32)
  | _ => c + 1

/-- The GHASH key block. -/
def hashKey (x : LaCtx) : BitVec 128 := aesEnc x.key 0

/-- One whole block of text through a context (R261): its output, if its mode has any, and the context after. -/
def laBlock (x : LaCtx) (b : BitVec 128) : List Byte × LaCtx :=
  match x.mode with
  | .ecb => (unpackBlock (if x.decrypt then aesDec x.key b else aesEnc x.key b), x)
  | .cbc =>
    if x.decrypt then (unpackBlock (aesDec x.key b ^^^ x.chain), { x with chain := b })
    else
      let c := aesEnc x.key (b ^^^ x.chain)
      (unpackBlock c, { x with chain := c })
  | .ctr => (unpackBlock (b ^^^ aesEnc x.key x.chain), { x with chain := nextCounter .ctr x.chain })
  | .gcm =>
    let n := nextCounter .gcm x.chain
    let o := b ^^^ aesEnc x.key n
    (unpackBlock o, { x with
      chain := n, ghash := ghashStep (hashKey x) x.ghash (if x.decrypt then b else o) })
  | .cmac => ([], { x with chain := aesEnc x.key (b ^^^ x.chain) })

def laBlocks : List (BitVec 128) → LaCtx → List Byte × LaCtx
  | [], x => ([], x)
  | b :: bs, x =>
    let (o, x1) := laBlock x b
    let (o', x2) := laBlocks bs x1
    (o ++ o', x2)

/-- Modes whose last whole block waits for LA_FINAL: its padding or its subkey depends on being last (log entry 31). -/
def holdsBack (x : LaCtx) : Bool :=
  match x.mode with
  | .ecb | .cbc => x.decrypt
  | .cmac => true
  | _ => false

/-- Text through a context: whole blocks are processed, the incomplete rest is held. -/
def laText (data : List Byte) (x : LaCtx) : List Byte × LaCtx :=
  let x := { x with text := x.text + data.length }
  let all := (x.prev.map unpackBlock).getD [] ++ x.part ++ data
  let n := all.length / 16
  if holdsBack x && all.length % 16 == 0 && n > 0 then
    let (o, x') := laBlocks (blocksOf (n - 1) all) x
    (o, { x' with part := [], prev := some (packBlock (all.drop (16 * (n - 1)))) })
  else
    let (o, x') := laBlocks (blocksOf n all) x
    (o, { x' with part := all.drop (16 * n), prev := none })

/-- Blocks of authenticated-only data. -/
def laAadBlocks (bs : List (BitVec 128)) (x : LaCtx) : LaCtx :=
  { x with ghash := bs.foldl (fun g b => ghashStep (hashKey x) g b) x.ghash }

def laAad (data : List Byte) (x : LaCtx) : LaCtx :=
  let all := x.part ++ data
  let n := all.length / 16
  { laAadBlocks (blocksOf n all) x with aadBytes := x.aadBytes + data.length, part := all.drop (16 * n) }

/-- Before a GCM context's first text the AAD's incomplete block is padded and hashed. -/
def endAad (x : LaCtx) : LaCtx :=
  if x.mode = .gcm ∧ x.text = 0 ∧ x.part ≠ [] then { laAadBlocks [packBlock x.part] x with part := [] } else x

/-! ### LA_FINAL (Table 12-4) -/

/-- The last plaintext block with its PKCS #7 padding removed; none where the padding is malformed. -/
def unpad (bs : List Byte) : Option (List Byte) :=
  let n := (bs.getLast?.getD 0).toNat
  if 1 ≤ n ∧ n ≤ 16 ∧ bs.length = 16 ∧ (bs.drop (16 - n)).all (fun b => b.toNat = n) then some (bs.take (16 - n))
  else none

/-- A context once its operation is finished: nothing held. -/
def laDone (x : LaCtx) : LaCtx := { x with part := [], prev := none }

/-- The GCM tag: the lengths hashed, under the first counter block. -/
def gcmTag (x : LaCtx) : BitVec 128 :=
  let lens := BitVec.ofNat 128 (x.aadBytes * 8 * 2 ^ 64 + x.text * 8)
  ghashStep (hashKey x) x.ghash lens ^^^
    aesEnc x.key (BitVec.ofNat 128 (x.chain.toNat / 2 ^ 32 * 2 ^ 32 + 1))

/-- LA_FINAL's results and the context after. -/
def laFinish (tag : BitVec 128) (x0 : LaCtx) : List RField × LaCtx :=
  let x := endAad x0
  match x.mode with
  | .ecb | .cbc =>
    if x.decrypt then
      match x.prev with
      | none => ([bytesFld "DATA" [], flag "PAD_ERROR" true], laDone x)
      | some b =>
        let (o, x') := laBlock x b
        match unpad o with
        | some d => if x.part = [] then ([bytesFld "DATA" d, flag "PAD_ERROR" false], laDone x')
            else ([bytesFld "DATA" [], flag "PAD_ERROR" true], laDone x')
        | none => ([bytesFld "DATA" [], flag "PAD_ERROR" true], laDone x')
    else
      let n := 16 - x.part.length
      let (o, x') := laBlock x (packBlock (x.part ++ List.replicate n (BitVec.ofNat 8 n)))
      ([bytesFld "DATA" o, flag "PAD_ERROR" false], laDone x')
  | .ctr =>
    let (o, x') := laBlock x (packBlock x.part)
    if x.part = [] then ([bytesFld "DATA" []], laDone x) else ([bytesFld "DATA" (o.take x.part.length)], laDone x')
  | .gcm =>
    let n := nextCounter .gcm x.chain
    let o := (unpackBlock (packBlock x.part ^^^ aesEnc x.key n)).take x.part.length
    let g := ghashStep (hashKey x) x.ghash (if x.decrypt then packBlock x.part else packBlock o)
    let x' := if x.part = [] then x else { x with chain := n, ghash := g }
    if x.decrypt then
      if gcmTag x' = tag then ([bytesFld "DATA" o, flag "TAG_MISMATCH" false], laDone x')
      else ([bytesFld "DATA" [], flag "TAG_MISMATCH" true], laDone x')
    else ([bytesFld "DATA" o, bytesFld "TAG" (unpackBlock (gcmTag x'))], laDone x')
  | .cmac =>
    let last := match x.prev with
      | some b => cmacLast x.key true (unpackBlock b)
      | none => cmacLast x.key false x.part
    let c := aesEnc x.key (last ^^^ x.chain)
    ([bytesFld "MAC" (unpackBlock c)], laDone { x with chain := c })

/-! ### Blobs (Table 12-5) -/

def laModeCode : LaMode → Nat
  | .ecb => 1 | .cbc => 2 | .ctr => 3 | .gcm => 4 | .cmac => 5

/-- `n` bytes of a number, least significant first (R6). -/
def leBytes (n v : Nat) : List Byte := (List.range n).map (fun i => BitVec.ofNat 8 (v / 2 ^ (8 * i)))

/-- Bytes padded with zeros to a length. -/
def padTo (n : Nat) (bs : List Byte) : List Byte := bs ++ List.replicate (n - bs.length) 0

/-- The 104 bytes of a context's state. -/
def laBlobBytes (x : LaCtx) : List Byte :=
  leBytes 1 (laModeCode x.mode) ++ leBytes 1 x.key.length ++ leBytes 1 x.decrypt.toNat ++ leBytes 1 x.part.length ++
    leBytes 4 0 ++ leBytes 8 x.aadBytes ++ leBytes 8 x.text ++ unpackBlock x.chain ++ unpackBlock x.ghash ++
    padTo 16 x.part ++ padTo 32 x.key

/-- A little-endian number in bytes. -/
def leNat (bs : List Byte) : Nat := (bs.reverse).foldl (fun n b => n * 256 + b.toNat) 0

def laModeOf : Nat → Option LaMode
  | 1 => some .ecb | 2 => some .cbc | 3 => some .ctr | 4 => some .gcm | 5 => some .cmac
  | _ => none

/-- A context's state from the 104 bytes of a blob, for the holder of a context; none where a field has no meaning. -/
def laOfBlob (holder : Ring) (h : Hdr) (bs : List Byte) : Option LaCtx :=
  let at_ (o n : Nat) : List Byte := (bs.drop o).take n
  let kl := leNat (at_ 1 1)
  match laModeOf (leNat (at_ 0 1)) with
  | some m =>
    if (kl ≠ 16 ∧ kl ≠ 32) ∨ leNat (at_ 2 1) > 1 ∨ leNat (at_ 3 1) > 15 then none
    else some ⟨holder, h, m, leNat (at_ 2 1) == 1, at_ 0x48 kl, leNat (at_ 8 8), leNat (at_ 0x10 8), packBlock (at_ 0x18 16),
      packBlock (at_ 0x28 16), at_ 0x38 (leNat (at_ 3 1)), none⟩
  | none => none

/-- The bytes of the device wrapping key. -/
def wrapKey (s : State) : List Byte :=
  (List.range 32).map (fun i => (Config.wrapKey s.sec.epoch).extractLsb' (8 * (31 - i)) 8)

/-- A blob of 112 bytes is a wrapped one; any other is in the clear (R263). -/
def blobWrapped (blob : List Byte) : Bool := blob.length == 112

/-- The blob's bytes in the clear; none where the integrity check of a wrapped one fails. -/
def blobClear (s : State) (blob : List Byte) : Option (List Byte) :=
  if blobWrapped blob then keyUnwrap (wrapKey s) blob else some blob

/-! ### Commands (Table 12-6) -/

def laOf (s : State) (c : Nat) : Option LaCtx := tfind s.sec.la c
def setLa (c : Nat) (x : LaCtx) (s : State) : State := { s with sec := { s.sec with la := tset s.sec.la c x } }

/-- The world that owns a context; none where there is no such context (R260). -/
def laWorld (s : State) (c : Nat) : Option World := if c < 16 then some (worldOf s .laContext c) else none

/-- Runs a body on a context that the caller's ring holds (R273's "holder"). -/
def withCtx (h : Hdr) (c : Nat) (s : State) (k : LaCtx → Out) : Out :=
  if c ≥ 16 then badParam (po 0)
  else
    match laOf s c with
    | none => .refuse .notFound none
    | some x =>
      if x.holder ≠ h.ring then .refuse .resourceClaimed (some (holdDetail x.hdr 0x0910)) else k x

/-- A context's first chaining value: GCM's first counter block, or the initial value of CBC and CTR. -/
def firstChain (mode : LaMode) (iv : BitVec 128) : BitVec 128 :=
  match mode with
  | .gcm => BitVec.ofNat 128 (iv.toNat % 2 ^ 96 * 2 ^ 32 + 1)
  | .cbc | .ctr => iv
  | _ => 0

def execLaOpen (h : Hdr) (ctx : Nat) (mode : LaMode) (decrypt : Bool) (key : List Byte) (iv : BitVec 128) (s : State) :
    Host.Outcome State Fault Refusal :=
  within s (
    .next (qcp { code := 0x0910, world := .owned (laWorld s ctx) } h (fun s =>
      if ctx ≥ 16 then badParam (po 0)
      else
        match laOf s ctx with
        | some x => .refuse .resourceClaimed (some (holdDetail x.hdr 0x0910))
        | none =>
          if key.length ≠ 16 ∧ key.length ≠ 32 then badParam (po 3)
          else .done [] (setLa ctx ⟨h.ring, h, mode, decrypt, key, 0, 0, firstChain mode iv, 0, [], none⟩ s)) s))

/-- A data result written in place at the command's host address (R271): it takes no room in the reply, which carries its
length. -/
def placed (bs : List Byte) : List RField :=
  [⟨"DATA", 0, bs.map (fun b => b.toNat)⟩, fld "LENGTH" bs.length]

/-- A text update: the authenticated-only part ends where there is text. -/
def laTexted (data : List Byte) (x : LaCtx) : List Byte × LaCtx := laText data (if data.length = 0 then x else endAad x)

def execLaUpdate (h : Hdr) (ctx : Nat) (aad : Bool) (data : List Byte) (s : State) : Host.Outcome State Fault Refusal :=
  within s (
    .next (qcp { code := 0x0911, world := .owned (laWorld s ctx), host := true } h (fun s =>
      withCtx h ctx s (fun x =>
        if data.length > 65536 then badParam (po 3)
        else if aad then
          if x.mode ≠ .gcm ∨ x.text > 0 then badParam (po 1)
          else .done (placed []) (setLa ctx (laAad data x) s)
        else .done (placed (laTexted data x).1) (setLa ctx (laTexted data x).2 s))) s))

def execLaFinal (h : Hdr) (ctx : Nat) (tag : BitVec 128) (s : State) : Host.Outcome State Fault Refusal :=
  within s (
    .next (qcp { code := 0x0912, world := .owned (laWorld s ctx) } h (fun s =>
      withCtx h ctx s (fun x => .done (laFinish tag x).1 (setLa ctx (laFinish tag x).2 s))) s))

def execLaSave (h : Hdr) (ctx : Nat) (s : State) : Host.Outcome State Fault Refusal :=
  within s (
    .next (qcp { code := 0x0913, world := .owned (laWorld s ctx) } h (fun s =>
      withCtx h ctx s (fun x =>
        if worldOf s .laContext ctx = .secure then
          .done [bytesFld "BLOB" (keyWrap (wrapKey s) (laBlobBytes x))] s
        else .done [bytesFld "BLOB" (laBlobBytes x)] s)) s))

def execLaRestore (h : Hdr) (ctx : Nat) (blob : List Byte) (s : State) : Host.Outcome State Fault Refusal :=
  within s (
    .next (qcp { code := 0x0914, world := .owned (laWorld s ctx) } h (fun s =>
      withCtx h ctx s (fun x =>
        if blob.length ≠ 104 ∧ blob.length ≠ 112 then badParam (po 1)
        else if blobWrapped blob ≠ (worldOf s .laContext ctx == .secure) then
          .reply .worldViolation none [] (violate (worldOf s .laContext ctx) 0x0914 s)
        else
          match blobClear s blob with
          | none => .reply .badParam (some (.param (po 1))) [] (bump .laUnwrapFail 0 0 s)
          | some bs =>
            match laOfBlob x.holder x.hdr bs with
            | some y => .done [] (setLa ctx y s)
            | none => badParam (po 1))) s))

def execLaClose (h : Hdr) (ctx : Nat) (s : State) : Host.Outcome State Fault Refusal :=
  within s (
    .next (qcp { code := 0x0915, world := .owned (laWorld s ctx) } h (fun s =>
      withCtx h ctx s (fun _ => .done [] { s with sec := { s.sec with la := tdel s.sec.la ctx } })) s))

end Sys2Proof.Machine
end

