-- ==== Sys2Proof/Machine/Rules.lean ====
section
/-! DEFINITION. The rule, array and route commands (Table 4-9). -/

namespace Sys2Proof.Machine

/-- The lower or upper half of a 960-bit key as a row holds it. -/
def halfOf (x : BitVec 960) (upper : Bool) : BitVec 480 :=
  if upper then BitVec.ofNat 480 (x.toNat / 2 ^ 480) else x.setWidth 480

/-- The steps that write a rule entry into free rows (R89, R103). -/
def ruleSteps (v idx : Nat) (wide : Bool) (prio action : Nat) (value mask : BitVec 960) : List Step :=
  placeSteps .rule idx (.rule (halfOf value false) (halfOf mask false) wide prio action) (planeBit v) ++
    (if wide then placeSteps .rule (idx + 1) (.rule (halfOf value true) (halfOf mask true) wide prio action) (planeBit v)
     else [])

/-- Whether the rows a rule entry needs are free in a slice's shadow copy. -/
def ruleFree (s : State) (k idx : Nat) (wide : Bool) : Bool :=
  (shadowRow s k .rule idx).free && (!wide || (shadowRow s k .rule (idx + 1)).free)

/-- The row of an entry present in a version, as the shadow copy has it: whether it is wide. -/
def ruleAt (s : State) (k v idx : Nat) : Option Bool :=
  let r := shadowRow s k .rule idx
  if r.inV v then
    match r.body with
    | .rule _ _ w _ _ => if w && idx % 2 == 1 then none else some w
    | _ => none
  else none

/-- The steps that take an entry out of a version. -/
def ruleDrop (v idx : Nat) (wide : Bool) : List Step :=
  [⟨.rule, idx, .planeClear (v % 4)⟩] ++ (if wide then [⟨.rule, idx + 1, .planeClear (v % 4)⟩] else [])

/-- The index of a new entry: the one named, or the lowest free in every slice named. -/
def ruleIndex (s : State) (ks : List Nat) (lo hi idx : Nat) (wide : Bool) : Option Nat :=
  if idx = 0xFFFF then
    (List.range (hi - lo)).findSome? (fun d =>
      let i := lo + d
      if (!wide || (i % 2 == 0 && i + 1 < hi)) && ks.all (fun k => ruleFree s k i wide) then some i else none)
  else some idx

/-- The refusals RULE_ADD and RULE_CHANGE share, and the index the new entry takes. -/
def ruleCheck (s : State) (v : Nat) (slices : W32) (part idx : Nat) (wide : Bool) (prio action : Nat)
    (p0 : Nat) : Sum Out Nat :=
  if !isOpen s v then .inl (.refuse .notFound none)
  else if slices = 0 then .inl (badParam (po 1))
  else
    match partRange s part with
    | none => .inl (badParam (po 2))
    | some (lo, hi) =>
      if idx ≠ 0xFFFF ∧ (idx < lo ∨ idx ≥ hi ∨ (wide ∧ idx % 2 = 1)) then .inl (badParam (po 3))
      else if prio ≥ 2 ^ 20 then .inl (badParam (po (p0 + 1)))
      else if action ≥ 2 ^ 18 then .inl (badParam (po (p0 + 2)))
      else
        match ruleIndex s (slicesOf slices) lo hi idx wide with
        | none => .inl (.refuse .tableFull none)
        | some i =>
          if (slicesOf slices).all (fun k => ruleFree s k i wide) then .inr i
          else .inl (.refuse .exists_ (some (.entry i)))

def execRuleAdd (h : Hdr) (v : Nat) (slices : W32) (part : Nat) (idx : Nat) (wide : Bool) (prio : Nat) (action : Nat)
    (value : BitVec 960) (mask : BitVec 960) (s : State) : Host.Outcome State Fault Refusal :=
  within s (
    .next (qcp { code := 0x0406, world := .owned (partWorld s part) } h (fun s =>
      match ruleCheck s v slices part idx wide prio action 4 with
      | .inl o => o
      | .inr i =>
        let plan := (slicesOf slices).map (fun k => (k, ruleSteps v i wide prio action value mask))
        if !stepsFit s plan then .refuse .busy none
        else withTablets .rv (sliceDoms (slicesOf slices)) s (.done [fld "INDEX" i] (queueSteps plan s))) s))

def execRuleRemove (h : Hdr) (v : Nat) (slices : W32) (idx : Nat) (s : State) : Host.Outcome State Fault Refusal :=
  within s (
    .next (qcp { code := 0x0407, world := .owned ((partOfIdx s idx).map (fun p => p.2)) } h (fun s =>
      if !isOpen s v then .refuse .notFound none
      else if slices = 0 then badParam (po 1)
      else if idx ≥ 16384 then badParam (po 2)
      else if (slicesOf slices).any (fun k => (ruleAt s k v idx).isNone) then .refuse .notFound none
      else
        let plan := (slicesOf slices).map (fun k => (k, ruleDrop v idx ((ruleAt s k v idx).getD false)))
        if !stepsFit s plan then .refuse .busy none
        else withTablets .rv (sliceDoms (slicesOf slices)) s (.done [] (queueSteps plan s))) s))

def execRuleChange (h : Hdr) (v : Nat) (slices : W32) (part : Nat) (idx : Nat) (old : Nat) (wide : Bool) (prio : Nat)
    (action : Nat) (value : BitVec 960) (mask : BitVec 960) (s : State) : Host.Outcome State Fault Refusal :=
  within s (
    .next (qcp { code := 0x0408, world := .owned (partWorld s part) } h (fun s =>
      match ruleCheck s v slices part idx wide prio action 5 with
      | .inl o => o
      | .inr i =>
        if (match partRange s part with
            | some (lo, hi) => old < lo || old ≥ hi
            | none => true) then badParam (po 4)
        else if (slicesOf slices).any (fun k => (ruleAt s k v old).isNone) then .refuse .notFound none
        else
          let plan := (slicesOf slices).map (fun k =>
            (k, ruleSteps v i wide prio action value mask ++ ruleDrop v old ((ruleAt s k v old).getD false)))
          if !stepsFit s plan then .refuse .busy none
          else withTablets .rv (sliceDoms (slicesOf slices)) s (.done [fld "INDEX" i] (queueSteps plan s))) s))

/-- Queues a search command's steps on a slice (R406). -/
def startQuery (h : Hdr) (slice v : Nat) (q : Query) (ss : List Step) (s : State) : Out :=
  if !stepsFit s [(slice, ss)] then .refuse .busy none
  else .start (queueOne slice ss { s with arr := { s.arr with queries := s.arr.queries ++ [⟨h, slice, v, q, []⟩] } })

def execRuleSearch (h : Hdr) (v : Nat) (slice : Nat) (part : Nat) (wide : Bool) (key : BitVec 960) (s : State) :
    Host.Outcome State Fault Refusal :=
  within s (
    .next (qcp { code := 0x0409, world := .owned (partWorld s part) } h (fun s =>
      if !isLive s v then .refuse .notFound none
      else if slice ≥ 32 then badParam (po 1)
      else if (partRange s part).isNone then badParam (po 2)
      else startQuery h slice v (.rule part wide key) [⟨.rule, 0, .search h true⟩] s) s))

def execRuleIter (h : Hdr) (v : Nat) (slice : Nat) (part : Nat) (wide : Bool) (key : BitVec 960) (smask : BitVec 960)
    (cursor : Nat) (count : Nat) (s : State) : Host.Outcome State Fault Refusal :=
  within s (
    .next (qcp { code := 0x040A, world := .owned (partWorld s part) } h (fun s =>
      if !isLive s v then .refuse .notFound none
      else if slice ≥ 32 then badParam (po 1)
      else if (partRange s part).isNone then badParam (po 2)
      else if count < 1 ∨ count > 64 then badParam (po 7)
      else startQuery h slice v (.iter part wide key smask cursor count)
        (List.replicate count ⟨.rule, 0, .search h true⟩) s) s))

/-- The control word of a rule row (Table 4-7), its reserved bits undefined; `n` draws them. -/
def ruleControl (r : Row) (wide : Bool) (prio action n : Nat) : Nat :=
  withUndefined (r.valid.toNat + 2 * r.planes.toNat + 2 ^ 5 * wide.toNat + 2 ^ 6 * prio + 2 ^ 26 * action) (bitsMask 63 44) n

def execRuleRead (h : Hdr) (slice : Nat) (idx : Nat) (s : State) : Host.Outcome State Fault Refusal :=
  within s (
    .next (qcp { code := 0x040B, world := .owned ((partOfIdx s idx).map (fun p => p.2)), reads := true } h (fun s =>
      if slice ≥ 32 then badParam (po 0)
      else if idx ≥ 16384 then badParam (po 1)
      else
        let r := liveRow s slice .rule idx
        let (n, s) := draw s
        match r.body with
        | .rule val msk w p a => .done [⟨"VALUE", 60, [val.toNat]⟩, ⟨"MASK", 60, [msk.toNat]⟩,
            fld "CONTROL" (ruleControl r w p a n)] s
        | _ => .done [⟨"VALUE", 60, [0]⟩, ⟨"MASK", 60, [0]⟩, fld "CONTROL" (ruleControl r false 0 0 n)] s) s))

/-- Whether boundaries are strictly ascending multiples of 1,024 inside the array, the first 0 (R104); the first
boundary at fault. -/
def partFault : List (Nat × World) → Option Nat → Nat → Option Nat
  | [], _, _ => none
  | (b, _) :: rest, prev, n =>
    if b % 1024 != 0 || b ≥ 16384 || (match prev with
        | none => b != 0
        | some p => decide (b ≤ p)) then some n
    else partFault rest (some b) (n + 1)

def execRulePartitionSet (h : Hdr) (parts : List (Nat × World)) (s : State) : Host.Outcome State Fault Refusal :=
  within s (
    .next (qcp { code := 0x040C, world := .secure, modeOk := s.mode.mode == .boot && !s.world.locked } h (fun s =>
      if parts.isEmpty ∨ parts.length > 16 then badParam (po 0)
      else
        match partFault parts none 0 with
        | some n => badParam (po n)
        | none => .done [] { s with arr := { s.arr with parts := parts } }) s))

def execArrayStatus (h : Hdr) (slice : Nat) (s : State) : Host.Outcome State Fault Refusal :=
  within s (
    .next (qcp { code := 0x040D, reads := true } h (fun s =>
      if slice ≥ 32 then badParam (po 0)
      else .done [fld "QUEUED" (stepsOf s slice).length,
        flds "STEPS" ((List.range 10).map (fun n => ctr s .stepsRun (slice * 16 + n) 0)),
        fld "UPDATE_STEAL" (ctr s .updateSteal slice 0), fld "ARRAY_CORRECTED" (ctr s .arrayCorrected slice 0),
        fld "ARRAY_REPAIRED" (ctr s .arrayRepaired slice 0),
        fld "UPDATE_BACKLOG_MAX" (ctr s .updateBacklogMax slice 0)] s) s))

def execArrayStealSet (h : Hdr) (slices : W32) (enable : Bool) (s : State) : Host.Outcome State Fault Refusal :=
  within s (
    .next (qcp { code := 0x040E, world := .nonSecure } h (fun s =>
      if slices = 0 then badParam (po 0)
      else
        let off := s.arr.noSteal
        let off' := if enable then off.filter (fun k => !(slicesOf slices).contains k)
          else (slicesOf slices).foldl (fun l k => insertNew k l) off
        .done [] { s with arr := { s.arr with noSteal := off' } }) s))

/-! ### Routes -/

/-- A prefix whose length is in range and whose bits beyond it are clear. -/
def prefixBad (v6 : Bool) (a : BitVec 128) (len : Nat) : Bool :=
  let w := if v6 then 128 else 32
  len > w || a.toNat ≥ 2 ^ w || a.toNat % 2 ^ (w - len) != 0

/-- Whether a route is present in the open version. -/
def routePresent (s : State) (v table : Nat) (v6 : Bool) (a : BitVec 128) (len : Nat) : Bool :=
  (findRoute s.arr.shadow 0 v table v6 a len).isSome

/-- Queues a route plan, refusing it where it does not fit (R90, R101). -/
def runRoutePlan (f : Nat → Plan → Option Plan) (results : Plan → List RField) (s : State) : Out :=
  match planAll f s with
  | none => .reply .tableFull none [] (bump .routeFullRefused 0 0 s)
  | some l =>
    let plan := l.map (fun e => (e.1, e.2.steps))
    if !stepsFit s plan then .refuse .busy none
    else withTablets .rv (sliceDoms allSlices) s
      (.done (match l with
        | e :: _ => results e.2
        | [] => []) (queueSteps plan s))

def execRouteAdd (h : Hdr) (v : Nat) (table : Nat) (v6 : Bool) (pfx : BitVec 128) (len : Nat) (result : BitVec 24)
    (s : State) : Host.Outcome State Fault Refusal :=
  within s (
    .next (qcp { code := 0x0501, world := .nonSecure } h (fun s =>
      if !isOpen s v then .refuse .notFound none
      else if table ≥ 256 then badParam (po 1)
      else if prefixBad v6 pfx len then badParam (po 4)
      else
        match findRoute s.arr.shadow 0 v table v6 pfx len with
        | some (_, r) => .refuse .exists_ (some (.entry r.row))
        | none => runRoutePlan (fun k p => planAdd k v table v6 pfx len result p)
            (fun p => [fld "STEPS" p.steps.length, fld "MOVES" p.moves, fld "UNITS" p.units]) s) s))

def execRouteRemove (h : Hdr) (v : Nat) (table : Nat) (v6 : Bool) (pfx : BitVec 128) (len : Nat) (s : State) :
    Host.Outcome State Fault Refusal :=
  within s (
    .next (qcp { code := 0x0502, world := .nonSecure } h (fun s =>
      if !isOpen s v then .refuse .notFound none
      else if !routePresent s v table v6 pfx len then .refuse .notFound none
      else runRoutePlan (fun k p => planRemove k v table v6 pfx len p) (fun p => [fld "STEPS" p.steps.length]) s) s))

def execRouteChange (h : Hdr) (v : Nat) (table : Nat) (v6 : Bool) (pfx : BitVec 128) (len : Nat) (result : BitVec 24)
    (s : State) : Host.Outcome State Fault Refusal :=
  within s (
    .next (qcp { code := 0x0503, world := .nonSecure } h (fun s =>
      if !isOpen s v then .refuse .notFound none
      else if table ≥ 256 then badParam (po 1)
      else if prefixBad v6 pfx len then badParam (po 4)
      else if !routePresent s v table v6 pfx len then .refuse .notFound none
      else runRoutePlan (fun k p => planChange k v table v6 pfx len result p)
        (fun p => [fld "STEPS" p.steps.length, fld "MOVES" p.moves, fld "UNITS" p.units]) s) s))

def execRouteLookup (h : Hdr) (v : Nat) (table : Nat) (v6 : Bool) (addr : BitVec 128) (s : State) :
    Host.Outcome State Fault Refusal :=
  within s (
    .next (qcp { code := 0x0504 } h (fun s =>
      if !isLive s v then .refuse .notFound none
      else
        match liveSlices s with
        | [] => .refuse .busy none
        | k :: _ => startQuery h k v (.route table v6 addr)
            [⟨.pivot, 0, .search h false⟩, ⟨.route, 0, .search h true⟩] s) s))

/-- Units of route memory in use on a slice (R101). -/
def unitsUsed (t : Tab (Nat × Arr × Nat) Row) (k : Nat) : Nat :=
  ((rowsOf t k .route).map (fun e => if e.2.free then 0 else match e.2.body with
    | .route v6 _ _ _ => unitsOf v6
    | _ => 0)).sum

/-- Buckets in use on a slice: those a pivot in use names. -/
def bucketsUsed (t : Tab (Nat × Arr × Nat) Row) (k : Nat) : Nat :=
  (((rowsOf t k .pivot).filterMap (fun e => if e.2.free then none else match e.2.body with
    | .pivot _ _ _ _ b _ => some b
    | _ => none)).dedup).length

/-- The mean units per bucket, rounded down; free where no bucket is in use, for which the manual states none (log entry 60). -/
def meanUnits (units buckets n : Nat) : Nat := if buckets = 0 then Config.undefinedRead n else units / buckets

def execRouteStatus (h : Hdr) (s : State) : Host.Outcome State Fault Refusal :=
  within s (
    .next (qcp { code := 0x0505, reads := true } h (fun s =>
      let (n, s) := draw s
      let u := unitsUsed s.arr.shadow 0
      let p := (pivotLens s.arr.shadow 0).length
      let b := bucketsUsed s.arr.shadow 0
      .done [fld "UNITS" u, fld "PIVOTS" p, fld "BUCKETS" b, fld "FREE_ROWS" (65536 - p), fld "H" s.arr.hole,
        fld "MEAN_UNITS" (meanUnits u b n), fld "ROUTE_FULL_REFUSED" (ctr s .routeFullRefused 0 0)] s) s))

def execRouteHoleSet (h : Hdr) (hole : Nat) (s : State) : Host.Outcome State Fault Refusal :=
  within s (
    .next (qcp { code := 0x0506, world := .nonSecure } h (fun s =>
      if hole = 16 ∨ hole = 32 ∨ hole = 64 ∨ hole = 128 ∨ hole = 256 then
        .done [] { s with arr := { s.arr with hole := hole } }
      else badParam (po 0)) s))

end Sys2Proof.Machine
end

