-- ==== Sys2Proof/Machine/Dispatch.lean ====
section
/-! DEFINITION. One arm for each command: its meaning, called by its full name. -/

namespace Sys2Proof.Machine

def exec (i : Instr) (s : State) : Host.Outcome State Fault Refusal :=
  match i with
  | .orbitBoundary => Sys2Proof.Machine.execOrbitBoundary s
  | .headwayBoundary => Sys2Proof.Machine.execHeadwayBoundary s
  | .blockBoundary => Sys2Proof.Machine.execBlockBoundary s
  | .ttCommitIrrevocable => Sys2Proof.Machine.execTtCommitIrrevocable s
  | .ttLoad h img => Sys2Proof.Machine.execTtLoad h img s
  | .ttCommit h version target => Sys2Proof.Machine.execTtCommit h version target s
  | .ttAbort h version => Sys2Proof.Machine.execTtAbort h version s
  | .ttStatus h => Sys2Proof.Machine.execTtStatus h s
  | .ttShedRead h first count => Sys2Proof.Machine.execTtShedRead h first count s
  | .ttAggRead h first count => Sys2Proof.Machine.execTtAggRead h first count s
  | .frameReceive f => Sys2Proof.Machine.execFrameReceive f s
  | .forwardingDecision fid faults => Sys2Proof.Machine.execForwardingDecision fid faults s
  | .hbmBucketReadReturn fid corrected => Sys2Proof.Machine.execHbmBucketReadReturn fid corrected s
  | .hbmWriteBack fid => Sys2Proof.Machine.execHbmWriteBack fid s
  | .frameTailStatus fid => Sys2Proof.Machine.execFrameTailStatus fid s
  | .cellInject slice lane => Sys2Proof.Machine.execCellInject slice lane s
  | .cellRelease slice fault => Sys2Proof.Machine.execCellRelease slice fault s
  | .egressSelect port => Sys2Proof.Machine.execEgressSelect port s
  | .sidingReadReturn slice corrected => Sys2Proof.Machine.execSidingReadReturn slice corrected s
  | .histSample slice => Sys2Proof.Machine.execHistSample slice s
  | .updateSlot slice => Sys2Proof.Machine.execUpdateSlot slice s
  | .arrayRepaired slice arr row uncorrectable => Sys2Proof.Machine.execArrayRepaired slice arr row uncorrectable s
  | .ucodeScrubRewrite slice word uncorrectable => Sys2Proof.Machine.execUcodeScrubRewrite slice word uncorrectable s
  | .learnRequestArrive slice => Sys2Proof.Machine.execLearnRequestArrive slice s
  | .pairAnswer slice => Sys2Proof.Machine.execPairAnswer slice s
  | .pairAge slice => Sys2Proof.Machine.execPairAge slice s
  | .pairDelete slice => Sys2Proof.Machine.execPairDelete slice s
  | .ageingSweep slice => Sys2Proof.Machine.execAgeingSweep slice s
  | .rowActivationTrigger channel bank row => Sys2Proof.Machine.execRowActivationTrigger channel bank row s
  | .hbmFreeze channel cause cmd window beat address syndrome => Sys2Proof.Machine.execHbmFreeze channel cause cmd window beat address syndrome s
  | .linkDown port => Sys2Proof.Machine.execLinkDown port s
  | .linkUp port => Sys2Proof.Machine.execLinkUp port s
  | .laneLost lane => Sys2Proof.Machine.execLaneLost lane s
  | .cartFault cart absent => Sys2Proof.Machine.execCartFault cart absent s
  | .preemptVerifyDone port ok => Sys2Proof.Machine.execPreemptVerifyDone port ok s
  | .timeSrcChange src healthy => Sys2Proof.Machine.execTimeSrcChange src healthy s
  | .refInUnhealthy => Sys2Proof.Machine.execRefInUnhealthy s
  | .holdoverEntry => Sys2Proof.Machine.execHoldoverEntry s
  | .timeStepIrrevocable => Sys2Proof.Machine.execTimeStepIrrevocable s
  | .timeIoPeriodicEdge pin => Sys2Proof.Machine.execTimeIoPeriodicEdge pin s
  | .timeIoOneShot pin => Sys2Proof.Machine.execTimeIoOneShot pin s
  | .timeIoCapture pin rising eighth => Sys2Proof.Machine.execTimeIoCapture pin rising eighth s
  | .moduleInfo h => Sys2Proof.Machine.execModuleInfo h s
  | .qcpEcho h data => Sys2Proof.Machine.execQcpEcho h data s
  | .qcpCancel h seq tag => Sys2Proof.Machine.execQcpCancel h seq tag s
  | .qcpInbandSet h port world channel queue enable => Sys2Proof.Machine.execQcpInbandSet h port world channel queue enable s
  | .qcpStats h clear => Sys2Proof.Machine.execQcpStats h clear s
  | .commandFetch c => Sys2Proof.Machine.execCommandFetch c s
  | .commandTimeout ring seq tag => Sys2Proof.Machine.execCommandTimeout ring seq tag s
  | .replyWrite ring => Sys2Proof.Machine.execReplyWrite ring s
  | .inbandCommand f => Sys2Proof.Machine.execInbandCommand f s
  | .modeStatus h => Sys2Proof.Machine.execModeStatus h s
  | .modeSet h target holdMs => Sys2Proof.Machine.execModeSet h target holdMs s
  | .tabletStatus h first count => Sys2Proof.Machine.execTabletStatus h first count s
  | .moduleReset h => Sys2Proof.Machine.execModuleReset h s
  | .calibrationDone failed => Sys2Proof.Machine.execCalibrationDone failed s
  | .drainEmptying => Sys2Proof.Machine.execDrainEmptying s
  | .drainDark => Sys2Proof.Machine.execDrainDark s
  | .drainWipeDone => Sys2Proof.Machine.execDrainWipeDone s
  | .powerOffDone => Sys2Proof.Machine.execPowerOffDone s
  | .sliceHalt slice => Sys2Proof.Machine.execSliceHalt slice s
  | .moduleFaultHalt => Sys2Proof.Machine.execModuleFaultHalt s
  | .sanitizeDone readBackOk => Sys2Proof.Machine.execSanitizeDone readBackOk s
  | .hbmZeroingDone failed => Sys2Proof.Machine.execHbmZeroingDone failed s
  | .portMapSet h map => Sys2Proof.Machine.execPortMapSet h map s
  | .portMapGet h staged => Sys2Proof.Machine.execPortMapGet h staged s
  | .portAdmin h port up halve => Sys2Proof.Machine.execPortAdmin h port up halve s
  | .portStatus h first count => Sys2Proof.Machine.execPortStatus h first count s
  | .portCounters h port clear => Sys2Proof.Machine.execPortCounters h port clear s
  | .laneStatus h first count => Sys2Proof.Machine.execLaneStatus h first count s
  | .laneRecal h lane force => Sys2Proof.Machine.execLaneRecal h lane force s
  | .laneRecalDone lane => Sys2Proof.Machine.execLaneRecalDone lane s
  | .fecThreshSet h port activate clearAt window => Sys2Proof.Machine.execFecThreshSet h port activate clearAt window s
  | .cartHandover h cart => Sys2Proof.Machine.execCartHandover h cart s
  | .cartHandoverDone cart => Sys2Proof.Machine.execCartHandoverDone cart s
  | .cartRestore h cart selfTestOk => Sys2Proof.Machine.execCartRestore h cart selfTestOk s
  | .cartRestoreDone cart ok => Sys2Proof.Machine.execCartRestoreDone cart ok s
  | .cartStatus h => Sys2Proof.Machine.execCartStatus h s
  | .portParseSet h port inner => Sys2Proof.Machine.execPortParseSet h port inner s
  | .parseCounters h port clear => Sys2Proof.Machine.execParseCounters h port clear s
  | .hashSaltSet h salt => Sys2Proof.Machine.execHashSaltSet h salt s
  | .hashProbe h block => Sys2Proof.Machine.execHashProbe h block s
  | .ruleVersionOpen h => Sys2Proof.Machine.execRuleVersionOpen h s
  | .ruleVersionCommit h v => Sys2Proof.Machine.execRuleVersionCommit h v s
  | .ruleVersionDiscard h v => Sys2Proof.Machine.execRuleVersionDiscard h v s
  | .ruleVersionDiscardDone => Sys2Proof.Machine.execRuleVersionDiscardDone s
  | .ruleVersionRetire h u => Sys2Proof.Machine.execRuleVersionRetire h u s
  | .ruleVersionStatus h => Sys2Proof.Machine.execRuleVersionStatus h s
  | .ruleAdd h v slices part idx wide prio action value mask => Sys2Proof.Machine.execRuleAdd h v slices part idx wide prio action value mask s
  | .ruleRemove h v slices idx => Sys2Proof.Machine.execRuleRemove h v slices idx s
  | .ruleChange h v slices part idx old wide prio action value mask => Sys2Proof.Machine.execRuleChange h v slices part idx old wide prio action value mask s
  | .ruleSearch h v slice part wide key => Sys2Proof.Machine.execRuleSearch h v slice part wide key s
  | .ruleIter h v slice part wide key smask cursor count => Sys2Proof.Machine.execRuleIter h v slice part wide key smask cursor count s
  | .ruleRead h slice idx => Sys2Proof.Machine.execRuleRead h slice idx s
  | .rulePartitionSet h parts => Sys2Proof.Machine.execRulePartitionSet h parts s
  | .arrayStatus h slice => Sys2Proof.Machine.execArrayStatus h slice s
  | .arrayStealSet h slices enable => Sys2Proof.Machine.execArrayStealSet h slices enable s
  | .actionAdd h v slices idx data => Sys2Proof.Machine.execActionAdd h v slices idx data s
  | .actionRemove h v slices idx => Sys2Proof.Machine.execActionRemove h v slices idx s
  | .nexthopAdd h v slices idx nh => Sys2Proof.Machine.execNexthopAdd h v slices idx nh s
  | .nexthopRemove h v slices idx => Sys2Proof.Machine.execNexthopRemove h v slices idx s
  | .ecmpAdd h v slices group members => Sys2Proof.Machine.execEcmpAdd h v slices group members s
  | .ecmpRemove h v slices group => Sys2Proof.Machine.execEcmpRemove h v slices group s
  | .lagAdd h v lag ports => Sys2Proof.Machine.execLagAdd h v lag ports s
  | .lagRemove h v lag => Sys2Proof.Machine.execLagRemove h v lag s
  | .excCounters h slice clear => Sys2Proof.Machine.execExcCounters h slice clear s
  | .mcastAdd h v group dests => Sys2Proof.Machine.execMcastAdd h v group dests s
  | .mcastRemove h v group => Sys2Proof.Machine.execMcastRemove h v group s
  | .fabricCounters h slice clear => Sys2Proof.Machine.execFabricCounters h slice clear s
  | .fabricStatus h slice block => Sys2Proof.Machine.execFabricStatus h slice block s
  | .routeAdd h v table v6 pfx len result => Sys2Proof.Machine.execRouteAdd h v table v6 pfx len result s
  | .routeRemove h v table v6 pfx len => Sys2Proof.Machine.execRouteRemove h v table v6 pfx len s
  | .routeChange h v table v6 pfx len result => Sys2Proof.Machine.execRouteChange h v table v6 pfx len result s
  | .routeLookup h v table v6 addr => Sys2Proof.Machine.execRouteLookup h v table v6 addr s
  | .routeStatus h => Sys2Proof.Machine.execRouteStatus h s
  | .routeHoleSet h hole => Sys2Proof.Machine.execRouteHoleSet h hole s
  | .flowSearch h domain key => Sys2Proof.Machine.execFlowSearch h domain key s
  | .flowNext h cursor value mask count => Sys2Proof.Machine.execFlowNext h cursor value mask count s
  | .flowFlushPort h port domains => Sys2Proof.Machine.execFlowFlushPort h port domains s
  | .flowFlushDone port => Sys2Proof.Machine.execFlowFlushDone port s
  | .flowInsert h r resident => Sys2Proof.Machine.execFlowInsert h r resident s
  | .flowDelete h index domain key => Sys2Proof.Machine.execFlowDelete h index domain key s
  | .flowZoneSet h zone limit => Sys2Proof.Machine.execFlowZoneSet h zone limit s
  | .flowSweepSet h period => Sys2Proof.Machine.execFlowSweepSet h period s
  | .flowLearnLimit h port limit => Sys2Proof.Machine.execFlowLearnLimit h port limit s
  | .flowStatus h slice => Sys2Proof.Machine.execFlowStatus h slice s
  | .flowCounters h slice clear => Sys2Proof.Machine.execFlowCounters h slice clear s
  | .ucodeLoad h action slices img => Sys2Proof.Machine.execUcodeLoad h action slices img s
  | .ucodeLoadDone => Sys2Proof.Machine.execUcodeLoadDone s
  | .ucodeSwap h parser action slices => Sys2Proof.Machine.execUcodeSwap h parser action slices s
  | .ucodeStatus h slice => Sys2Proof.Machine.execUcodeStatus h slice s
  | .queueShaperSet h port queue word => Sys2Proof.Machine.execQueueShaperSet h port queue word s
  | .queueShaperGet h port queue => Sys2Proof.Machine.execQueueShaperGet h port queue s
  | .queueWeightSet h port queue weight => Sys2Proof.Machine.execQueueWeightSet h port queue weight s
  | .preemptSet h port enable verify => Sys2Proof.Machine.execPreemptSet h port enable verify s
  | .preemptStatus h first count => Sys2Proof.Machine.execPreemptStatus h first count s
  | .histConfig h slices n => Sys2Proof.Machine.execHistConfig h slices n s
  | .histRead h port queue clear => Sys2Proof.Machine.execHistRead h port queue clear s
  | .apogeeRead h port => Sys2Proof.Machine.execApogeeRead h port s
  | .queueCounters h port clear => Sys2Proof.Machine.execQueueCounters h port clear s
  | .bufStatus h slice port => Sys2Proof.Machine.execBufStatus h slice port s
  | .bufCounters h isPort n clear => Sys2Proof.Machine.execBufCounters h isPort n clear s
  | .hbmStatus h first count => Sys2Proof.Machine.execHbmStatus h first count s
  | .hbmOrderSet h regions order => Sys2Proof.Machine.execHbmOrderSet h regions order s
  | .hbmOrderSetDone => Sys2Proof.Machine.execHbmOrderSetDone s
  | .hbmFreezeRead h channel => Sys2Proof.Machine.execHbmFreezeRead h channel s
  | .retrainAndResume h channel => Sys2Proof.Machine.execRetrainAndResume h channel s
  | .retrainDone channel ok => Sys2Proof.Machine.execRetrainDone channel ok s
  | .retire h channel => Sys2Proof.Machine.execRetire h channel s
  | .hbmEccRead h channel first count => Sys2Proof.Machine.execHbmEccRead h channel first count s
  | .hbmRdThreshSet h threshold => Sys2Proof.Machine.execHbmRdThreshSet h threshold s
  | .timeStatus h => Sys2Proof.Machine.execTimeStatus h s
  | .timeSrcSet h srcs portA portB => Sys2Proof.Machine.execTimeSrcSet h srcs portA portB s
  | .timeSample h offset => Sys2Proof.Machine.execTimeSample h offset s
  | .timeJumpSet h threshold => Sys2Proof.Machine.execTimeJumpSet h threshold s
  | .timeAcceptStep h delta target => Sys2Proof.Machine.execTimeAcceptStep h delta target s
  | .timeStepAbort h => Sys2Proof.Machine.execTimeStepAbort h s
  | .timeHoldoverSet h lossMs fRef aRef fInt aInt => Sys2Proof.Machine.execTimeHoldoverSet h lossMs fRef aRef fInt aInt s
  | .ptpTx h port frame oneStep tsOffset udp6Adj => Sys2Proof.Machine.execPtpTx h port frame oneStep tsOffset udp6Adj s
  | .timeIoSet h pin fn => Sys2Proof.Machine.execTimeIoSet h pin fn s
  | .timeIoRelease h pin => Sys2Proof.Machine.execTimeIoRelease h pin s
  | .timeIoRead h pin => Sys2Proof.Machine.execTimeIoRead h pin s
  | .timeRead h => Sys2Proof.Machine.execTimeRead h s
  | .macsecPortSet h port policy => Sys2Proof.Machine.execMacsecPortSet h port policy s
  | .macsecScAdd h port tx sci => Sys2Proof.Machine.execMacsecScAdd h port tx sci s
  | .macsecScRemove h channel => Sys2Proof.Machine.execMacsecScRemove h channel s
  | .macsecSaInstall h channel an sa => Sys2Proof.Machine.execMacsecSaInstall h channel an sa s
  | .macsecSaSelect h channel an => Sys2Proof.Machine.execMacsecSaSelect h channel an s
  | .macsecSaRemove h channel an => Sys2Proof.Machine.execMacsecSaRemove h channel an s
  | .macsecPnLimitsSet h channel soft hard => Sys2Proof.Machine.execMacsecPnLimitsSet h channel soft hard s
  | .macsecStatus h port => Sys2Proof.Machine.execMacsecStatus h port s
  | .macsecCounters h port clear => Sys2Proof.Machine.execMacsecCounters h port clear s
  | .macsecUnctrlTx h port frame => Sys2Proof.Machine.execMacsecUnctrlTx h port frame s
  | .laOpen h ctx mode decrypt key iv => Sys2Proof.Machine.execLaOpen h ctx mode decrypt key iv s
  | .laUpdate h ctx aad data => Sys2Proof.Machine.execLaUpdate h ctx aad data s
  | .laFinal h ctx tag => Sys2Proof.Machine.execLaFinal h ctx tag s
  | .laSave h ctx => Sys2Proof.Machine.execLaSave h ctx s
  | .laRestore h ctx blob => Sys2Proof.Machine.execLaRestore h ctx blob s
  | .laClose h ctx => Sys2Proof.Machine.execLaClose h ctx s
  | .worldAssign h kind first count world => Sys2Proof.Machine.execWorldAssign h kind first count world s
  | .worldLock h => Sys2Proof.Machine.execWorldLock h s
  | .worldStatus h kind first count => Sys2Proof.Machine.execWorldStatus h kind first count s
  | .keyStoreWrite h entry data => Sys2Proof.Machine.execKeyStoreWrite h entry data s
  | .keyStoreZero h => Sys2Proof.Machine.execKeyStoreZero h s
  | .lifecycleSet h target auth => Sys2Proof.Machine.execLifecycleSet h target auth s
  | .ownerKeyEnroll h ecdsa mldsa => Sys2Proof.Machine.execOwnerKeyEnroll h ecdsa mldsa s
  | .ownerKeyRevoke h slot => Sys2Proof.Machine.execOwnerKeyRevoke h slot s
  | .authChallenge h => Sys2Proof.Machine.execAuthChallenge h s
  | .debugAuth h scope token => Sys2Proof.Machine.execDebugAuth h scope token s
  | .debugRevoke h scope => Sys2Proof.Machine.execDebugRevoke h scope s
  | .moduleAttest h nonce => Sys2Proof.Machine.execModuleAttest h nonce s
  | .fwImageWrite h slotB img => Sys2Proof.Machine.execFwImageWrite h slotB img s
  | .fwImageCommitSvn h => Sys2Proof.Machine.execFwImageCommitSvn h s
  | .agentImageLoad h slices img => Sys2Proof.Machine.execAgentImageLoad h slices img s
  | .fwSwitch h slotB => Sys2Proof.Machine.execFwSwitch h slotB s
  | .fwSwitchDone selfCheckOk => Sys2Proof.Machine.execFwSwitchDone selfCheckOk s
  | .agentStatus h slice => Sys2Proof.Machine.execAgentStatus h slice s
  | .agentReset h slice => Sys2Proof.Machine.execAgentReset h slice s
  | .agentResetDone slice => Sys2Proof.Machine.execAgentResetDone slice s
  | .agentCounters h slice clear => Sys2Proof.Machine.execAgentCounters h slice clear s
  | .taskCreate h slice type prio autoFree args => Sys2Proof.Machine.execTaskCreate h slice type prio autoFree args s
  | .taskReady h slice task => Sys2Proof.Machine.execTaskReady h slice task s
  | .taskCancel h slice task => Sys2Proof.Machine.execTaskCancel h slice task s
  | .taskRead h slice task => Sys2Proof.Machine.execTaskRead h slice task s
  | .taskFree h slice task => Sys2Proof.Machine.execTaskFree h slice task s
  | .traceRead h slice => Sys2Proof.Machine.execTraceRead h slice s
  | .traceStream h slice addr entries enable => Sys2Proof.Machine.execTraceStream h slice addr entries enable s
  | .dbgHalt h slice thread => Sys2Proof.Machine.execDbgHalt h slice thread s
  | .dbgResume h slice thread => Sys2Proof.Machine.execDbgResume h slice thread s
  | .dbgStep h slice thread => Sys2Proof.Machine.execDbgStep h slice thread s
  | .dbgRead h slice thread => Sys2Proof.Machine.execDbgRead h slice thread s
  | .dbgWrite h slice thread pc flags xs => Sys2Proof.Machine.execDbgWrite h slice thread pc flags xs s
  | .abortMessage h slice thread => Sys2Proof.Machine.execAbortMessage h slice thread s
  | .agentNop slice => Sys2Proof.Machine.execAgentNop slice s
  | .agentAlu slice => Sys2Proof.Machine.execAgentAlu slice s
  | .agentMem slice => Sys2Proof.Machine.execAgentMem slice s
  | .agentSend slice => Sys2Proof.Machine.execAgentSend slice s
  | .agentRecv slice => Sys2Proof.Machine.execAgentRecv slice s
  | .agentWait slice => Sys2Proof.Machine.execAgentWait slice s
  | .agentWaitEnd slice thread => Sys2Proof.Machine.execAgentWaitEnd slice thread s
  | .agentTimer slice => Sys2Proof.Machine.execAgentTimer slice s
  | .agentTimerFire slice thread => Sys2Proof.Machine.execAgentTimerFire slice thread s
  | .agentTaskTake slice => Sys2Proof.Machine.execAgentTaskTake slice s
  | .agentTaskDone slice => Sys2Proof.Machine.execAgentTaskDone slice s
  | .agentTaskReady slice => Sys2Proof.Machine.execAgentTaskReady slice s
  | .agentTaskCancel slice => Sys2Proof.Machine.execAgentTaskCancel slice s
  | .taskPrefetch slice => Sys2Proof.Machine.execTaskPrefetch slice s
  | .agentTrap slice => Sys2Proof.Machine.execAgentTrap slice s
  | .agentResume slice => Sys2Proof.Machine.execAgentResume slice s
  | .agentHbm slice => Sys2Proof.Machine.execAgentHbm slice s
  | .agentRing slice => Sys2Proof.Machine.execAgentRing slice s
  | .agentFlag slice => Sys2Proof.Machine.execAgentFlag slice s
  | .agentHaltWord slice => Sys2Proof.Machine.execAgentHaltWord slice s
  | .agentDeadlock slice => Sys2Proof.Machine.execAgentDeadlock slice s
  | .agentUcodeScrub slice word uncorrectable => Sys2Proof.Machine.execAgentUcodeScrub slice word uncorrectable s
  | .traceStreamEntry slice => Sys2Proof.Machine.execTraceStreamEntry slice s
  | .pmuConfig h block words zero => Sys2Proof.Machine.execPmuConfig h block words zero s
  | .pmuRead h blocks snapshot clear => Sys2Proof.Machine.execPmuRead h blocks snapshot clear s
  | .pmuSnapshot h blocks => Sys2Proof.Machine.execPmuSnapshot h blocks s
  | .pmuUserSet h enable => Sys2Proof.Machine.execPmuUserSet h enable s
  | .logStatus h => Sys2Proof.Machine.execLogStatus h s
  | .logRead h cls first count => Sys2Proof.Machine.execLogRead h cls first count s
  | .logAnnotate h note => Sys2Proof.Machine.execLogAnnotate h note s
  | .logHourlyCommit => Sys2Proof.Machine.execLogHourlyCommit s
  | .evcClaim sp => Sys2Proof.Machine.execEvcClaim sp s
  | .evcEoi sp => Sys2Proof.Machine.execEvcEoi sp s
  | .evcPendingWrite sp n value => Sys2Proof.Machine.execEvcPendingWrite sp n value s
  | .msixMessage => Sys2Proof.Machine.execMsixMessage s
  | .timeLoRead w => Sys2Proof.Machine.execTimeLoRead w s
  | .commandDoorbell w tail => Sys2Proof.Machine.execCommandDoorbell w tail s
  | .ringHeadWrite w kind head => Sys2Proof.Machine.execRingHeadWrite w kind head s
  | .ringEnable w kind => Sys2Proof.Machine.execRingEnable w kind s
  | .ringDisable w kind => Sys2Proof.Machine.execRingDisable w kind s
  | .ringConfigWrite w kind base log2Size => Sys2Proof.Machine.execRingConfigWrite w kind base log2Size s
  | .traceHeadWrite w slice head => Sys2Proof.Machine.execTraceHeadWrite w slice head s
  | .barAccessErrRead w => Sys2Proof.Machine.execBarAccessErrRead w s
  | .barAccessFault w => Sys2Proof.Machine.execBarAccessFault w s
  | .registerWrite w offset value => Sys2Proof.Machine.execRegisterWrite w offset value s
  | .perst => Sys2Proof.Machine.execPerst s
  | .stbyContact => Sys2Proof.Machine.execStbyContact s
  | .mmcReady => Sys2Proof.Machine.execMmcReady s
  | .moduleSeated => Sys2Proof.Machine.execModuleSeated s
  | .pwrEnRise => Sys2Proof.Machine.execPwrEnRise s
  | .pwrGood => Sys2Proof.Machine.execPwrGood s
  | .softStartFail => Sys2Proof.Machine.execSoftStartFail s
  | .pwrEnFall => Sys2Proof.Machine.execPwrEnFall s
  | .modReset => Sys2Proof.Machine.execModReset s
  | .surpriseRemoval prsnt => Sys2Proof.Machine.execSurpriseRemoval prsnt s
  | .mainPowerReturn => Sys2Proof.Machine.execMainPowerReturn s
  | .inputLow => Sys2Proof.Machine.execInputLow s
  | .powerFault => Sys2Proof.Machine.execPowerFault s
  | .stbyLow => Sys2Proof.Machine.execStbyLow s
  | .ejectLatchOpen => Sys2Proof.Machine.execEjectLatchOpen s
  | .ejectLatchClose => Sys2Proof.Machine.execEjectLatchClose s
  | .coolantWarn => Sys2Proof.Machine.execCoolantWarn s
  | .coolantFault => Sys2Proof.Machine.execCoolantFault s
  | .leak => Sys2Proof.Machine.execLeak s
  | .thermalWarn => Sys2Proof.Machine.execThermalWarn s
  | .thermalTrip => Sys2Proof.Machine.execThermalTrip s
  | .mmcStatusRead => Sys2Proof.Machine.execMmcStatusRead s
  | .mmcStatusWrite value => Sys2Proof.Machine.execMmcStatusWrite value s
  | .mmcIdentity => Sys2Proof.Machine.execMmcIdentity s
  | .mmcSensors => Sys2Proof.Machine.execMmcSensors s
  | .mmcLogRead cls index => Sys2Proof.Machine.execMmcLogRead cls index s
  | .mmcRecoveryWrite slotB offset data => Sys2Proof.Machine.execMmcRecoveryWrite slotB offset data s
  | .mmcRecoveryBoot => Sys2Proof.Machine.execMmcRecoveryBoot s
  | .fwImageWriteDone => Sys2Proof.Machine.execFwImageWriteDone s
  | .agentImageLoadDone => Sys2Proof.Machine.execAgentImageLoadDone s
  | .holdUpExhausted => Sys2Proof.Machine.execHoldUpExhausted s
  | .standbyPowerRemoved => Sys2Proof.Machine.execStandbyPowerRemoved s
  | .prsntLRise => Sys2Proof.Machine.execPrsntLRise s
  | .modResetLRise => Sys2Proof.Machine.execModResetLRise s
  | .perstRise => Sys2Proof.Machine.execPerstRise s
  | .msixVectorUnmask => Sys2Proof.Machine.execMsixVectorUnmask s
  | .entdaa => Sys2Proof.Machine.execEntdaa s
  | .refInHealthy => Sys2Proof.Machine.execRefInHealthy s
  | .cartInsert cart => Sys2Proof.Machine.execCartInsert cart s
  | .cartRemove cart => Sys2Proof.Machine.execCartRemove cart s

end Sys2Proof.Machine
end

