-- ==== Sys2Proof/Safety.lean ====
section
/-! DEFINITION. What a safe run of the block is, and the terms statements about commands use: when a protocol command
starts, and the state its reply leaves. -/

namespace Sys2Proof

/-- A step from `s` neither faults nor is refused. -/
def SafeStep (s : Machine.State) : Prop := ∃ t, Machine.step s = .next t

/-- `k` steps from `s` end in a state, with no fault and no refusal on the way. -/
def SafeRun (k : Nat) (s : Machine.State) : Prop := ∃ t, core.run k s = .next t

namespace Machine

/-- The state in which a command's checks run: the command stands in execution, fetched in this step where it was not before. -/
def atFetch (op : Op) (h : Hdr) (s : State) : State :=
  if s.qcp.exec.any (isFetched h op.code) then s else fetchCmd h op.code none s

/-- A command starts in this step and passes steps 5 to 7 of Table 13-2: commands run, its ring acts for the world `w`, it is
fetched or there is room to fetch it (R278), no earlier command holds it back (R277), and the opcode's world, mode and life
cycle allow it. -/
def starts (op : Op) (h : Hdr) (w : World) (s : State) : Bool :=
  protocolRuns s && ringWorld s h.ring == some w &&
    (s.qcp.exec.any (isFetched h op.code) ||
      (decide (inExec s h.ring < execLimit h.ring) && !(s.mmc.perst && h.ring != .inband))) &&
    !heldBack h op.code (atFetch op h s) && worldOk op.world w && modeAllows (atFetch op h s) op && op.lifeOk &&
    !(op.host && h.ring == .inband)

/-- `t`, with the clock and the waiting commands of `s`: a command moves neither. -/
def keeping (s t : State) : State := { t with pending := s.pending, time := s.time }

/-- The command's effect `u` with its reply queued (R276). -/
def replied (h : Hdr) (code : Nat) (st : Status) (d : Option Detail) (rs : List RField) (u s : State) : State :=
  keeping s (answer h code st d rs u)

/-- A protocol command completes: where it starts under its opcode's row `op` and `when_` holds of the state after its fetch, and
its reply fits (R274), exec answers the next state, in which the effect `eff` stands and a reply OK with the results `rs` is
queued. -/
def Completes (c : Instr) (h : Hdr) (op : State → Op) (when_ : State → Prop) (rs : State → List RField) (eff : State → State) :
    Prop :=
  ∀ s w, starts (op s) h w s = true → when_ (atFetch (op s) h s) →
    replyFits (atFetch (op s) h s) h.ring none (rs (atFetch (op s) h s)) = true →
    exec c s = .next (replied h (op s).code .ok none (rs (atFetch (op s) h s)) (eff (atFetch (op s) h s)) s)

/-- A deferred command reaches its commit point: the effect `eff` stands and PENDING is queued (R276). -/
def Defers (c : Instr) (h : Hdr) (op : State → Op) (when_ : State → Prop) (eff : State → State) : Prop :=
  ∀ s w, starts (op s) h w s = true → when_ (atFetch (op s) h s) →
    exec c s = .next (replied h (op s).code .pending none [] (eff (atFetch (op s) h s)) s)

/-- A command starts and reaches its commit point later: the effect `eff` stands and no reply is queued yet. -/
def Begins (c : Instr) (h : Hdr) (op : State → Op) (when_ : State → Prop) (eff : State → State) : Prop :=
  ∀ s w, starts (op s) h w s = true → when_ (atFetch (op s) h s) →
    exec c s = .next (keeping s (markStarted h (op s).code (eff (atFetch (op s) h s))))

/-- A command is refused with no effect: only its reply is queued (R272). -/
def Refuses (c : Instr) (h : Hdr) (op : State → Op) (when_ : State → Prop) (st : Status) (d : State → Option Detail) : Prop :=
  ∀ s w, starts (op s) h w s = true → when_ (atFetch (op s) h s) →
    exec c s = .next (replied h (op s).code st (d (atFetch (op s) h s)) [] (atFetch (op s) h s) s)

/-- A happening acts: where `when_` holds exec answers the next state, in which `eff` stands; the clock and the queue stay. -/
def Acts (c : Instr) (when_ : State → Prop) (eff : State → State) : Prop :=
  ∀ s, when_ s → exec c s = .next (keeping s (eff s))

end Machine

end Sys2Proof
end

