-- ==== Sys2Proof/WellFormed.lean ====
section
/-! DEFINITION. Which commands can be spelled: a header's fields and a command's parameters fit their fields (Tables 13-1 and
20-4), and an event names a part that exists (00_scope.md, R2; chapters 2, 7, 10, 14). A parameter that fits its field and that
its row refuses is well-formed: the refusal is the row's own (R273). -/

namespace Sys2Proof

/-- The header's fields fit their widths (Table 13-1). -/
def Hdr.wf (h : Hdr) : Bool := decide (h.seq < 2 ^ 32) && decide (h.tag < 2 ^ 64) && decide (h.timeoutUs < 2 ^ 32)

/-- A frame arrives at a port that can exist, begins within a cycle, and carries no more bytes than its length (R61, R233). -/
def RxFrame.wf (f : RxFrame) : Bool :=
  decide (f.port < 1024) && decide (f.bitOff < 8) && decide (f.bytes.length ≤ f.len)

def Instr.wf (i : Instr) : Bool :=
  match i with
  | .orbitBoundary => true
  | .headwayBoundary => true
  | .blockBoundary => true
  | .ttCommitIrrevocable => true
  | .ttLoad h _ => h.wf
  | .ttCommit h version target => h.wf && decide (version < 2 ^ 64) && decide (target < 2 ^ 64)
  | .ttAbort h version => h.wf && decide (version < 2 ^ 64)
  | .ttStatus h => h.wf
  | .ttShedRead h first count => h.wf && decide (first < 2 ^ 64) && decide (count < 2 ^ 64)
  | .ttAggRead h first count => h.wf && decide (first < 2 ^ 64) && decide (count < 2 ^ 64)
  | .frameReceive f => f.wf
  | .forwardingDecision _ _ => true
  | .hbmBucketReadReturn _ _ => true
  | .hbmWriteBack _ => true
  | .frameTailStatus _ => true
  | .cellInject slice lane => decide (slice < 32) && decide (lane < 3)
  | .cellRelease slice _ => decide (slice < 32)
  | .egressSelect port => decide (port < 1024)
  | .sidingReadReturn slice _ => decide (slice < 32)
  | .histSample slice => decide (slice < 32)
  | .updateSlot slice => decide (slice < 32)
  | .arrayRepaired slice _ _ _ => decide (slice < 32)
  | .ucodeScrubRewrite slice word _ => decide (slice < 32) && decide (word < 20480)
  | .learnRequestArrive slice => decide (slice < 32)
  | .pairAnswer slice => decide (slice < 32)
  | .pairAge slice => decide (slice < 32)
  | .pairDelete slice => decide (slice < 32)
  | .ageingSweep slice => decide (slice < 32)
  | .rowActivationTrigger channel bank row => decide (channel < 384) && decide (bank < 32) && decide (row < 16384)
  | .hbmFreeze channel _ _ _ _ _ _ => decide (channel < 384)
  | .linkDown port => decide (port < 1024)
  | .linkUp port => decide (port < 1024)
  | .laneLost lane => decide (lane < 1024)
  | .cartFault cart _ => decide (cart < 16)
  | .preemptVerifyDone port _ => decide (port < 1024)
  | .timeSrcChange _ _ => true
  | .refInUnhealthy => true
  | .holdoverEntry => true
  | .timeStepIrrevocable => true
  | .timeIoPeriodicEdge pin => decide (pin < 6)
  | .timeIoOneShot pin => decide (pin < 6)
  | .timeIoCapture pin _ eighth => decide (pin < 6) && decide (eighth < 8)
  | .moduleInfo h => h.wf
  | .qcpEcho h data => h.wf && decide (data.length ≤ 16384)
  | .qcpCancel h seq tag => h.wf && decide (seq < 2 ^ 64) && decide (tag < 2 ^ 64)
  | .qcpInbandSet h port _ channel queue _ => h.wf && decide (port < 2 ^ 64) && decide (channel < 2 ^ 64) && decide (queue < 2 ^ 64)
  | .qcpStats h _ => h.wf
  | .commandFetch c => decide (c.bytes.length = 32)
  | .commandTimeout _ seq tag => decide (seq < 4294967296) && decide (tag < 18446744073709551616)
  | .replyWrite _ => true
  | .inbandCommand f => (decide (f.port < 1024) && decide (f.payload.length ≤ 9216))
  | .modeStatus h => h.wf
  | .modeSet h _ holdMs => h.wf && decide (holdMs < 2 ^ 64)
  | .tabletStatus h _ count => h.wf && decide (count < 2 ^ 64)
  | .moduleReset h => h.wf
  | .calibrationDone failed => failed.all (fun k => decide (k < 1024))
  | .drainEmptying => true
  | .drainDark => true
  | .drainWipeDone => true
  | .powerOffDone => true
  | .sliceHalt slice => decide (slice < 32)
  | .moduleFaultHalt => true
  | .sanitizeDone _ => true
  | .hbmZeroingDone failed => failed.all (fun k => decide (k < 384))
  | .portMapSet h _ => h.wf
  | .portMapGet h _ => h.wf
  | .portAdmin h port _ _ => h.wf && decide (port < 2 ^ 64)
  | .portStatus h first count => h.wf && decide (first < 2 ^ 64) && decide (count < 2 ^ 64)
  | .portCounters h port _ => h.wf && decide (port < 2 ^ 64)
  | .laneStatus h first count => h.wf && decide (first < 2 ^ 64) && decide (count < 2 ^ 64)
  | .laneRecal h lane _ => h.wf && decide (lane < 2 ^ 64)
  | .laneRecalDone lane => decide (lane < 1024)
  | .fecThreshSet h port activate clearAt window => h.wf && decide (port < 2 ^ 64) && decide (activate < 2 ^ 64) && decide (clearAt < 2 ^ 64) && decide (window < 2 ^ 64)
  | .cartHandover h cart => h.wf && decide (cart < 2 ^ 64)
  | .cartHandoverDone cart => decide (cart < 16)
  | .cartRestore h cart _ => h.wf && decide (cart < 2 ^ 64)
  | .cartRestoreDone cart _ => decide (cart < 16)
  | .cartStatus h => h.wf
  | .portParseSet h port _ => h.wf && decide (port < 2 ^ 64)
  | .parseCounters h port _ => h.wf && decide (port < 2 ^ 64)
  | .hashSaltSet h _ => h.wf
  | .hashProbe h block => h.wf && decide (block.length ≤ 16384)
  | .ruleVersionOpen h => h.wf
  | .ruleVersionCommit h v => h.wf && decide (v < 2 ^ 64)
  | .ruleVersionDiscard h v => h.wf && decide (v < 2 ^ 64)
  | .ruleVersionDiscardDone => true
  | .ruleVersionRetire h u => h.wf && decide (u < 2 ^ 64)
  | .ruleVersionStatus h => h.wf
  | .ruleAdd h v _ part idx _ prio action _ _ => h.wf && decide (v < 2 ^ 64) && decide (part < 2 ^ 64) && decide (idx < 2 ^ 64) && decide (prio < 2 ^ 64) && decide (action < 2 ^ 64)
  | .ruleRemove h v _ idx => h.wf && decide (v < 2 ^ 64) && decide (idx < 2 ^ 64)
  | .ruleChange h v _ part idx old _ prio action _ _ => h.wf && decide (v < 2 ^ 64) && decide (part < 2 ^ 64) && decide (idx < 2 ^ 64) && decide (old < 2 ^ 64) && decide (prio < 2 ^ 64) && decide (action < 2 ^ 64)
  | .ruleSearch h v slice part _ _ => h.wf && decide (v < 2 ^ 64) && decide (slice < 2 ^ 64) && decide (part < 2 ^ 64)
  | .ruleIter h v slice part _ _ _ cursor count => h.wf && decide (v < 2 ^ 64) && decide (slice < 2 ^ 64) && decide (part < 2 ^ 64) && decide (cursor < 2 ^ 64) && decide (count < 2 ^ 64)
  | .ruleRead h slice idx => h.wf && decide (slice < 2 ^ 64) && decide (idx < 2 ^ 64)
  | .rulePartitionSet h _ => h.wf
  | .arrayStatus h slice => h.wf && decide (slice < 2 ^ 64)
  | .arrayStealSet h _ _ => h.wf
  | .actionAdd h v _ idx _ => h.wf && decide (v < 2 ^ 64) && decide (idx < 2 ^ 64)
  | .actionRemove h v _ idx => h.wf && decide (v < 2 ^ 64) && decide (idx < 2 ^ 64)
  | .nexthopAdd h v _ idx _ => h.wf && decide (v < 2 ^ 64) && decide (idx < 2 ^ 64)
  | .nexthopRemove h v _ idx => h.wf && decide (v < 2 ^ 64) && decide (idx < 2 ^ 64)
  | .ecmpAdd h v _ group members => h.wf && decide (v < 2 ^ 64) && decide (group < 2 ^ 64) && members.all (fun k => decide (k < 2 ^ 64))
  | .ecmpRemove h v _ group => h.wf && decide (v < 2 ^ 64) && decide (group < 2 ^ 64)
  | .lagAdd h v lag ports => h.wf && decide (v < 2 ^ 64) && decide (lag < 2 ^ 64) && ports.all (fun k => decide (k < 2 ^ 64))
  | .lagRemove h v lag => h.wf && decide (v < 2 ^ 64) && decide (lag < 2 ^ 64)
  | .excCounters h slice _ => h.wf && decide (slice < 2 ^ 64)
  | .mcastAdd h v group dests => h.wf && decide (v < 2 ^ 64) && decide (group < 2 ^ 64) && dests.all (fun k => decide (k.1 < 2 ^ 64) && decide (k.2 < 2 ^ 64))
  | .mcastRemove h v group => h.wf && decide (v < 2 ^ 64) && decide (group < 2 ^ 64)
  | .fabricCounters h slice _ => h.wf && decide (slice < 2 ^ 64)
  | .fabricStatus h slice block => h.wf && decide (slice < 2 ^ 64) && decide (block < 2 ^ 64)
  | .routeAdd h v table _ _ len _ => h.wf && decide (v < 2 ^ 64) && decide (table < 2 ^ 64) && decide (len < 2 ^ 64)
  | .routeRemove h v table _ _ len => h.wf && decide (v < 2 ^ 64) && decide (table < 2 ^ 64) && decide (len < 2 ^ 64)
  | .routeChange h v table _ _ len _ => h.wf && decide (v < 2 ^ 64) && decide (table < 2 ^ 64) && decide (len < 2 ^ 64)
  | .routeLookup h v table _ _ => h.wf && decide (v < 2 ^ 64) && decide (table < 2 ^ 64)
  | .routeStatus h => h.wf
  | .routeHoleSet h hole => h.wf && decide (hole < 2 ^ 64)
  | .flowSearch h domain _ => h.wf && decide (domain < 2 ^ 64)
  | .flowNext h _ _ _ count => h.wf && decide (count < 2 ^ 64)
  | .flowFlushPort h port _ => h.wf && decide (port < 2 ^ 64)
  | .flowFlushDone port => decide (port < 1024)
  | .flowInsert h _ _ => h.wf
  | .flowDelete h _ domain _ => h.wf && decide (domain < 2 ^ 64)
  | .flowZoneSet h zone limit => h.wf && decide (zone < 2 ^ 64) && decide (limit < 2 ^ 64)
  | .flowSweepSet h period => h.wf && decide (period < 2 ^ 64)
  | .flowLearnLimit h port limit => h.wf && decide (port < 2 ^ 64) && decide (limit < 2 ^ 64)
  | .flowStatus h slice => h.wf && decide (slice < 2 ^ 64)
  | .flowCounters h slice _ => h.wf && decide (slice < 2 ^ 64)
  | .ucodeLoad h _ _ _ => h.wf
  | .ucodeLoadDone => true
  | .ucodeSwap h _ _ _ => h.wf
  | .ucodeStatus h slice => h.wf && decide (slice < 2 ^ 64)
  | .queueShaperSet h port queue _ => h.wf && decide (port < 2 ^ 64) && decide (queue < 2 ^ 64)
  | .queueShaperGet h port queue => h.wf && decide (port < 2 ^ 64) && decide (queue < 2 ^ 64)
  | .queueWeightSet h port queue weight => h.wf && decide (port < 2 ^ 64) && decide (queue < 2 ^ 64) && decide (weight < 2 ^ 64)
  | .preemptSet h port _ _ => h.wf && decide (port < 2 ^ 64)
  | .preemptStatus h first count => h.wf && decide (first < 2 ^ 64) && decide (count < 2 ^ 64)
  | .histConfig h _ n => h.wf && decide (n < 2 ^ 64)
  | .histRead h port queue _ => h.wf && decide (port < 2 ^ 64) && decide (queue < 2 ^ 64)
  | .apogeeRead h port => h.wf && decide (port < 2 ^ 64)
  | .queueCounters h port _ => h.wf && decide (port < 2 ^ 64)
  | .bufStatus h slice port => h.wf && decide (slice < 2 ^ 64) && decide (port < 2 ^ 64)
  | .bufCounters h _ n _ => h.wf && decide (n < 2 ^ 64)
  | .hbmStatus h first count => h.wf && decide (first < 2 ^ 64) && decide (count < 2 ^ 64)
  | .hbmOrderSet h _ _ => h.wf
  | .hbmOrderSetDone => true
  | .hbmFreezeRead h channel => h.wf && decide (channel < 2 ^ 64)
  | .retrainAndResume h channel => h.wf && decide (channel < 2 ^ 64)
  | .retrainDone channel _ => decide (channel < 384)
  | .retire h channel => h.wf && decide (channel < 2 ^ 64)
  | .hbmEccRead h channel first count => h.wf && decide (channel < 2 ^ 64) && decide (first < 2 ^ 64) && decide (count < 2 ^ 64)
  | .hbmRdThreshSet h threshold => h.wf && decide (threshold < 2 ^ 64)
  | .timeStatus h => h.wf
  | .timeSrcSet h _ portA portB => h.wf && decide (portA < 2 ^ 64) && decide (portB < 2 ^ 64)
  | .timeSample h _ => h.wf
  | .timeJumpSet h threshold => h.wf && decide (threshold < 2 ^ 64)
  | .timeAcceptStep h _ target => h.wf && decide (target < 2 ^ 64)
  | .timeStepAbort h => h.wf
  | .timeHoldoverSet h lossMs fRef aRef fInt aInt => h.wf && decide (lossMs < 2 ^ 64) && decide (fRef < 2 ^ 64) && decide (aRef < 2 ^ 64) && decide (fInt < 2 ^ 64) && decide (aInt < 2 ^ 64)
  | .ptpTx h port frame _ tsOffset _ => h.wf && decide (port < 2 ^ 64) && decide (frame.length ≤ 16384) && decide (tsOffset < 2 ^ 64)
  | .timeIoSet h pin _ => h.wf && decide (pin < 2 ^ 64)
  | .timeIoRelease h pin => h.wf && decide (pin < 2 ^ 64)
  | .timeIoRead h pin => h.wf && decide (pin < 2 ^ 64)
  | .timeRead h => h.wf
  | .macsecPortSet h port _ => h.wf && decide (port < 2 ^ 64)
  | .macsecScAdd h port _ sci => h.wf && decide (port < 2 ^ 64) && decide (sci < 2 ^ 64)
  | .macsecScRemove h channel => h.wf && decide (channel < 2 ^ 64)
  | .macsecSaInstall h channel an _ => h.wf && decide (channel < 2 ^ 64) && decide (an < 2 ^ 64)
  | .macsecSaSelect h channel an => h.wf && decide (channel < 2 ^ 64) && decide (an < 2 ^ 64)
  | .macsecSaRemove h channel an => h.wf && decide (channel < 2 ^ 64) && decide (an < 2 ^ 64)
  | .macsecPnLimitsSet h channel soft hard => h.wf && decide (channel < 2 ^ 64) && decide (soft < 2 ^ 64) && decide (hard < 2 ^ 64)
  | .macsecStatus h port => h.wf && decide (port < 2 ^ 64)
  | .macsecCounters h port _ => h.wf && decide (port < 2 ^ 64)
  | .macsecUnctrlTx h port frame => h.wf && decide (port < 2 ^ 64) && decide (frame.length ≤ 16384)
  | .laOpen h ctx _ _ key _ => h.wf && decide (ctx < 2 ^ 64) && decide (key.length ≤ 16384)
  | .laUpdate h ctx _ data => h.wf && decide (ctx < 2 ^ 64) && decide (data.length < 2 ^ 32)
  | .laFinal h ctx _ => h.wf && decide (ctx < 2 ^ 64)
  | .laSave h ctx => h.wf && decide (ctx < 2 ^ 64)
  | .laRestore h ctx blob => h.wf && decide (ctx < 2 ^ 64) && decide (blob.length ≤ 16384)
  | .laClose h ctx => h.wf && decide (ctx < 2 ^ 64)
  | .worldAssign h _ first count _ => h.wf && decide (first < 2 ^ 64) && decide (count < 2 ^ 64)
  | .worldLock h => h.wf
  | .worldStatus h _ first count => h.wf && decide (first < 2 ^ 64) && decide (count < 2 ^ 64)
  | .keyStoreWrite h entry data => h.wf && decide (entry < 2 ^ 64) && decide (data.length ≤ 16384)
  | .keyStoreZero h => h.wf
  | .lifecycleSet h _ _ => h.wf
  | .ownerKeyEnroll h ecdsa mldsa => h.wf && decide (ecdsa < 2 ^ 64) && decide (mldsa < 2 ^ 64)
  | .ownerKeyRevoke h slot => h.wf && decide (slot < 2 ^ 64)
  | .authChallenge h => h.wf
  | .debugAuth h _ _ => h.wf
  | .debugRevoke h _ => h.wf
  | .moduleAttest h nonce => h.wf && decide (nonce.length ≤ 16384)
  | .fwImageWrite h _ _ => h.wf
  | .fwImageCommitSvn h => h.wf
  | .agentImageLoad h _ _ => h.wf
  | .fwSwitch h _ => h.wf
  | .fwSwitchDone _ => true
  | .agentStatus h slice => h.wf && decide (slice < 2 ^ 64)
  | .agentReset h slice => h.wf && decide (slice < 2 ^ 64)
  | .agentResetDone slice => decide (slice < 32)
  | .agentCounters h slice _ => h.wf && decide (slice < 2 ^ 64)
  | .taskCreate h slice type prio _ _ => h.wf && decide (slice < 2 ^ 64) && decide (type < 2 ^ 64) && decide (prio < 2 ^ 64)
  | .taskReady h slice task => h.wf && decide (slice < 2 ^ 64) && decide (task < 2 ^ 64)
  | .taskCancel h slice task => h.wf && decide (slice < 2 ^ 64) && decide (task < 2 ^ 64)
  | .taskRead h slice task => h.wf && decide (slice < 2 ^ 64) && decide (task < 2 ^ 64)
  | .taskFree h slice task => h.wf && decide (slice < 2 ^ 64) && decide (task < 2 ^ 64)
  | .traceRead h slice => h.wf && decide (slice < 2 ^ 64)
  | .traceStream h slice addr entries _ => h.wf && decide (slice < 2 ^ 64) && decide (addr < 2 ^ 64) && decide (entries < 2 ^ 64)
  | .dbgHalt h slice thread => h.wf && decide (slice < 2 ^ 64) && decide (thread < 2 ^ 64)
  | .dbgResume h slice thread => h.wf && decide (slice < 2 ^ 64) && decide (thread < 2 ^ 64)
  | .dbgStep h slice thread => h.wf && decide (slice < 2 ^ 64) && decide (thread < 2 ^ 64)
  | .dbgRead h slice thread => h.wf && decide (slice < 2 ^ 64) && decide (thread < 2 ^ 64)
  | .dbgWrite h slice thread pc _ _ => h.wf && decide (slice < 2 ^ 64) && decide (thread < 2 ^ 64) && decide (pc < 2 ^ 64)
  | .abortMessage h slice thread => h.wf && decide (slice < 2 ^ 64) && decide (thread < 2 ^ 64)
  | .agentNop slice => decide (slice < 32)
  | .agentAlu slice => decide (slice < 32)
  | .agentMem slice => decide (slice < 32)
  | .agentSend slice => decide (slice < 32)
  | .agentRecv slice => decide (slice < 32)
  | .agentWait slice => decide (slice < 32)
  | .agentWaitEnd slice thread => decide (slice < 32) && decide (thread < 8)
  | .agentTimer slice => decide (slice < 32)
  | .agentTimerFire slice thread => decide (slice < 32) && decide (thread < 8)
  | .agentTaskTake slice => decide (slice < 32)
  | .agentTaskDone slice => decide (slice < 32)
  | .agentTaskReady slice => decide (slice < 32)
  | .agentTaskCancel slice => decide (slice < 32)
  | .taskPrefetch slice => decide (slice < 32)
  | .agentTrap slice => decide (slice < 32)
  | .agentResume slice => decide (slice < 32)
  | .agentHbm slice => decide (slice < 32)
  | .agentRing slice => decide (slice < 32)
  | .agentFlag slice => decide (slice < 32)
  | .agentHaltWord slice => decide (slice < 32)
  | .agentDeadlock slice => decide (slice < 32)
  | .agentUcodeScrub slice word _ => decide (slice < 32) && decide (word < 8192)
  | .traceStreamEntry slice => decide (slice < 32)
  | .pmuConfig h block _ _ => h.wf && decide (block < 2 ^ 64)
  | .pmuRead h _ _ _ => h.wf
  | .pmuSnapshot h _ => h.wf
  | .pmuUserSet h _ => h.wf
  | .logStatus h => h.wf
  | .logRead h _ first count => h.wf && decide (first < 2 ^ 64) && decide (count < 2 ^ 64)
  | .logAnnotate h note => h.wf && decide (note.length ≤ 16384)
  | .logHourlyCommit => true
  | .evcClaim _ => true
  | .evcEoi _ => true
  | .evcPendingWrite _ n _ => decide (n < 64)
  | .msixMessage => true
  | .timeLoRead _ => true
  | .commandDoorbell _ tail => decide (tail < 4294967296)
  | .ringHeadWrite _ _ head => decide (head < 4294967296)
  | .ringEnable _ _ => true
  | .ringDisable _ _ => true
  | .ringConfigWrite _ _ base log2Size => decide (base < 18446744073709551616) && decide (log2Size < 4294967296)
  | .traceHeadWrite _ slice head => decide (slice < 32) && decide (head < 4294967296)
  | .barAccessErrRead _ => true
  | .barAccessFault _ => true
  | .registerWrite _ offset _ => decide (offset < 67108864)
  | .perst => true
  | .stbyContact => true
  | .mmcReady => true
  | .moduleSeated => true
  | .pwrEnRise => true
  | .pwrGood => true
  | .softStartFail => true
  | .pwrEnFall => true
  | .modReset => true
  | .surpriseRemoval _ => true
  | .mainPowerReturn => true
  | .inputLow => true
  | .powerFault => true
  | .stbyLow => true
  | .ejectLatchOpen => true
  | .ejectLatchClose => true
  | .coolantWarn => true
  | .coolantFault => true
  | .leak => true
  | .thermalWarn => true
  | .thermalTrip => true
  | .mmcStatusRead => true
  | .mmcStatusWrite _ => true
  | .mmcIdentity => true
  | .mmcSensors => true
  | .mmcLogRead _ _ => true
  | .mmcRecoveryWrite _ _ _ => true
  | .mmcRecoveryBoot => true
  | .fwImageWriteDone => true
  | .agentImageLoadDone => true
  | .holdUpExhausted => true
  | .standbyPowerRemoved => true
  | .prsntLRise => true
  | .modResetLRise => true
  | .perstRise => true
  | .msixVectorUnmask => true
  | .entdaa => true
  | .refInHealthy => true
  | .cartInsert cart => decide (cart < 16)
  | .cartRemove cart => decide (cart < 16)

end Sys2Proof
end

