-- ==== Sys2Proof/Certificates/Slice0/Obligations.lean ====
section
/-! DEFINITION. The statements for the provers: each formalises rules of the spec, or says what every command or step does. -/

open Sys2Proof Sys2Proof.Machine

/-- One step takes the command in front of the queue and runs it with the queue's rest (log entry 2). -/
def Obligations.StepRunsTheFrontCommand : Prop :=
  ∀ (c : Instr) (rest : List Instr) (s : State),
    step { s with pending := c :: rest } = exec c { s with pending := rest }

/-- On an empty queue one core cycle passes; the model's choice (log entry 2). -/
def Obligations.EmptyQueuePassesOneCycle : Prop :=
  ∀ s : State, s.pending = [] → ∃ t, step s = .next t ∧ t.time.now = s.time.now + 1 ∧ t.pending = []

/-- The rows at which time passes. -/
def Sys2Proof.isBoundary (c : Instr) : Bool := c == .orbitBoundary || c == .headwayBoundary || c == .blockBoundary

/-- A command acts within one cycle (log entry 2): it leaves the queue alone, and only the boundary rows move the clock. -/
def Obligations.CommandsKeepQueueAndClock : Prop :=
  ∀ (c : Instr) (s t : State), exec c s = .next t →
    t.pending = s.pending ∧ (isBoundary c = false → t.time = s.time)

/-- Every step of the block answers a next state: a command that its rules refuse is answered, counted or ignored, and never
stops the block. -/
def Obligations.EveryStepIsAnswered : Prop := ∀ s : State, SafeStep s

/-- The grid of Table 1-1 is whole: the present cycle lies in the present headway, whose length is 256 cycles or, after a step
(R241), up to 511; the headway's index and the orbit's number lie in their ranges. -/
def Sys2Proof.GridWhole (s : State) : Prop :=
  s.time.hwStart ≤ s.time.now ∧ s.time.now < s.time.hwStart + s.time.hwLen ∧ 256 ≤ s.time.hwLen ∧ s.time.hwLen < 512 ∧
    s.time.headway < 6250 ∧ s.time.orbit < 2 ^ 32

/-- Every step keeps the grid whole. -/
def Obligations.StepKeepsGridWhole : Prop := ∀ s t : State, GridWhole s → step s = .next t → GridWhole t

/-- The boundary rows complete, each at the next boundary of its kind; that they let time run there is log entry 2. -/
def Obligations.BoundaryRowsComplete : Prop :=
  ∀ s : State, GridWhole s →
    (∃ t, exec .blockBoundary s = .next t ∧ t.time.blkCount = s.time.blkCount + 1 ∧
      t.time.now = min (s.time.hwStart + s.time.hwLen) (s.time.hwStart + ((s.time.now - s.time.hwStart) / 32 + 1) * 32)) ∧
    (∃ t, exec .headwayBoundary s = .next t ∧ t.time.now = s.time.hwStart + s.time.hwLen ∧ t.time.hwStart = t.time.now ∧
      t.time.hwCount = s.time.hwCount + 1 ∧
      (s.time.headway < 6249 →
        t.time.headway = s.time.headway + 1 ∧ t.time.hwLen = 256 ∧ t.time.orbit = s.time.orbit)) ∧
    (∃ t, exec .orbitBoundary s = .next t ∧
      t.time.now = s.time.hwStart + s.time.hwLen + (6249 - s.time.headway) * 256 ∧ t.time.hwStart = t.time.now ∧
      t.time.orbCount = s.time.orbCount + 1)

/-- The machine right after reset (log entry 1 names the moment and the values the spec leaves open). -/
def Obligations.ResetLeavesTheResetValues : Prop :=
  GridWhole State.reset ∧ State.reset.pending = [] ∧ State.reset.frames = [] ∧
  (∀ k, Memory.wf (agentOf State.reset k).mem = true ∧ ∀ a, cellGet (agentOf State.reset k).mem a = 0) ∧
  State.reset.mode.mode = .boot ∧ State.reset.mode.zeroed = false ∧ State.reset.mode.tablets = [] ∧
  State.reset.tt.active = none ∧ State.reset.tt.staged = none ∧ State.reset.tt.commit = none ∧
  State.reset.clock.alignValid = false ∧
  (∀ w k, (ringOf State.reset w k).enable = false ∧ (ringOf State.reset w k).prod = 0 ∧ (ringOf State.reset w k).cons = 0) ∧
  (∀ sp, evcEligible State.reset sp = [] ∧ tget State.reset.evc.stk sp [] = []) ∧
  (∀ p q, (queueOf State.reset p q).credit = 0 ∧ mEn (queueOf State.reset p q).word = false ∧
    (queueOf State.reset p q).items = []) ∧
  (∀ b i, tget State.reset.pmu.pmc (b, i) 0 = 0 ∧ tget State.reset.pmu.ctl (b, i) 0 = 0) ∧
  (∀ c i j, ctr State.reset c i j = 0) ∧
  State.reset.hbm.thresh = 1024 ∧ (∀ c, (chanOf State.reset c).st = .active) ∧ State.reset.fab.halted = []

/-- A row's command would be examined now: commands run, its ring acts for `w`, it is fetched or may be, nothing holds it back. -/
def Sys2Proof.Machine.examined (op : Op) (h : Hdr) (w : World) (s : State) : Bool :=
  protocolRuns s && ringWorld s h.ring == some w &&
    (s.qcp.exec.any (isFetched h op.code) ||
      (decide (inExec s h.ring < execLimit h.ring) && !(s.mmc.perst && h.ring != .inband))) &&
    !heldBack h op.code (atFetch op h s)

/-- The checks in their order (Table 13-2). -/
def Obligations.ChecksRefuseInOrder : Prop :=
  (∀ (op : Op) (h : Hdr) (body : State → Out) (s : State), protocolRuns s = false → qcp op h body s = s) ∧
  (∀ (op : Op) (h : Hdr) (body : State → Out) (s : State), s.qcp.exec.any (isFetched h op.code) = false →
    execLimit h.ring ≤ inExec s h.ring → qcp op h body s = s) ∧
  (∀ (op : Op) (h : Hdr) (body : State → Out) (s : State) (w : World), protocolRuns s = true → ringWorld s h.ring = some w →
    (s.qcp.exec.any (isFetched h op.code) = true ∨ (inExec s h.ring < execLimit h.ring ∧ s.mmc.perst = false)) →
    heldBack h op.code (atFetch op h s) = true → qcp op h body s = atFetch op h s) ∧
  (∀ (op : Op) (h : Hdr) (body : State → Out) (s : State) (w : World), examined op h w s = true →
    let u := atFetch op h s
    (worldOk op.world w = false →
      qcp op h body s = answer h op.code .worldViolation none [] (violate w op.code u)) ∧
    (worldOk op.world w = true → modeAllows u op = false →
      qcp op h body s = answer h op.code .modeNotPermitted none [] u) ∧
    (worldOk op.world w = true → modeAllows u op = true → op.lifeOk = false →
      qcp op h body s = answer h op.code .lifecycleNotPermitted none [] u) ∧
    (worldOk op.world w = true → modeAllows u op = true → op.lifeOk = true → (op.host && h.ring == .inband) = true →
      qcp op h body s = answer h op.code .badParam (some (.param 0x20)) [] u) ∧
    (∀ st d, starts op h w s = true → body u = .refuse st d → qcp op h body s = answer h op.code st d [] u) ∧
    (∀ rs v, starts op h w s = true → body u = .done rs v → replyFits u h.ring none rs = false →
      qcp op h body s = answer h op.code .badLength none [] u)) ∧
  (∀ (op : Op) (s : State), s.mode.mode = .halt → op.reads = false → op.code ≠ 0x0113 → modeAllows s op = false)

/-- Compatibility of activities (R346, Table 17-6) and the conflict it makes. -/
def Obligations.TabletsFollowTable17_6 : Prop :=
  (∀ a b : Activity, compatible a b = true ↔ (a, b) ∈
    [(.rv, .rv), (.rv, .ag), (.rv, .ul), (.rv, .al), (.rv, .ar), (.ag, .rv), (.ag, .ag), (.ag, .ul), (.ag, .al), (.ul, .rv),
      (.ul, .ag), (.ul, .al), (.ul, .ar), (.al, .rv), (.al, .ag), (.al, .ul), (.ar, .rv), ((.ar, .ul) : Activity × Activity)]) ∧
  (∀ a b : Activity, compatible a b = compatible b a) ∧
  (∀ (a : Activity) (ds : List Domain) (s : State), tabletConflict a ds s = none ↔
    ∀ t ∈ s.mode.tablets, t.dom ∈ ds → compatible t.act a = true) ∧
  (∀ (a : Activity) (ds : List Domain) (s : State) (t : Tablet), tabletConflict a ds s = some t →
    t ∈ s.mode.tablets ∧ t.dom ∈ ds ∧ compatible t.act a = false ∧
    ∃ before rest, s.mode.tablets = before ++ t :: rest ∧ ∀ x ∈ before, x.dom ∈ ds → compatible x.act a = true)

/-- The timetable commands complete (Table 1-10), and so does the irrevocable point (R38). -/
def Obligations.TimetableCommandsComplete : Prop :=
  (∀ h bytes img, readImage bytes = img → Completes (.ttLoad h bytes) h
    (fun _ => { code := 0x0301, world := .secure, host := true })
    (fun s => s.tt.commit = none ∧ imageRefusal s img = none) (fun _ => [fld "TT_VERSION" img.version])
    (fun s => { s with tt := { s.tt with staged := some img } })) ∧
  (∀ h version target n i, Defers (.ttCommit h version target) h
    (fun s => { code := 0x0302, world := .secure,
                modeOk := [Mode.boot, .calibrate, .service, .holdover].contains s.mode.mode,
                lifeOk := s.world.lifecycle != .returned })
    (fun s => s.tt.staged = some i ∧ i.version = version ∧ targetAhead s target = some n ∧
      tabletConflict .tc (.timetable :: sliceDoms (agentsToReset s i)) s = none)
    (fun s => tabletTake .tc (.timetable :: sliceDoms (agentsToReset s i)) h 0x0302 { s with tt := { s.tt with
      committed := true
      commit := some ⟨h, version, (s.time.orbit + n) % 2 ^ 32, false, agentsToReset s i⟩ } })) ∧
  (∀ h version c, Completes (.ttAbort h version) h (fun _ => { code := 0x0303, world := .secure })
    (fun s => s.tt.commit = some c ∧ c.version = version ∧ c.irrevocable = false ∧ cyclesToTarget s c.target > 80000)
    (fun _ => []) (fun s => finish c.hdr 0x0302 .cancelled none [] { s with tt := { s.tt with commit := none } })) ∧
  (∀ h, Completes (.ttStatus h) h (fun _ => { code := 0x0304, reads := true }) (fun _ => True)
    (fun s => [fld "ACTIVE" ((s.tt.active.map (fun i => i.version)).getD 0),
      fld "STAGED" ((s.tt.staged.map (fun i => i.version)).getD 0), flds "VARIANT" s.tt.variant.toList,
      flag "ALIGN_INVALID" (!s.clock.alignValid), flds "PENDING_TARGET" (s.tt.commit.map (fun c => c.target)).toList, classDiag s]) id) ∧
  (∀ h first count, Completes (.ttShedRead h first count) h (fun _ => { code := 0x0305, reads := true })
    (fun _ => rangeOk first count 65536 = true) (fun s => ((s.tt.shed.drop first).take count).flatMap shedFlds) id) ∧
  (∀ h first count, Completes (.ttAggRead h first count) h (fun _ => { code := 0x0306, reads := true })
    (fun _ => rangeOk first count 65536 = true) (fun s => (List.range count).map (fun i =>
      flds "AGG" [ctr s .accepted (first + i) 0, ctr s .demoted (first + i) 0, ctr s .refusedNc (first + i) 0,
        ctr s .lateAgg (first + i) 0])) id) ∧
  (∀ c i, Acts .ttCommitIrrevocable
    (fun s => s.tt.commit = some c ∧ c.irrevocable = false ∧ cyclesToTarget s c.target ≤ 80000 ∧
      (recountLost s).tt.staged = some i ∧ revalidates (recountLost s) c i = true)
    (fun s => { recountLost s with tt := { (recountLost s).tt with commit := some { c with irrevocable := true } } }))

/-- Claims (R316) and nested priorities (R317). -/
def Obligations.ClaimsTakeTheBestSource : Prop :=
  (∀ (s : State) (l : List Nat), (bestSrc s l = none ↔ l = []) ∧
    ∀ n, bestSrc s l = some n → n ∈ l ∧ ∀ m ∈ l, prioOf s m < prioOf s n ∨ (prioOf s m = prioOf s n ∧ n ≤ m)) ∧
  (∀ (s : State) (sp : Bool) (n : Nat), n ∈ evcEligible s sp →
    n ∈ enabledSrcs s sp ∧ pendingBit s n = true ∧ runPrio s sp < prioOf s n) ∧
  (∀ (s : State) (n : Nat), n ∈ evcEligible s false → isSecureSrc s n = false) ∧
  (∀ (s : State) (sp : Bool) (n : Nat), bestSrc s (evcEligible s sp) = some n → (tget s.evc.stk sp []).length < 16 →
    (claim sp s).1 = n + prioOf s n * 2 ^ 16 ∧ runPrio (claim sp s).2 sp = prioOf s n ∧
    (∀ m ∈ evcEligible (claim sp s).2 sp, prioOf s n < prioOf s m) ∧
    tget (eoi sp (claim sp s).2).evc.stk sp [] = tget s.evc.stk sp [])

/-- The ingress meter (R75, R76). -/
def Obligations.MeterChargesExactly : Prop :=
  ∀ (s : State) (len : Nat) (m : MeterSt), m.credit ≤ imCap m.param →
    (refill (meterHw s) m).credit = (if m.upto < meterHw s then min (m.credit + imSlope m.param) (imCap m.param) else m.credit) ∧
    (∀ h, refill h (refill h m) = refill h m) ∧
    ((meterTake s len m).1 = true ↔
      len ≤ imMaxSize m.param ∧ imCharge m.param len ≤ (refill (meterHw s) m).credit) ∧
    ((meterTake s len m).1 = true →
      (meterTake s len m).2.credit + imCharge m.param len = (refill (meterHw s) m).credit) ∧
    ((meterTake s len m).1 = false → (meterTake s len m).2.credit = (refill (meterHw s) m).credit) ∧
    (meterTake s len m).2.param = m.param ∧ (meterTake s len m).2.credit ≤ imCap m.param ∧
    (imByte m.param = false → imCharge m.param len = 65536) ∧
    (imByte m.param = true → 64 ≤ imCharge m.param len ∧
      (1 ≤ (len : Int) + imOverhead m.param → (imCharge m.param len : Int) = 64 * (len + imOverhead m.param)))

/-- The hash block (R67) and what the hash picks (Table 3-5). -/
def Obligations.HashBlockIsSymmetric : Prop :=
  (∀ a b p q proto kind, (hashBlock a b p q proto kind).length = 40 ∧
    hashBlock a b p q proto kind = hashBlock b a p q proto kind ∧
    hashBlock a b p q proto kind = hashBlock a b q p proto kind) ∧
  (∀ a b p q a' b' p' q' proto kind, a ≤ b → b < 2 ^ 128 → p ≤ q → q < 2 ^ 16 → a' ≤ b' → b' < 2 ^ 128 → p' ≤ q' → q' < 2 ^ 16 →
    hashBlock a b p q proto kind = hashBlock a' b' p' q' proto kind → a = a' ∧ b = b' ∧ p = p' ∧ q = q') ∧
  (∀ h : BitVec 32, homeOf h < 32) ∧
  (∀ (h : BitVec 32) (n : Nat), 0 < n → ecmpPick h n < n ∧ lagPick h n < n ∧ bucketOf h n < n)

/-- Write-backs accumulate (R119). -/
def Obligations.WriteBacksAddUp : Prop :=
  (∀ (ws : List WriteBack) (r : FlowRec), r.pkts < 2 ^ 48 → r.bytes < 2 ^ 64 →
    let t := ws.foldl (fun r w => applyWb w r) r
    t.pkts = (r.pkts + ws.length) % 2 ^ 48 ∧
    (ws.length < 2 ^ 48 → (t.wrap = true ↔ r.wrap = true ∨ 2 ^ 48 ≤ r.pkts + ws.length)) ∧
    t.bytes = (r.bytes + (ws.map (fun w => w.len)).sum) % 2 ^ 64 ∧
    t.lastSeen = (ws.getLast?.map (fun w => w.orbit)).getD r.lastSeen ∧
    recKey t = recKey r ∧ t.ext.isSome = r.ext.isSome ∧
    ((∀ w ∈ ws, w.user = none) → t.user = r.user) ∧
    ((∀ w ∈ ws, w.ext = false) → t.ext = r.ext)) ∧
  (∀ (w : WriteBack) (r : FlowRec) (e : FlowExt), r.ext = some e → w.ext = true →
    (applyWb w r).ext = some { e with
      minLen := if e.minLen = 0 then w.len else min e.minLen w.len
      maxLen := max e.maxLen w.len
      tcpOr := e.tcpOr ||| w.tcp
      dscp := w.dscp })

/-- Whether a sub-box is closed to a pair's next cell. -/
def Sys2Proof.Machine.boxClosed (lost : List Nat) (rs : List Resv) (i j c : Nat) : Prop :=
  c ∈ lost ∨ ∃ r ∈ rs, r.c = c ∧ (r.i = i ∨ r.j = j)

/-- Placement (R166): counts met, no place given twice (R159), first fit. -/
def Obligations.PlacementIsSound : Prop :=
  (∀ (lost : List Nat) (cs : List ResvCount) (rs : List Resv), placeBlock lost cs = some rs →
    rs.Pairwise (fun a b => a.c = b.c → a.i ≠ b.i ∧ a.j ≠ b.j) ∧
    (∀ r ∈ rs, r.c < 96 ∧ r.c ∉ lost) ∧
    (∀ i j, (rs.filter (fun r => r.i == i && r.j == j)).length =
      ((cs.filter (fun c => c.i == i && c.j == j)).map (fun c => c.n)).sum) ∧
    (∀ (a b : List Resv) (r : Resv), rs = a ++ r :: b → ∀ c < r.c, boxClosed lost a r.i r.j c)) ∧
  (∀ (lost : List Nat) (cs : List ResvCount), placeBlock lost cs = none →
    ∃ (done rest : List ResvCount) (x : ResvCount) (n : Nat) (rs : List Resv), cs = done ++ x :: rest ∧ n < x.n ∧
      placeBlock lost (done ++ [{ x with n := n }]) = some rs ∧ ∀ c < 96, boxClosed lost rs x.i x.j c)

/-- The state in which a block's first cycle computes the next block's grants: FULL is reported, the last grants are in force. -/
def Sys2Proof.Machine.matchState (s : State) : State :=
  { reportFull s with fab := { (reportFull s).fab with grants := (reportFull s).fab.next } }

/-- No two cells take one place of the next block: R159, R169, R172, R174, R175, R182. -/
def Obligations.GrantsNeverCollide : Prop :=
  (∀ s : State,
    (computeGrants s (reports s)).grants.Pairwise (fun a b => a.c = b.c → a.i ≠ b.i ∧ ∀ j ∈ a.dests, j ∉ b.dests) ∧
    (∀ g ∈ (computeGrants s (reports s)).grants,
      g.c < 96 ∧ g.i < 32 ∧ g.i ∉ s.fab.halted ∧ g.c / 3 ∉ s.fab.halted ∧ g.dests ≠ [] ∧
      (∀ j ∈ g.dests, j < 32 ∧ j ∉ s.fab.halted ∧ j ∉ s.fab.full) ∧
      (g.mcast = false → g.dests.length = 1) ∧
      ∀ r ∈ nextResv s, r.c = g.c → r.i ≠ g.i ∧ r.j ∉ g.dests)) ∧
  (∀ s : State,
    (blockEffects s).fab.grants = s.fab.next ∧
    (blockEffects s).fab.next = (computeGrants (matchState s) (reports (matchState s))).grants)

/-- Data memory (Table 14-1, R6). -/
def Obligations.AgentMemoryHoldsWhatIsStored : Prop :=
  Memory.wf AgentSt.init.mem = true ∧
  ∀ (m : List Host.Cell) (a : Nat) (v v' : W64), Memory.wf m = true →
    Memory.wf (memWrite m a v) = true ∧
    memRead (memWrite m a v) a = v ∧
    (∀ b, b ∉ wordAddrs a → cellGet (memWrite m a v) b = cellGet m b) ∧
    (∀ i, i < 8 → cellGet (memWrite m a v) ((a + i) % 262144) = v.extractLsb' (8 * i) 8) ∧
    memWrite (memWrite m a v) a v' = memWrite m a v'

/-- The ring of a world's host commands. -/
def Sys2Proof.ringOfWorld : World → Ring
  | .secure => .secure
  | .nonSecure => .nonSecure

/-- The protocol's own commands and happenings complete (Table 13-8, R269, R279, R280, R285). -/
def Obligations.ProtocolRowsComplete : Prop :=
  (∀ h, Completes (.moduleInfo h) h (fun _ => { code := 0x0101, reads := true }) (fun _ => True)
    (fun s => identityRec s s.fresh) drawn) ∧
  (∀ h data, Completes (.qcpEcho h data) h (fun _ => { code := 0x0102, reads := true }) (fun _ => data.length ≤ 4064)
    (fun _ => [bytesFld "DATA" data]) id) ∧
  (∀ h seq tag e, Completes (.qcpCancel h seq tag) h (fun _ => { code := 0x0103, reads := true })
    (fun s => s.qcp.exec.find? (fun e => e.hdr.ring == h.ring && e.hdr.seq == seq && e.hdr.tag == tag &&
        !(e.hdr == h && e.opcode == 0x0103)) = some e ∧ e.st = .fetched)
    (fun _ => []) (fun s => finish e.hdr e.opcode .cancelled none [] s)) ∧
  (∀ h port world channel queue ps c, Completes (.qcpInbandSet h port world channel queue true) h
    (fun _ => { code := 0x0104, world := .secure })
    (fun s => portOf s port = some ps ∧ ps.pol.rxValidate = .strict ∧ ps.pol.txProtect = .confidential ∧ 8250 ≤ ps.maxLen ∧
      tfind s.sec.chans channel = some c ∧ c.port = port ∧ c.tx = false ∧ 4 ≤ queue ∧ queue ≤ 15)
    (fun _ => []) (fun s => { s with qcp := { s.qcp with inband := some ⟨port, world, channel, queue⟩ } })) ∧
  (∀ h port world channel queue b, Completes (.qcpInbandSet h port world channel queue false) h
    (fun _ => { code := 0x0104, world := .secure }) (fun s => s.qcp.inband = some b ∧ b.port = port)
    (fun _ => []) (fun s => { s with qcp := { s.qcp with inband := none } })) ∧
  (∀ h clear w, Completes (.qcpStats h clear) h (fun _ => { code := 0x0105, reads := true })
    (fun s => ringWorld s h.ring = some w)
    (fun s => [fld "COMMANDS" (ctr s .cmdsFetched (worldIx w) 0), fld "QCP_TIMEOUTS" (ctr s .qcpTimeouts (worldIx w) 0),
      fld "QCP_REPLY_STALL" (ctr s .qcpReplyStall (worldIx w) 0), fld "EXEC_NOW" (inExec s h.ring),
      fld "EXEC_MAX" (ctr s .execMax (worldIx w) 0), fld "TRAP_RING_DROP" (ctr s .trapRingDrop 0 0),
      fld "INBAND_REFUSED" (ctr s .inbandRefused 0 0), fld "INBAND_OVERFLOW" (ctr s .inbandOverflow 0 0)])
    (fun s => if clear then clearStats (worldIx w) s else s)) ∧
  (∀ w slot c, c = rawOf (ringOfWorld w) slot → Acts (.commandFetch ⟨w, slot⟩)
    (fun s => mayFetch s w = true ∧ firstSlotBad c (ringSize (ringOf s w .command)) = false ∧
      headerCheck c (some (ringSize (ringOf s w .command))) = none ∧ slotsOf c.length ≤ ringHeld (ringOf s w .command))
    (fun s => fetchCmd c.hdr c.opcode none (updRing w .command (advanceCons (slotsOf c.length)) s))) ∧
  (∀ w slot c st d, c = rawOf (ringOfWorld w) slot → Acts (.commandFetch ⟨w, slot⟩)
    (fun s => mayFetch s w = true ∧ firstSlotBad c (ringSize (ringOf s w .command)) = false ∧
      headerCheck c (some (ringSize (ringOf s w .command))) = some (st, d) ∧ slotsOf c.length ≤ ringHeld (ringOf s w .command))
    (fun s => answer c.hdr c.opcode st d []
      (fetchCmd c.hdr c.opcode none (updRing w .command (advanceCons (slotsOf c.length)) s)))) ∧
  (∀ ring seq tag e, Acts (.commandTimeout ring seq tag)
    (fun s => s.qcp.exec.find? (fun e => e.hdr.ring == ring && e.hdr.seq == seq && e.hdr.tag == tag && timedOut s e) = some e)
    (deferWrite (.timeout ring seq tag))) ∧
  (∀ ring seq tag e s,
    s.qcp.exec.find? (fun e => e.hdr.ring == ring && e.hdr.seq == seq && e.hdr.tag == tag && timedOut s e) = some e →
    runLateOne s (.timeout ring seq tag) = finish e.hdr e.opcode .timeout none []
      (bump .qcpTimeouts (((ringWorld s ring).map worldIx).getD 0) 0 (callOff e.hdr s))) ∧
  (∀ w r rest, Acts (.replyWrite (ringOfWorld w))
    (fun s => tget s.qcp.waiting (ringOfWorld w) [] = r :: rest ∧
      slotsOf (replyBytes r.detail r.results) ≤ ringRoom (ringOf s w .reply))
    (fun s => raise (match w with
        | .secure => 1473
        | .nonSecure => 1472)
      (noteWritten (ringOfWorld w) ((ringOf s w .reply).lap % 2 == 0) r rest
        (updRing w .reply (advanceProd (slotsOf (replyBytes r.detail r.results))) s)))) ∧
  (∀ f b, Acts (.inbandCommand f)
    (fun s => s.qcp.inband = some b ∧ f.port = b.port ∧ ingressOpen s = true ∧ f.channel = some b.channel ∧
      f.checksOk = true ∧ inbandHeaderOk f = true ∧ inExec s .inband < 64 ∧
      headerCheck (inbandCmd f) none = none ∧ (inbandCmd f).indirect = false)
    (fun s => fetchCmd (inbandCmd f).hdr (inbandCmd f).opcode (some (beAt f.payload 4 4, f.src)) s))

/-- Mode changes and their commands complete (Tables 17-2, 17-3, 17-9; R330, R338 to R344). -/
def Obligations.ModeRowsComplete : Prop :=
  (∀ h, Completes (.modeStatus h) h (fun _ => { code := 0x0110, reads := true }) (fun _ => True)
    (fun s => ⟨"MODE_STATUS", 4, [withUndefined (modeWord (drawn s)) modeUndef s.fresh]⟩ ::
      [fld "MODE_DISCARD" (ctr s .drainModeDiscard 0 0), fld "DRAIN_DISCARD" (ctr s .drainDiscard 0 0)])
    drawn) ∧
  (∀ h first count ds, Completes (.tabletStatus h first count) h (fun _ => { code := 0x0112, reads := true })
    (fun _ => domsFrom first count = some ds)
    (fun s => ds.map (fun d => flds "HOLDERS" ((s.mode.tablets.filter (fun t => t.dom == d)).flatMap
      (fun t => [actCode t.act, t.source, t.opcode, t.seq, t.tag])))) id) ∧
  (∀ h ms s w, starts { code := 0x0111, world := .secure, modeOk := s.mode.mode == .boot,
                        lifeOk := lifePermits s.world.lifecycle .calibrate } h w s = true →
    (atFetch { code := 0x0111 } h s).mode.zeroed = true →
    exec (.modeSet h .calibrate ms) s = .next (replied h 0x0111 .pending none []
      (raise 1488 { atFetch { code := 0x0111 } h s with
        world := { (atFetch { code := 0x0111 } h s).world with locked := true }
        mode := { (atFetch { code := 0x0111 } h s).mode with mode := .calibrate, calib := some h } }) s)) ∧
  (∀ h ms s w, starts { code := 0x0111, world := .secure, modeOk := s.mode.mode == .calibrate,
                        lifeOk := lifePermits s.world.lifecycle .service } h w s = true →
    (atFetch { code := 0x0111 } h s).mode.mode = .calibrate → (atFetch { code := 0x0111 } h s).mode.calib = none →
    (atFetch { code := 0x0111 } h s).tt.active.isSome = true →
    replyFits (atFetch { code := 0x0111 } h s) h.ring none [fld "ORBIT" (nextOrbit (atFetch { code := 0x0111 } h s))] = true →
    exec (.modeSet h .service ms) s = .next (replied h 0x0111 .ok none
      [fld "ORBIT" (nextOrbit (atFetch { code := 0x0111 } h s))]
      { atFetch { code := 0x0111 } h s with
        mode := { (atFetch { code := 0x0111 } h s).mode with service := some h } } s)) ∧
  (∀ h ms s w, starts { code := 0x0111, world := .secure, modeOk := reachable s .drain,
                        lifeOk := lifePermits s.world.lifecycle .drain } h w s = true →
    ((atFetch { code := 0x0111 } h s).mode.mode = .boot → (atFetch { code := 0x0111 } h s).mode.zeroed = true) →
    ms ≤ 60000 →
    exec (.modeSet h .drain ms) s = .next (keeping s (darkReply
      (answer h 0x0111 .pending none [] (enterDrain h ms (atFetch { code := 0x0111 } h s)))))) ∧
  (∀ h ms s w, starts { code := 0x0111, world := .secure, modeOk := canHalt s,
                        lifeOk := lifePermits s.world.lifecycle .halt } h w s = true →
    ((atFetch { code := 0x0111 } h s).mode.mode = .boot → (atFetch { code := 0x0111 } h s).mode.zeroed = true) →
    replyFits (atFetch { code := 0x0111 } h s) h.ring none [fld "ORBIT" (atFetch { code := 0x0111 } h s).time.orbit] = true →
    exec (.modeSet h .halt ms) s = .next (keeping s (darkReply (answer h 0x0111 .ok none
      [fld "ORBIT" (atFetch { code := 0x0111 } h s).time.orbit]
      (enterHalt { atFetch { code := 0x0111 } h s with
        world := { (atFetch { code := 0x0111 } h s).world with locked := true } }))))) ∧
  (∀ h, Completes (.moduleReset h) h (fun _ => { code := 0x0113, world := .secure }) (fun _ => True) (fun _ => [])
    (fun s => { s with mode := { s.mode with resetReq := true } })) ∧
  (∀ failed h, Acts (.calibrationDone failed) (fun s => s.mode.calib = some h)
    (fun s => finish h 0x0111 .ok none [flds "FAILED" (failed.filter (fun l => (mapLanes s).contains l))]
      { calibrateLanes (failed.filter (fun l => (mapLanes s).contains l)) s with
        mode := { (calibrateLanes (failed.filter (fun l => (mapLanes s).contains l)) s).mode with calib := none } })) ∧
  (Acts .drainEmptying (fun s => s.mode.mode = .drain ∧ s.mode.phase = .hold ∧ s.mode.holdUntil ≤ orbitStart s)
    (fun s => cancelChanges { s with mode := { s.mode with
      phase := .emptying, emptyAt := s.time.hwCount, emptyMax := inflightOrbits (boundHw s) * 6250, emptySeen := false } })) ∧
  (Acts .drainDark (fun s => s.mode.mode = .drain ∧ s.mode.phase = .emptying ∧
      (s.mode.emptySeen = true ∨ s.mode.emptyAt + s.mode.emptyMax ≤ s.time.hwCount)) (fun s => darkReply (goDark s))) ∧
  (Acts .drainWipeDone (fun s => s.mode.mode = .drain ∧ s.mode.drain = none ∧ s.mode.phase = .wipe)
    (fun s => { zeroKeys (wipeStores s) with
      mode := { (zeroKeys (wipeStores s)).mode with phase := .powerOff }
      mmc := { (zeroKeys (wipeStores s)).mmc with pwrGood := false } })) ∧
  (Acts .drainWipeDone (fun s => s.mode.mode = .drain ∧ s.mode.drain = none ∧ s.mode.phase = .dark)
    (fun s => { zeroKeys (wipeStores (commitSummary s)) with
      mode := { (zeroKeys (wipeStores (commitSummary s))).mode with phase := .powerOff }
      mmc := { (zeroKeys (wipeStores (commitSummary s))).mmc with pwrGood := false } })) ∧
  (Acts .powerOffDone (fun s => s.mode.phase = .powerOff)
    (fun s => { enterMode .standby (restart .standby s) with mmc := { (enterMode .standby (restart .standby s)).mmc with
      clear := true, needFall := true, pwrGood := false, holdUp := false } })) ∧
  (∀ k, Acts (.sliceHalt k) (fun s => k < 32 ∧ sliceHalted s k = false ∧ s.mode.mode ≠ .standby ∧ s.mode.mode ≠ .sanitize)
    (fun s => ((loseResource (resCode 1 k) (fabricHalt k s)).ports.ports.filter (fun e => e.1 / 32 == k)).foldl
      (fun s e => downPort e.1 .sliceHalt s) (loseResource (resCode 1 k) (fabricHalt k s)))) ∧
  (Acts .moduleFaultHalt (fun s => canHalt s = true) enterHalt) ∧
  (Acts (.sanitizeDone true) (fun s => s.mode.mode = .sanitize ∧ s.mode.phase ≠ .powerOff ∧
      s.world.lifecycle ≠ .decommissioned ∧ s.mmc.resetLow = false) enterBoot) ∧
  (Acts (.sanitizeDone true) (fun s => s.mode.mode = .sanitize ∧ s.mode.phase ≠ .powerOff ∧
      s.world.lifecycle ≠ .decommissioned ∧ s.mmc.resetLow = true)
    (fun s => { s with mode := { s.mode with resetHeld := true } })) ∧
  (Acts (.sanitizeDone true) (fun s => s.mode.mode = .sanitize ∧ s.mode.phase ≠ .powerOff ∧ s.world.lifecycle = .decommissioned)
    (fun s => { s with mode := { s.mode with phase := .powerOff }, mmc := { s.mmc with pwrGood := false } })) ∧
  (Acts (.sanitizeDone false) (fun s => s.mode.mode = .sanitize ∧ s.mode.phase ≠ .powerOff)
    (fun s => { s with mmc := { s.mmc with sanFault := true } })) ∧
  (∀ failed, Acts (.hbmZeroingDone failed) (fun s => s.mode.zeroed = false ∧ s.mode.mode ≠ .standby)
    (fun s => failed.foldl (fun s c => comeUpFrozen c s) { s with mode := { s.mode with zeroed := true } }))

/-- The rear connector's happenings complete (chapter 19, R331, R338). -/
def Obligations.PowerRowsComplete : Prop :=
  (Acts .stbyContact (fun s => s.mmc.running = false) (fun s => { s with mmc := { s.mmc with
    running := true, ready := false, clear := false, latched := 0, softStart := false, needFall := false, address := none } })) ∧
  (Acts .mmcReady (fun s => s.mmc.running = true ∧ s.mmc.ready = false)
    (fun s => tryStart { s with mmc := { s.mmc with ready := true } })) ∧
  (Acts .moduleSeated (fun s => s.mmc.seated = false)
    (fun s => tryStart (logAdd .use "INSERTION" none [] { s with mmc := { s.mmc with seated := true } }))) ∧
  (Acts .pwrEnRise (fun s => ∃ t, s.mmc.lowAt = some t ∧ t + 160000000 ≤ s.time.now) (fun s => tryStart { s with mmc := { s.mmc with
    pwrEn := true, coolBad := false, needFall := false, lowAt := none } })) ∧
  (Acts .pwrEnRise (fun s => ∀ t, s.mmc.lowAt = some t → s.time.now < t + 160000000) (fun s => tryStart { s with mmc := { s.mmc with
    pwrEn := true, coolBad := false, lowAt := none } })) ∧
  (Acts .pwrGood (fun s => s.mmc.softStart = true) (fun s => enterSanitize 0
    (logSum .use "POWER_CYCLES" 1 { s with mmc := { s.mmc with softStart := false, pwrGood := true } }))) ∧
  (Acts .softStartFail (fun s => s.mmc.softStart = true) (fun s => { s with mmc := { s.mmc with
    softStart := false, latched := s.mmc.latched ||| 0x01, needFall := true } })) ∧
  (Acts .pwrEnFall (fun _ => True) (fun s => surprise { s with mmc := { s.mmc with
    pwrEn := false, softStart := false, coolBad := false, lowAt := if s.mmc.pwrEn then some s.time.now else s.mmc.lowAt } })) ∧
  (Acts .modReset (fun s => s.mode.mode ≠ .standby ∧ s.mmc.resetLow = false)
    (fun s => enterSanitize 1 { s with mmc := { s.mmc with resetLow := true } })) ∧
  (Acts .modReset (fun s => s.mode.mode = .standby) (fun s => { s with mmc := { s.mmc with resetLow := true } })) ∧
  (Acts .modReset (fun s => s.mmc.resetLow = true) id) ∧
  (Acts .modResetLRise (fun s => s.mode.mode = .sanitize ∧ s.mode.resetHeld = true)
    (fun s => enterBoot { s with mmc := { s.mmc with resetLow := false } })) ∧
  (Acts .modResetLRise (fun s => ¬(s.mode.mode = .sanitize ∧ s.mode.resetHeld = true))
    (fun s => { s with mmc := { s.mmc with resetLow := false } })) ∧
  (∀ prsnt, Acts (.surpriseRemoval prsnt) (fun _ => True)
    (fun s => surprise (if prsnt then { s with mmc := { s.mmc with seated := false } } else s))) ∧
  (Acts .prsntLRise (fun _ => True) (fun s => surprise { s with mmc := { s.mmc with seated := false } })) ∧
  (Acts .inputLow (fun s => s.mmc.running = true) (fun s => logSum .environment "INPUT_LOW" 1
    { s with mmc := { s.mmc with latched := s.mmc.latched ||| 0x02 } })) ∧
  (Acts .powerFault (fun s => s.mmc.running = true)
    (fun s => surprise { s with mmc := { s.mmc with latched := s.mmc.latched ||| 0x01 } })) ∧
  (Acts .stbyLow (fun _ => True) surprise) ∧
  (Acts .standbyPowerRemoved (fun s => s.mode.mode = .standby) (fun s => { s with mmc := { s.mmc with
    running := false, ready := false, clear := false, softStart := false, address := none } })) ∧
  (Acts .ejectLatchOpen (fun _ => True) (fun s => { s with mmc := { s.mmc with eject := true } })) ∧
  (Acts .ejectLatchClose (fun _ => True) (fun s => { s with mmc := { s.mmc with eject := false } })) ∧
  (Acts .coolantWarn (fun s => s.mmc.running = true) (fun s => logSum .environment "COOLANT_WARN" 1
    { s with mmc := { s.mmc with latched := s.mmc.latched ||| 0x04 } })) ∧
  (Acts .coolantFault (fun s => s.mmc.running = true ∧ s.mode.mode = .standby ∧ s.mmc.pwrEn = true)
    (fun s => logSum .environment "COOLANT_FAULT" 1 { s with mmc := { s.mmc with
      softStart := false, coolBad := true, latched := s.mmc.latched ||| 0x08 } })) ∧
  (Acts .leak (fun s => s.mmc.running = true) (fun s => logSum .environment "LEAK" 1
    { s with mmc := { s.mmc with latched := s.mmc.latched ||| 0x10 } })) ∧
  (Acts .thermalWarn (fun s => s.mmc.running = true) (fun s => logSum .environment "THERMAL_WARN" 1
    { s with mmc := { s.mmc with latched := s.mmc.latched ||| 0x20 } })) ∧
  (Acts .thermalTrip (fun s => s.mmc.running = true)
    (fun s => surprise { s with mmc := { s.mmc with latched := s.mmc.latched ||| 0x40 } })) ∧
  (Acts .holdUpExhausted (fun s => s.mmc.holdUp = true) (fun s => { enterMode .standby (restart .standby s) with
    mmc := { (enterMode .standby (restart .standby s)).mmc with holdUp := false, pwrGood := false } })) ∧
  (Acts .mainPowerReturn (fun s => s.mmc.holdUp = true)
    (fun s => enterSanitize 3 { s with mmc := { s.mmc with holdUp := false } }))

/-- The management bus commands complete (Table 19-4, R369 to R371). -/
def Obligations.BusRowsComplete : Prop :=
  (Acts .mmcStatusRead (fun s => s.mmc.ready = true) (fun s => { drawn s with
    mmc := { s.mmc with output := s.mmc.output ++ [[0, withUndefined (mmcWord (drawn s)) mmcUndef s.fresh]] } })) ∧
  (∀ value, Acts (.mmcStatusWrite value) (fun s => s.mmc.ready = true) (fun s => { s with mmc := { s.mmc with
    latched := s.mmc.latched &&& ~~~ (value.extractLsb' 11 8), output := s.mmc.output ++ [[0]] } })) ∧
  (Acts .mmcIdentity (fun s => s.mmc.ready = true) (fun s => { s with mmc := { s.mmc with
    output := s.mmc.output ++ [0 :: (orderingCode ++ Config.serial.map (fun b => b.toNat) ++
      [0xB0, 0x00, lifeCode s.world.lifecycle])] } })) ∧
  (Acts .mmcSensors (fun s => s.mmc.ready = true) (fun s => { drawn s with
    mmc := { s.mmc with output := s.mmc.output ++ [0 :: (List.range 6).map (fun i => Config.sensor i s.fresh)] } })) ∧
  (∀ cls index r, Acts (.mmcLogRead cls index) (fun s => s.mmc.ready = true ∧ (logRecords s cls)[index]? = some r)
    (fun s => { s with mmc := { s.mmc with output := s.mmc.output ++ [0 :: (List.range 64).map (fun i => recWord r / 256 ^ i % 256)] } })) ∧
  (∀ slotB offset data, data.length ≤ 240 → Acts (.mmcRecoveryWrite slotB offset data)
    (fun s => s.mmc.ready = true ∧ s.mmc.noImage = true) (fun s => { s with mmc := { s.mmc with
      recovery := s.mmc.recovery ++ [(slotB, offset, data)], output := s.mmc.output ++ [[0]] } })) ∧
  (Acts .mmcRecoveryBoot (fun s => s.mmc.ready = true ∧ s.mmc.noImage = true)
    (fun s => busAnswer 0 [] (bootVerify { recoverSlot true (recoverSlot false s) with
      mmc := { (recoverSlot true (recoverSlot false s)).mmc with recovery := [] } }))) ∧
  (Acts .entdaa (fun s => s.mmc.ready = true) (fun s => { drawn s with
    mmc := { s.mmc with address := some (Config.undefinedRead s.fresh % 128) } }))

/-- The host-register rows complete (chapter 20, R366). -/
def Obligations.RegisterRowsComplete : Prop :=
  (∀ w, Acts (.timeLoRead w) (fun s => barOpen s = true) (fun s => { s with clock := { s.clock with
    latches := tset s.clock.latches w
      [s.time.tc % (65536 * 1000000000) + s.time.tc / (65536 * 1000000000) % 2 ^ 48 * 2 ^ 48,
        s.time.orbit, s.time.headway, s.time.now - s.time.hwStart] } })) ∧
  (∀ w tail, Acts (.commandDoorbell w tail) (fun s => barOpen s = true) (deferWrite (.doorbell w tail))) ∧
  (∀ w kind head, Acts (.ringHeadWrite w kind head) (fun s => barOpen s = true) (deferWrite (.ringHead w kind head))) ∧
  (∀ w kind, Acts (.ringEnable w kind) (fun s => barOpen s = true) (deferWrite (.ringEnable w kind))) ∧
  (∀ w kind, Acts (.ringDisable w kind) (fun s => barOpen s = true) (deferWrite (.ringDisable w kind))) ∧
  (∀ w kind base log2, Acts (.ringConfigWrite w kind base log2) (fun s => barOpen s = true)
    (deferWrite (.ringConfig w kind base log2))) ∧
  (∀ w slice head, Acts (.traceHeadWrite w slice head) (fun s => barOpen s = true ∧ slice < 32)
    (deferWrite (.traceHead w slice head))) ∧
  (∀ w, Acts (.barAccessErrRead w) (fun s => barOpen s = true) (fun s => clearCtr .barAccessErr (worldIx w) 0
    { s with evc := { s.evc with barRead := tset s.evc.barRead w (ctr s .barAccessErr (worldIx w) 0) } })) ∧
  (∀ w, Acts (.barAccessFault w) (fun s => barOpen s = true ∧ ctr s .barAccessErr (worldIx w) 0 < 2 ^ 32 - 1)
    (bump .barAccessErr (worldIx w) 0)) ∧
  (∀ w, Acts (.barAccessFault w) (fun s => barOpen s = true ∧ 2 ^ 32 - 1 ≤ ctr s .barAccessErr (worldIx w) 0) id) ∧
  (∀ w offset v, Acts (.registerWrite w offset v) (fun s => barOpen s = true) (deferWrite (.register w offset v))) ∧
  (Acts .perst (fun _ => True) (fun s => allRings.foldl (fun s r => ringDisable r.1 r.2 s)
    (bumpBy .pcieResetDiscard 0 0 ((tget s.qcp.waiting .secure []).length + (tget s.qcp.waiting .nonSecure []).length)
      { s with mmc := { s.mmc with perst := true }
               qcp := { s.qcp with waiting := tdel (tdel s.qcp.waiting .secure) .nonSecure } }))) ∧
  (Acts .perstRise (fun _ => True) (fun s => { s with mmc := { s.mmc with perst := false } }))

/-- What a register write of this cycle does at the cycle's end (R9, Tables 20-3 to 20-5): an index is taken where it is in range and not
past the other, else DB_ERR and BAR_ACCESS_ERR; a ring is enabled where its base and size are valid, else CFG_ERR; a ring that is not
IDLE keeps base and size. -/
def Obligations.DeferredWritesTakeEffect : Prop :=
  (∀ (s : State) (w : World) (tail : Nat), runLateOne s (.doorbell w tail) =
    if tail < 2 ^ (ringOf s w .command).log2 then updRing w .command (fun g => { g with prod := tail }) s
    else barError w (updRing w .command (fun g => { g with dbErr := true }) s)) ∧
  (∀ (s : State) (w : World) (kind : RingKind) (head : Nat), kind ≠ .command → hasRing w kind = true →
    runLateOne s (.ringHead w kind head) =
      if head < ringSize (ringOf s w kind) ∧
          (head + ringSize (ringOf s w kind) - (ringOf s w kind).cons % ringSize (ringOf s w kind)) % ringSize (ringOf s w kind)
            ≤ ringHeld (ringOf s w kind) then updRing w kind (fun g => { g with cons := head }) s
      else barError w (updRing w kind (fun g => { g with dbErr := true }) s)) ∧
  (∀ (s : State) (w : World) (kind : RingKind), hasRing w kind = true → (ringOf s w kind).enable = false →
    ringOf (runLateOne s (.ringEnable w kind)) w kind =
      if (ringOf s w kind).base % 4096 = 0 ∧ (ringOf s w kind).log2 ≤ 16 ∧ (if kind = .time then 8 else 6) ≤ (ringOf s w kind).log2
      then { ringOf s w kind with enable := true } else { ringOf s w kind with cfgErr := true }) ∧
  (∀ (s : State) (w : World) (kind : RingKind), (ringOf (runLateOne s (.ringDisable w kind)) w kind).enable = false ∧
    ((ringOf s w kind).enable = true → ringIdle (updRing w kind (fun g => { g with enable := false }) s) w kind = true →
      (ringOf (runLateOne s (.ringDisable w kind)) w kind).prod = 0 ∧ (ringOf (runLateOne s (.ringDisable w kind)) w kind).cons = 0)) ∧
  (∀ (s : State) (w : World) (kind : RingKind) (base log2 : Nat), hasRing w kind = true →
    (ringIdle (drawn s) w kind = true → base % 4096 = 0 → base < 2 ^ 64 → log2 < 32 →
      runLateOne s (.ringConfig w kind base log2) = updRing w kind (fun g => { g with base := base, log2 := log2 }) (drawn s)) ∧
    (ringIdle (drawn s) w kind = false →
      runLateOne s (.ringConfig w kind base log2) = updRing w kind (fun g => { g with cfgErr := true }) (drawn s))) ∧
  (∀ (s : State) (w : World) (slice head : Nat) (h : Hdr) (addr n : Nat), (agentOf s slice).stream = some (h, addr, n) →
    ringWorld s h.ring = some w → head < n →
    (head + n - (agentOf s slice).sHead) % n ≤ ((agentOf s slice).sTail + n - (agentOf s slice).sHead) % n →
    runLateOne s (.traceHead w slice head) = updAgent slice (fun a => { a with sHead := head }) s) ∧
  (∀ (s : State) (sp : Bool) (p : Nat) (rest : List Nat), tget s.evc.stk sp [] = p :: rest →
    runLateOne s (.evcEoi sp) = { s with evc := { s.evc with stk := tset s.evc.stk sp rest, line := s.evc.line && sp } }) ∧
  (∀ (s : State) (sp : Bool), tget s.evc.stk sp [] = [] →
    runLateOne s (.evcEoi sp) = { s with evc := { s.evc with eoiEmpty := insertNew sp s.evc.eoiEmpty } }) ∧
  (∀ (s : State) (sp : Bool) (n m : Nat) (v : W32), n < 64 →
    (m ∈ (runLateOne s (.evcPending sp n v)).evc.pend ↔
      if m / 32 = n ∧ mayWrite s sp m = true then v.getLsbD (m % 32) = true else m ∈ s.evc.pend)) ∧
  (∀ (s : State), runLateOne s .unmask =
    if s.evc.held then sendMsix { s with evc := { s.evc with masked := false } } else { s with evc := { s.evc with masked := false } })

/-- A cycle's register writes act in the order in which they came, and a source that occurs in the cycle is pending at its end whatever was
written (R9, R10). -/
def Obligations.TheSetOfAPendingBitWins : Prop :=
  (∀ (s : State) (a b : Late), (runLate { s with late := [a, b] }) = runLateOne (runLateOne { s with late := [] } a) b) ∧
  (∀ (s : State) (n : Nat), n ∈ s.evc.setNow → n ∈ (evcEnd s).evc.pend ∧ n ∉ (evcEnd s).evc.setNow) ∧
  (∀ (s : State) (n m : Nat), m ∈ (raise n s).evc.setNow ↔ m = n ∨ m ∈ s.evc.setNow) ∧
  (∀ (s : State) (n m : Nat), m ∈ (raise n s).evc.pend ↔ m ∈ s.evc.pend)

/-- The event controller's rows complete (R313 to R317, R387). -/
def Obligations.EventControllerRowsComplete : Prop :=
  (∀ sp n, Acts (.evcClaim sp)
    (fun s => (sp = true ∨ barOpen s = true) ∧ bestSrc (drawn s) (evcEligible (drawn s) sp) = some n ∧
      (tget s.evc.stk sp []).length < 16)
    (fun s => { drawn s with evc := { s.evc with
      stk := tset s.evc.stk sp (prioOf s n :: tget s.evc.stk sp [])
      pend := s.evc.pend.filter (fun m => m ≠ n)
      answer := tset s.evc.answer sp (withUndefined (n + prioOf s n * 2 ^ 16) claimUndef s.fresh) } })) ∧
  (∀ sp, Acts (.evcClaim sp)
    (fun s => (sp = true ∨ barOpen s = true) ∧ evcEligible (drawn s) sp = [])
    (fun s => { drawn s with evc := { s.evc with
      answer := tset s.evc.answer sp (withUndefined 0x7FF claimUndef s.fresh) } })) ∧
  (∀ sp n, Acts (.evcClaim sp)
    (fun s => (sp = true ∨ barOpen s = true) ∧ bestSrc (drawn s) (evcEligible (drawn s) sp) = some n ∧
      16 ≤ (tget s.evc.stk sp []).length)
    (fun s => { drawn s with evc := { s.evc with
      ovf := insertNew sp s.evc.ovf
      answer := tset s.evc.answer sp (withUndefined 0x7FF claimUndef s.fresh) } })) ∧
  (∀ sp, Acts (.evcEoi sp) (fun s => sp = true ∨ barOpen s = true) (deferWrite (.evcEoi sp))) ∧
  (∀ sp n v, Acts (.evcPendingWrite sp n v) (fun s => sp = true ∨ barOpen s = true) (deferWrite (.evcPending sp n v))) ∧
  (Acts .msixMessage (fun s => lineNow s = true ∧ s.evc.line = false ∧ s.evc.masked = false)
    (fun s => sendMsix { s with evc := { s.evc with line := true } })) ∧
  (Acts .msixMessage (fun s => lineNow s = true ∧ s.evc.line = false ∧ s.evc.masked = true)
    (fun s => { s with evc := { s.evc with line := true, held := true } })) ∧
  (Acts .msixVectorUnmask (fun _ => True) (deferWrite .unmask))

/-- Performance-counter and service-log commands complete (Table 18-5, R352 to R363). -/
def Obligations.CounterAndLogRowsComplete : Prop :=
  (∀ h block words zero, Completes (.pmuConfig h block words zero) h
    (fun s => { code := 0x0B01, world := .owned (if block < 46 then some (worldOf s .counterBlock block) else none) })
    (fun _ => block < 46 ∧ words.any (fun x => decide (x.counter > 7)) = false ∧ words.find? (fun x => !wordValid block x.word) = none)
    (fun _ => []) (fun s => { drawn s with pmu := { s.pmu with
      cfg := s.pmu.cfg ++ words.map (fun x => ((block, x.counter), ctlWritten x.word s.fresh, zero)) } })) ∧
  (∀ h blocks snapshot clear, Completes (.pmuRead h blocks snapshot clear) h
    (fun s => { code := 0x0B02, world := blocksRule s h (bitsOf blocks), reads := true })
    (fun s => (snapshot && (bitsOf blocks).any (fun b => (tfind s.pmu.snapAt b).isNone)) = false)
    (fun s => (bitsOf blocks).flatMap (fun b =>
      [fld "CYCLE" (if snapshot then tget s.pmu.snapAt b 0 else s.time.now - s.pmu.base),
       flds "PMC" ((List.range 8).map (fun i => tget (if snapshot then s.pmu.snap else s.pmu.pmc) (b, i) 0)),
       flds "CONTROL" ((List.range 8).map (fun i => (tget s.pmu.ctl (b, i) 0).toNat))]))
    (fun s => if clear then (bitsOf blocks).foldl (fun s b => pmuClear b s) s else s)) ∧
  (∀ h blocks, Begins (.pmuSnapshot h blocks) h (fun s => { code := 0x0B03, world := blocksRule s h (bitsOf blocks) })
    (fun _ => True) (fun s => { s with pmu := { s.pmu with wait := s.pmu.wait ++ [(h, bitsOf blocks)] } })) ∧
  (∀ h enable, Completes (.pmuUserSet h enable) h (fun _ => { code := 0x0B04, world := .secure }) (fun _ => True)
    (fun _ => []) (fun s => { s with pmu := { s.pmu with userNx := some enable } })) ∧
  (∀ h, Completes (.logStatus h) h (fun _ => { code := 0x0D01, reads := true }) (fun _ => True)
    (fun s => [fld "USED" (64 * (s.log.sums.length + s.log.recs.length)),
      fld "FREE" (2 ^ 29 - 64 * (s.log.sums.length + s.log.recs.length)),
      flds "RECORDS" (logClasses.map (fun c => (logRecords s c).length)), fld "OVERWRITTEN" (ctr s .logOverwritten 0 0),
      fld "LAST_COMMIT" s.log.commitAt, fld "WEAR" (Config.wear s.fresh)]) drawn) ∧
  (∀ h cls first count, Completes (.logRead h cls first count) h (fun _ => { code := 0x0D02, reads := true })
    (fun _ => 1 ≤ count ∧ count ≤ 64)
    (fun s => (((logRecords s cls).drop first).take count).map (fun r => ⟨r.kind, 64, [recWord r]⟩) ++
      [fld "NEXT_CURSOR" (first + (((logRecords s cls).drop first).take count).length)]) id) ∧
  (∀ h note w, Completes (.logAnnotate h note) h (fun _ => { code := 0x0D03 })
    (fun s => ringWorld s h.ring = some w ∧ noteBusy s w = false ∧ 1 ≤ note.length ∧ note.length ≤ 32)
    (fun s => [fld "RECORD" (logRecords s .notes).length])
    (fun s => { logAdd .notes "NOTE" (some w) (note.map (fun b => b.toNat)) s with
      log := { (logAdd .notes "NOTE" (some w) (note.map (fun b => b.toNat)) s).log with
        noteAt := tset (logAdd .notes "NOTE" (some w) (note.map (fun b => b.toNat)) s).log.noteAt w
          ((logAdd .notes "NOTE" (some w) (note.map (fun b => b.toNat)) s).time.now + 1) } })) ∧
  (Acts .logHourlyCommit (fun s => s.time.tc / 65536 / 3600000000000 ≠ s.log.commitAt / 65536 / 3600000000000) commitSummary)

/-- The network-time commands and happenings complete (chapter 11). -/
def Obligations.TimeRowsComplete : Prop :=
  (∀ h, Completes (.timeStatus h) h (fun _ => { code := 0x0801, reads := true }) (fun _ => True)
    (fun s => [fld "SOURCE" (srcRank s.clock.source), flag "HOLDOVER" (s.mode.mode == .holdover),
      fld "OFFSET" (offsetNow s), flag "ALIGN_INVALID" (!s.clock.alignValid),
      flds "PERSIST_8X" ((s.clock.persist.map (fun p => [if p < 0 then 1 else 0, p.natAbs])).getD []),
      flds "STEP_TARGET" ((s.clock.step.map (fun p => p.target)).toList),
      fld "JUMP_REFUSED" (ctr s .jumpRefused 0 0), fld "CAPTURE_OVF" (ctr s .captureOvf 0 0)]) id) ∧
  (∀ h, Completes (.timeRead h) h (fun _ => { code := 0x080C, reads := true }) (fun _ => True)
    (fun s => [⟨"COUNTER", 12, [tcWord s.time.tc]⟩, fld "ORBIT" s.time.orbit, fld "HEADWAY" s.time.headway]) id) ∧
  (∀ h srcs pa pb, Completes (.timeSrcSet h srcs pa pb) h (fun _ => { code := 0x0802, world := .secure })
    (fun s => (srcs.contains .synceA && (portOf s pa).isNone) = false ∧ (srcs.contains .synceB && (portOf s pb).isNone) = false)
    (fun _ => []) (fun s => { s with clock := { s.clock with
      enabled := srcs, portA := pa, portB := pb
      source := if s.mode.mode = .holdover then s.clock.source
        else (srcs.find? (fun x => !s.clock.unhealthy.contains x)).getD .internal } })) ∧
  (∀ h o, Completes (.timeSample h o) h (fun s => { code := 0x0803, world := .nonSecure, modeOk := s.mode.mode != .boot })
    (fun s => o.natAbs ≤ s.clock.jt) (fun _ => [flag "ACCEPTED" true]) (acceptSample o)) ∧
  (∀ h o, Completes (.timeSample h o) h (fun s => { code := 0x0803, world := .nonSecure, modeOk := s.mode.mode != .boot })
    (fun s => s.clock.jt < o.natAbs) (fun _ => [flag "ACCEPTED" false]) (refuseSample o)) ∧
  (∀ h jt, Completes (.timeJumpSet h jt) h (fun _ => { code := 0x0804, world := .secure })
    (fun _ => 50 * 65536 ≤ jt ∧ jt ≤ 1000000 * 65536) (fun _ => []) (fun s => { s with clock := { s.clock with jt := jt } })) ∧
  (∀ h delta target d n, Defers (.timeAcceptStep h delta target) h
    (fun s => { code := 0x0805, world := .secure,
                modeOk := [Mode.boot, .calibrate, .service, .holdover].contains s.mode.mode })
    (fun s => stepAsked s delta = some d ∧ (roundStep d).1 ≠ 0 ∧ targetAhead s target = some n ∧
      tabletConflict .ts [.timetable] s = none)
    (fun s => tabletTake .ts [.timetable] h 0x0805 { s with clock := { s.clock with
      step := some ⟨h, (roundStep d).1, (roundStep d).2, (s.time.orbit + n) % 2 ^ 32, false⟩ } })) ∧
  (∀ h x, Completes (.timeStepAbort h) h (fun _ => { code := 0x0806, world := .secure })
    (fun s => s.clock.step = some x ∧ x.irrevocable = false ∧ 80000 < cyclesToTarget s x.target)
    (fun _ => []) (fun s => finish x.hdr 0x0805 .cancelled none [] { s with clock := { s.clock with step := none } })) ∧
  (∀ h ms fr ar fi ai, Completes (.timeHoldoverSet h ms fr ar fi ai) h (fun _ => { code := 0x0807, world := .secure })
    (fun _ => 125 ≤ ms ∧ ms ≤ 16000) (fun _ => []) (fun s => { s with clock := { s.clock with
      lossCycles := ms * 1600000, fRef := fr, aRef := ar, fInt := fi, aInt := ai } })) ∧
  (∀ h pin fn, Completes (.timeIoSet h pin fn) h (fun s => { code := 0x0809, world := .owned (pinWorld s pin) })
    (fun s => pin < 4 ∧ tioOk s fn = true ∧ (pinNext s pin).holder = none) (fun _ => [])
    (fun s => { s with clock := { s.clock with
      pinsNx := tset s.clock.pinsNx pin { PinSt.init with fn := some fn, holder := some h } } })) ∧
  (∀ h pin fn g, Completes (.timeIoSet h pin fn) h (fun s => { code := 0x0809, world := .owned (pinWorld s pin) })
    (fun s => pin < 4 ∧ tioOk s fn = true ∧ (pinNext s pin).holder = some g ∧ g.ring = h.ring) (fun _ => [])
    (fun s => { s with clock := { s.clock with
      pinsNx := tset s.clock.pinsNx pin { PinSt.init with fn := some fn, holder := some g } } })) ∧
  (∀ h pin g, Completes (.timeIoRelease h pin) h (fun s => { code := 0x080A, world := .owned (pinWorld s pin) })
    (fun s => pin < 4 ∧ (pinNext s pin).holder = some g ∧ g.ring = h.ring) (fun _ => [])
    (fun s => { s with clock := { s.clock with pinsNx := tset s.clock.pinsNx pin PinSt.init } })) ∧
  (∀ s pin x, (s.clock.pinsNx.map (fun e => e.1)).Nodup → tfind s.clock.pinsNx pin = some x → pinOf (pinsEnd s) pin = x) ∧
  (∀ h pin, Completes (.timeIoRead h pin) h (fun s => { code := 0x080B, world := .owned (pinWorld s pin), reads := true })
    (fun s => pin ≤ 4 ∧ (captures s pin true || captures s pin false) = true)
    (fun s => [⟨"CAPTURES", 12, (pinOf s pin).captures.map tcWord⟩]) (updPin pin (fun p => { p with captures := [] }))) ∧
  (∀ src ok, Acts (.timeSrcChange src ok) (fun _ => True) (setHealth src ok)) ∧
  (Acts .refInUnhealthy (fun _ => True) (setHealth .refIn false)) ∧
  (Acts .refInHealthy (fun _ => True) (setHealth .refIn true)) ∧
  (Acts .holdoverEntry (fun s => holdoverDue s = true) (fun s => enterMode .holdover { rebase s with clock :=
    { (rebase s).clock with source := holdoverSource (rebase s), consec := 0 } })) ∧
  (∀ x, Acts .timeStepIrrevocable (fun s => s.clock.step = some x ∧ cyclesToTarget s x.target ≤ 80000)
    (fun s => { s with clock := { s.clock with step := some { x with irrevocable := true } } })) ∧
  (∀ pin per ph w e, Acts (.timeIoPeriodicEdge pin)
    (fun s => pin ≤ 5 ∧ periodOf s pin = some (per, ph, w) ∧ 0 < per ∧ droveNow s pin = false ∧ e < 8 ∧
      periodDue s per ph = some e)
    (fun s => updPin pin (fun p => { p with
      edges := p.edges + 1, lastEdge := some (s.time.now * 8 + e), level := true, fallAt := some (s.time.now * 8 + e + w / 5120) }) s)) ∧
  (∀ s per ph e, 0 < per → ph < per → per % 5120 = 0 → s.time.tc % 5120 = 0 → ph % 5120 = 0 → periodDue s per ph = some e →
    (s.time.tc + e * 5120 + (per - ph)) % per = 0) ∧
  (∀ pin t w, Acts (.timeIoOneShot pin)
    (fun s => pin < 4 ∧ (pinOf s pin).fn = some (.oneShot t w) ∧ (pinOf s pin).fired = false ∧ t < s.time.tc + 40960 ∧
      (pinOf s pin).skipped = false)
    (fun s => updPin pin (fun p => { p with
      fired := true, skipped := false, edges := p.edges + 1, lastEdge := some (s.time.now * 8 + (t - s.time.tc) / 5120)
      level := true, fallAt := some (s.time.now * 8 + (t - s.time.tc) / 5120 + w / 5120) }) s)) ∧
  (∀ pin t w, Acts (.timeIoOneShot pin)
    (fun s => pin < 4 ∧ (pinOf s pin).fn = some (.oneShot t w) ∧ (pinOf s pin).fired = false ∧ t < s.time.tc + 40960 ∧
      (pinOf s pin).skipped = true)
    (fun s => raise 1461 (updPin pin (fun p => { p with
      fired := true, skipped := false, edges := p.edges + 1, lastEdge := some (s.time.now * 8 + (t - s.time.tc) / 5120)
      level := true, fallAt := some (s.time.now * 8 + (t - s.time.tc) / 5120 + w / 5120) }) s))) ∧
  (∀ pin rising eighth, Acts (.timeIoCapture pin rising eighth)
    (fun s => pin ≤ 4 ∧ eighth ≤ 7 ∧ captures s pin rising = true ∧
      (∀ l, (pinOf s pin).lastEdge = some l → l + 256 ≤ s.time.now * 8 + eighth) ∧ (pinOf s pin).captures.length < 16)
    (fun s => updPin pin (fun p => { p with lastEdge := some (s.time.now * 8 + eighth)
                                            captures := p.captures ++ [s.time.tc + eighth * 5120] }) s))

/-- The port, lane and cartridge rows complete (chapter 2). -/
def Obligations.PortRowsComplete : Prop :=
  (∀ h m, Completes (.portMapSet h m) h (fun _ => { code := 0x0201, world := .nonSecure })
    (fun s => mapFaults m = [] ∧ s.tt.active = none) (fun _ => [flag "STAGED" false]) (applyMap m)) ∧
  (∀ h m, Completes (.portMapSet h m) h (fun _ => { code := 0x0201, world := .nonSecure })
    (fun s => mapFaults m = [] ∧ s.tt.active ≠ none) (fun _ => [flag "STAGED" true])
    (fun s => { s with ports := { s.ports with staged := some m } })) ∧
  (∀ h, Completes (.portMapGet h false) h (fun _ => { code := 0x0202 }) (fun _ => True) (fun s => mapFlds s.ports.map) id) ∧
  (∀ h m, Completes (.portMapGet h true) h (fun _ => { code := 0x0202 }) (fun s => s.ports.staged = some m)
    (fun _ => mapFlds m) id) ∧
  (∀ h port halve ps, Completes (.portAdmin h port true halve) h (fun _ => { code := 0x0203, world := .nonSecure })
    (fun s => portOf s port = some ps) (fun _ => []) (setPort port { ps with admin := true, halve := halve })) ∧
  (∀ h port halve ps, Completes (.portAdmin h port false halve) h (fun _ => { code := 0x0203, world := .nonSecure })
    (fun s => portOf s port = some ps ∧ carries s port = none) (fun _ => [])
    (fun s => downPort port .portAdmin (setPort port { ps with admin := false, halve := halve } s))) ∧
  (∀ h first count, Completes (.portStatus h first count) h (fun _ => { code := 0x0204, reads := true })
    (fun _ => rangeOk first count 1024 = true)
    (fun s => (s.ports.ports.filter (fun e => decide (first ≤ e.1) && decide (e.1 < first + count))).flatMap (fun e =>
      [fld "PORT" e.1, flag "LINK" e.2.link, fld "CAUSE" (causeCode e.2.cause), fld "WIDTH" e.2.opWidth,
       fld "LANE" e.2.opLow, flag "HALVE" e.2.halve, flag "DEGRADE" e.2.degrade,
       flds "LOST" (lostLanes s e.1 e.2.width)])) id) ∧
  (∀ h port clear, Completes (.portCounters h port clear) h (fun _ => { code := 0x0205, reads := true })
    (fun s => (portOf s port).isNone = false)
    (fun s => [flds "COUNTERS" (portCtrs.map (fun c => ctr s c port 0)),
      flds "CODEWORDS" ((List.range 17).map (fun b => ctr s .codewordHist port b))])
    (fun s => if clear then (List.range 17).foldl (fun s b => clearCtr .codewordHist port b s)
        (portCtrs.foldl (fun s c => clearCtr c port 0 s) s) else s)) ∧
  (∀ h first count, Completes (.laneStatus h first count) h (fun _ => { code := 0x0206, reads := true })
    (fun _ => rangeOk first count 1024 = true)
    (fun s => (List.range count).flatMap (fun i => [fld "ADAPTATION" (Config.adaptation (first + i) s.fresh),
      fld "BER" (laneOf s (first + i)).ber, fld "SYMBOL_ERRORS" (ctr s .symErrors (first + i) 0),
      flds "BURSTS" ((List.range 7).map (fun b => ctr s .burstHist (first + i) b))])) drawn) ∧
  (∀ h lane p ps, lane < 1024 → Defers (.laneRecal h lane false) h (fun _ => { code := 0x0207, world := .nonSecure })
    (fun s => tabletConflict .lr [.engine (lane / 16)] s = none ∧ portOfLane s lane = some (p, ps) ∧ carries s p = none)
    (recalBegins h p lane)) ∧
  (∀ h lane p ps, lane < 1024 → Defers (.laneRecal h lane true) h (fun _ => { code := 0x0207, world := .nonSecure })
    (fun s => tabletConflict .lr [.engine (lane / 16)] s = none ∧ portOfLane s lane = some (p, ps))
    (fun s => loseResource (resCode 4 lane)
      (setLane lane { laneOf (recalBegins h p lane s) lane with lost := true } (recalBegins h p lane s)))) ∧
  (∀ h port a c win ps, 10000 ≤ c → c < a → a ≤ 200000000 → 1 ≤ win → win ≤ 1024 →
    Completes (.fecThreshSet h port a c win) h (fun _ => { code := 0x0208, world := .nonSecure })
    (fun s => portOf s port = some ps) (fun _ => []) (setPort port { ps with fecAct := a, fecClr := c, fecWin := win })) ∧
  (∀ h c, c < 16 → Defers (.cartHandover h c) h (fun _ => { code := 0x0209, world := .nonSecure })
    (fun s => tabletConflict .ch (pairDoms c) s = none ∧ cartBad s (partnerCart c) = false)
    (fun s => setCart c { cartOf s c with ramping := some (h, false, true) } (tabletTake .ch (pairDoms c) h 0x0209 s))) ∧
  (∀ h c, c < 16 → Defers (.cartRestore h c true) h (fun _ => { code := 0x020A, world := .nonSecure })
    (fun s => restoreBlock s c = none ∧ cartBad s (partnerCart c) = false ∧ (cartOf s c).present = true ∧
      ((cartOf s c).handed || (cartOf s c).held) = true)
    (fun s => if (cartOf s c).held then
        tabletTake .ch [.cartridge (partnerCart c)] h 0x020A (setCart c { cartOf s c with ramping := some (h, true, true) } s)
      else setCart c { cartOf s c with ramping := some (h, true, true) } s)) ∧
  (∀ h, Completes (.cartStatus h) h (fun _ => { code := 0x020B, reads := true }) (fun _ => True)
    (fun s => (List.range 16).flatMap (fun c => [flag "PRESENT" (cartOf s c).present, fld "SHARE" (cartOf s c).share,
      fld "BIAS" (Config.laser c 0 s.fresh), fld "TEMPERATURE" (Config.laser c 1 s.fresh), flag "FAULT" (cartOf s c).fault])) drawn) ∧
  (∀ p ps, Acts (.linkDown p) (fun s => portOf s p = some ps ∧ ps.link = true)
    (fun s => portDownFlush p (raise (32 * (p / 32)) (bump .linkDownCount p 0
      (updPort p (fun x => { x with link := false, cause := .outside }) (countCarried p s)))))) ∧
  (∀ p ps, Acts (.linkUp p) (fun s => portOf s p = some ps ∧ ps.link = false ∧ operable s p ps = true)
    (fun s => raise (32 * (p / 32)) (setPort p (startVerify { ps with link := true, upFrom := s.time.now }) s))) ∧
  (∀ l, Acts (.laneLost l) (fun s => l < 1024 ∧ (laneOf s l).lost = false)
    (fun s => loseLane l (raise (32 * (l / 32) + 2) s))) ∧
  (∀ l h, Acts (.laneRecalDone l) (fun s => s.ports.recals.find? (fun r => r.1 == l) = some (l, h))
    (fun s => finish h 0x0207 .ok none [] (recalEnds l s))) ∧
  (∀ c h x, Acts (.cartHandoverDone c) (fun s => (cartOf s c).ramping = some (h, false, x))
    (fun s => lightCheck c (answer h 0x0209 .ok none [] (handoverEnds c s)))) ∧
  (∀ c h x, Acts (.cartRestoreDone c true) (fun s => (cartOf s c).ramping = some (h, true, x))
    (fun s => lightBack c (answer h 0x020A .ok none [] (restoreEnds c s)))) ∧
  (∀ c h x, Acts (.cartRestoreDone c false) (fun s => (cartOf s c).ramping = some (h, true, x))
    (fun s => finish h 0x020A .hardwareFault (some (.entry c)) [] (setCart c { cartOf s c with ramping := none } s))) ∧
  (∀ c absent, Acts (.cartFault c absent) (fun s => c < 16 ∧ (cartOf s c).present = true ∧ (cartOf s c).handed = false ∧
      ((cartOf s c).fault = false ∨ absent = true))
    (fun s => lightCheck c (logSum .optics ("CART_FAULTS " ++ toString c) 1 (partnerTakesOver c absent s)))) ∧
  (∀ c, Acts (.cartInsert c) (fun s => c < 16 ∧ (cartOf s c).present = false)
    (fun s => setCart c { cartOf s c with present := true, fault := false } s)) ∧
  (∀ c, Acts (.cartRemove c) (fun s => c < 16 ∧ (cartOf s c).present = true ∧ (cartOf s c).handed = true)
    (fun s => setCart c { cartOf s c with present := false } s))

/-- The rule-version and array-maintenance rows complete (Tables 3-9, 3-10; R80 to R93). -/
def Obligations.VersionRowsComplete : Prop :=
  (∀ h, Completes (.ruleVersionOpen h) h (fun _ => { code := 0x0401, world := .nonSecure })
    (fun s => liveCount s < 4 ∧ s.ver.opened = none ∧ s.ver.discard = none)
    (fun s => [fld "V" ((s.ver.current + 1) % 256)])
    (fun s => queueSteps (allSlices.map (fun k => (k, planeSteps (.planeCopy (s.ver.current % 4) ((s.ver.current + 1) % 256 % 4)))))
      { s with ver := { s.ver with opened := some ((s.ver.current + 1) % 256) } })) ∧
  (∀ h v, Defers (.ruleVersionCommit h v) h (fun _ => { code := 0x0402, world := .nonSecure })
    (fun s => isOpen s v = true ∧ tabletConflict .rv (sliceDoms allSlices) s = none)
    (fun s => tabletTake .rv (sliceDoms allSlices) h 0x0402 { s with ver := { s.ver with
      commit := some (v, h), left := allSlices.map (fun k => (k, openSteps s k)) } })) ∧
  (∀ h v, Defers (.ruleVersionDiscard h v) h (fun _ => { code := 0x0403, world := .nonSecure })
    (fun s => (s.ver.opened == some v && s.ver.commit.isSome) = false ∧ isOpen s v = true)
    (fun s => queueSteps (allSlices.map (fun k => (k, planeSteps (.planeClearAll (v % 4)))))
      { s with ver := { s.ver with opened := none, discard := some (v, h) } })) ∧
  (∀ v h, Acts .ruleVersionDiscardDone (fun s => s.ver.discard = some (v, h) ∧ clearWaits s (v % 4) = false)
    (fun s => finish h 0x0403 .ok none [] { s with ver := { s.ver with discard := none } })) ∧
  (∀ h v r, Completes (.ruleVersionRetire h v) h (fun _ => { code := 0x0404, world := .nonSecure })
    (fun s => s.ver.retained.find? (fun r => r.v = v) = some r ∧
      inflightOrbits (max r.maxHw (boundHw s)) * 6250 ≤ s.time.hwCount - r.stopped ∧ mcastWaiting s v = 0)
    (fun _ => []) (fun s => queueSteps (allSlices.map (fun k => (k, planeSteps (.planeClearAll (v % 4)))))
      { s with ver := { s.ver with retained := s.ver.retained.filter (fun r => r.v ≠ v), clearing := s.ver.clearing ++ [v] } })) ∧
  (∀ h, Completes (.ruleVersionStatus h) h (fun _ => { code := 0x0405, reads := true }) (fun _ => True)
    (fun s => [fld "CURRENT" s.ver.current, fld "CURRENT_ORBIT" s.ver.switched, flds "OPEN" s.ver.opened.toList,
      flag "COMMITTING" s.ver.commit.isSome, flds "RETAINED" (s.ver.retained.map (fun r => r.v)),
      flds "SWITCH_ORBITS" (s.ver.retained.map (fun r => r.switched)), fld "INFLIGHT_ORBITS" (inflightOrbits (boundHw s))]) id) ∧
  (∀ k, Acts (.updateSlot k) (fun s => k < 32 ∧ slotReserved (lookupOnce s) = true ∧ slotsRun (lookupOnce s) k = 0)
    (fun s => reservedSlot k (hwPos (lookupOnce s)) (markSlot k (lookupOnce s)))) ∧
  (∀ k, Acts (.updateSlot k) (fun s => k < 32 ∧ slotReserved (lookupOnce s) = true ∧ slotsRun (lookupOnce s) k = 1)
    (fun s => stolenSlot k (hwPos (lookupOnce s)) (markSlot k (lookupOnce s)))) ∧
  (∀ k, Acts (.updateSlot k) (fun s => k < 32 ∧ slotReserved (lookupOnce s) = false ∧ slotsRun (lookupOnce s) k = 0)
    (fun s => stolenSlot k (hwPos (lookupOnce s)) (markSlot k (lookupOnce s)))) ∧
  (∀ k a row, k < 32 → Acts (.arrayRepaired k a row true) (fun _ => True)
    (fun s => raise (32 * k + 6) (bump .arrayRepaired k 0 (queueRepair k a row s)))) ∧
  (∀ k a row, k < 32 → Acts (.arrayRepaired k a row false) (fun _ => True)
    (fun s => bump .arrayCorrected k 0 (queueRepair k a row s)))

/-- A route change completes: where `when_` holds, every slice's plan is found and fits, and no tablet conflicts, the steps of
every slice's plan are queued and the results are those of the first slice's plan. -/
def Sys2Proof.Machine.RoutePlanQueued (c : Instr) (h : Hdr) (code : Nat) (when_ : State → Prop) (f : Nat → Plan → Option Plan)
    (results : Plan → List RField) : Prop :=
  ∀ k0 p0 l, Completes c h (fun _ => { code := code, world := .nonSecure })
    (fun s => when_ s ∧ planAll f s = some ((k0, p0) :: l) ∧
      stepsFit s (((k0, p0) :: l).map (fun e => (e.1, e.2.steps))) = true ∧
      tabletConflict .rv (sliceDoms allSlices) s = none)
    (fun _ => results p0) (queueSteps (((k0, p0) :: l).map (fun e => (e.1, e.2.steps))))

/-- The rule, array and route commands complete (Table 4-9). -/
def Obligations.RuleAndRouteRowsComplete : Prop :=
  (∀ h v slices part idx wide prio action value mask i, Completes (.ruleAdd h v slices part idx wide prio action value mask) h
    (fun s => { code := 0x0406, world := .owned (partWorld s part) })
    (fun s => ruleCheck s v slices part idx wide prio action 4 = .inr i ∧
      stepsFit s ((slicesOf slices).map (fun k => (k, ruleSteps v i wide prio action value mask))) = true ∧
      tabletConflict .rv (sliceDoms (slicesOf slices)) s = none)
    (fun _ => [fld "INDEX" i])
    (queueSteps ((slicesOf slices).map (fun k => (k, ruleSteps v i wide prio action value mask))))) ∧
  (∀ h v slices idx, slices ≠ 0 → idx < 16384 → Completes (.ruleRemove h v slices idx) h
    (fun s => { code := 0x0407, world := .owned ((partOfIdx s idx).map (fun p => p.2)) })
    (fun s => isOpen s v = true ∧ (slicesOf slices).any (fun k => (ruleAt s k v idx).isNone) = false ∧
      stepsFit s ((slicesOf slices).map (fun k => (k, ruleDrop v idx ((ruleAt s k v idx).getD false)))) = true ∧
      tabletConflict .rv (sliceDoms (slicesOf slices)) s = none)
    (fun _ => [])
    (fun s => queueSteps ((slicesOf slices).map (fun k => (k, ruleDrop v idx ((ruleAt s k v idx).getD false)))) s)) ∧
  (∀ h v slices part idx old wide prio action value mask i lo hi,
    Completes (.ruleChange h v slices part idx old wide prio action value mask) h
    (fun s => { code := 0x0408, world := .owned (partWorld s part) })
    (fun s => ruleCheck s v slices part idx wide prio action 5 = .inr i ∧ partRange s part = some (lo, hi) ∧ lo ≤ old ∧
      old < hi ∧ (slicesOf slices).any (fun k => (ruleAt s k v old).isNone) = false ∧
      stepsFit s ((slicesOf slices).map (fun k =>
        (k, ruleSteps v i wide prio action value mask ++ ruleDrop v old ((ruleAt s k v old).getD false)))) = true ∧
      tabletConflict .rv (sliceDoms (slicesOf slices)) s = none)
    (fun _ => [fld "INDEX" i])
    (fun s => queueSteps ((slicesOf slices).map (fun k =>
        (k, ruleSteps v i wide prio action value mask ++ ruleDrop v old ((ruleAt s k v old).getD false)))) s)) ∧
  (∀ h v slice part wide key, slice < 32 → Begins (.ruleSearch h v slice part wide key) h
    (fun s => { code := 0x0409, world := .owned (partWorld s part) })
    (fun s => isLive s v = true ∧ (partRange s part).isNone = false ∧ stepsFit s [(slice, [⟨.rule, 0, .search h true⟩])] = true)
    (fun s => queueOne slice [⟨.rule, 0, .search h true⟩] { s with arr := { s.arr with
      queries := s.arr.queries ++ [⟨h, slice, v, .rule part wide key, []⟩] } })) ∧
  (∀ h v slice part wide key sm cursor count, slice < 32 → 1 ≤ count → count ≤ 64 →
    Begins (.ruleIter h v slice part wide key sm cursor count) h
    (fun s => { code := 0x040A, world := .owned (partWorld s part) })
    (fun s => isLive s v = true ∧ (partRange s part).isNone = false ∧
      stepsFit s [(slice, List.replicate count ⟨.rule, 0, .search h true⟩)] = true)
    (fun s => queueOne slice (List.replicate count ⟨.rule, 0, .search h true⟩) { s with arr := { s.arr with
      queries := s.arr.queries ++ [⟨h, slice, v, .iter part wide key sm cursor count, []⟩] } })) ∧
  (∀ h slice idx val msk w pr a, slice < 32 → idx < 16384 → Completes (.ruleRead h slice idx) h
    (fun s => { code := 0x040B, world := .owned ((partOfIdx s idx).map (fun p => p.2)), reads := true })
    (fun s => (liveRow s slice .rule idx).body = .rule val msk w pr a)
    (fun s => [⟨"VALUE", 60, [val.toNat]⟩, ⟨"MASK", 60, [msk.toNat]⟩,
      fld "CONTROL" (ruleControl (liveRow s slice .rule idx) w pr a s.fresh)]) drawn) ∧
  (∀ h slice idx, slice < 32 → idx < 16384 → Completes (.ruleRead h slice idx) h
    (fun s => { code := 0x040B, world := .owned ((partOfIdx s idx).map (fun p => p.2)), reads := true })
    (fun s => (liveRow s slice .rule idx).body = .empty)
    (fun s => [⟨"VALUE", 60, [0]⟩, ⟨"MASK", 60, [0]⟩, fld "CONTROL" (ruleControl (liveRow s slice .rule idx) false 0 0 s.fresh)]) drawn) ∧
  (∀ h parts, Completes (.rulePartitionSet h parts) h
    (fun s => { code := 0x040C, world := .secure, modeOk := s.mode.mode == .boot && !s.world.locked })
    (fun _ => parts.isEmpty = false ∧ parts.length ≤ 16 ∧ partFault parts none 0 = none) (fun _ => [])
    (fun s => { s with arr := { s.arr with parts := parts } })) ∧
  (∀ h slice, slice < 32 → Completes (.arrayStatus h slice) h (fun _ => { code := 0x040D, reads := true }) (fun _ => True)
    (fun s => [fld "QUEUED" (stepsOf s slice).length, flds "STEPS" ((List.range 10).map (fun n => ctr s .stepsRun (slice * 16 + n) 0)),
      fld "UPDATE_STEAL" (ctr s .updateSteal slice 0), fld "ARRAY_CORRECTED" (ctr s .arrayCorrected slice 0),
      fld "ARRAY_REPAIRED" (ctr s .arrayRepaired slice 0), fld "UPDATE_BACKLOG_MAX" (ctr s .updateBacklogMax slice 0)]) id) ∧
  (∀ h slices, slices ≠ 0 → Completes (.arrayStealSet h slices true) h (fun _ => { code := 0x040E, world := .nonSecure })
    (fun _ => True) (fun _ => []) (fun s => { s with arr := { s.arr with
      noSteal := s.arr.noSteal.filter (fun k => !(slicesOf slices).contains k) } })) ∧
  (∀ h slices, slices ≠ 0 → Completes (.arrayStealSet h slices false) h (fun _ => { code := 0x040E, world := .nonSecure })
    (fun _ => True) (fun _ => []) (fun s => { s with arr := { s.arr with
      noSteal := (slicesOf slices).foldl (fun l k => insertNew k l) s.arr.noSteal } })) ∧
  (∀ h v table v6 pfx len result, table < 256 → prefixBad v6 pfx len = false →
    RoutePlanQueued (.routeAdd h v table v6 pfx len result) h 0x0501
      (fun s => isOpen s v = true ∧ findRoute s.arr.shadow 0 v table v6 pfx len = none)
      (fun k p => planAdd k v table v6 pfx len result p)
      (fun p => [fld "STEPS" p.steps.length, fld "MOVES" p.moves, fld "UNITS" p.units])) ∧
  (∀ h v table v6 pfx len, RoutePlanQueued (.routeRemove h v table v6 pfx len) h 0x0502
      (fun s => isOpen s v = true ∧ routePresent s v table v6 pfx len = true)
      (fun k p => planRemove k v table v6 pfx len p) (fun p => [fld "STEPS" p.steps.length])) ∧
  (∀ h v table v6 pfx len result, table < 256 → prefixBad v6 pfx len = false →
    RoutePlanQueued (.routeChange h v table v6 pfx len result) h 0x0503
      (fun s => isOpen s v = true ∧ routePresent s v table v6 pfx len = true)
      (fun k p => planChange k v table v6 pfx len result p)
      (fun p => [fld "STEPS" p.steps.length, fld "MOVES" p.moves, fld "UNITS" p.units])) ∧
  (∀ h v table v6 addr k rest, Begins (.routeLookup h v table v6 addr) h (fun _ => { code := 0x0504 })
    (fun s => isLive s v = true ∧ liveSlices s = k :: rest ∧
      stepsFit s [(k, [⟨.pivot, 0, .search h false⟩, ⟨.route, 0, .search h true⟩])] = true)
    (fun s => queueOne k [⟨.pivot, 0, .search h false⟩, ⟨.route, 0, .search h true⟩] { s with arr := { s.arr with
      queries := s.arr.queries ++ [⟨h, k, v, .route table v6 addr, []⟩] } })) ∧
  (∀ h, Completes (.routeStatus h) h (fun _ => { code := 0x0505, reads := true }) (fun _ => True)
    (fun s => [fld "UNITS" (unitsUsed s.arr.shadow 0), fld "PIVOTS" (pivotLens s.arr.shadow 0).length,
      fld "BUCKETS" (bucketsUsed s.arr.shadow 0), fld "FREE_ROWS" (65536 - (pivotLens s.arr.shadow 0).length),
      fld "H" s.arr.hole, fld "MEAN_UNITS" (meanUnits (unitsUsed s.arr.shadow 0) (bucketsUsed s.arr.shadow 0) s.fresh),
      fld "ROUTE_FULL_REFUSED" (ctr s .routeFullRefused 0 0)]) drawn) ∧
  (∀ h n, n = 16 ∨ n = 32 ∨ n = 64 ∨ n = 128 ∨ n = 256 → Completes (.routeHoleSet h n) h
    (fun _ => { code := 0x0506, world := .nonSecure }) (fun _ => True) (fun _ => [])
    (fun s => { s with arr := { s.arr with hole := n } }))

/-- An add to a forwarding table completes: in the open version, at the index named or the lowest free one, whose row is free on
every named slice, the steps that write the entry are queued on each of them. -/
def Sys2Proof.Machine.EntryQueued (c : Instr) (h : Hdr) (code v : Nat) (ks : List Nat) (a : Arr) (idx : Nat) (b : Body)
    (when_ : State → Prop) (res : Nat → List RField) : Prop :=
  ∀ i, idx = 0xFFFFFFFF ∨ idx < tableSize a → Completes c h (fun _ => { code := code, world := .nonSecure })
    (fun s => when_ s ∧ isOpen s v = true ∧ ks.isEmpty = false ∧ tableIndex s ks a idx = some i ∧
      ks.all (fun k => (shadowRow s k a i).free) = true ∧ stepsFit s (ks.map (fun k => (k, placeSteps a i b (planeBit v)))) = true ∧
      tabletConflict .rv (sliceDoms ks) s = none)
    (fun _ => res i) (queueSteps (ks.map (fun k => (k, placeSteps a i b (planeBit v)))))

/-- A removal completes: an entry present in the open version on every named slice has its plane bit cleared there (R409). -/
def Sys2Proof.Machine.EntryDropped (c : Instr) (h : Hdr) (code v : Nat) (ks : List Nat) (a : Arr) (idx : Nat) : Prop :=
  idx < tableSize a → Completes c h (fun _ => { code := code, world := .nonSecure })
    (fun s => isOpen s v = true ∧ ks.isEmpty = false ∧ ks.any (fun k => !(shadowRow s k a idx).inV v) = false ∧
      stepsFit s (ks.map (fun k => (k, [⟨a, idx, .planeClear (v % 4)⟩]))) = true ∧ tabletConflict .rv (sliceDoms ks) s = none)
    (fun _ => []) (queueSteps (ks.map (fun k => (k, [⟨a, idx, .planeClear (v % 4)⟩]))))

/-- The forwarding-table, multicast and fabric commands complete (Tables 6-12, 7-4). -/
def Obligations.TableRowsComplete : Prop :=
  (∀ h v slices idx data, EntryQueued (.actionAdd h v slices idx data) h 0x040F v (slicesOf slices) .action idx (.action data)
    (fun _ => True) (fun i => [fld "INDEX" i])) ∧
  (∀ h v slices idx nh, EntryQueued (.nexthopAdd h v slices idx nh) h 0x0411 v (slicesOf slices) .nextHop idx (.nextHop nh)
    (fun s => nextHopBad s v (slicesOf slices) nh = none) (fun i => [fld "INDEX" i])) ∧
  (∀ h v slices group ms, 1 ≤ ms.length → ms.length ≤ 256 →
    EntryQueued (.ecmpAdd h v slices group ms) h 0x0413 v (slicesOf slices) .ecmp group (.ecmp ms)
    (fun s => (slicesOf slices).all (fun k => decide (ecmpUsed s k + ms.length ≤ 262144)) = true) (fun i => [fld "GROUP" i])) ∧
  (∀ h v lag ports, lag < 256 → 1 ≤ ports.length → ports.length ≤ 64 →
    EntryQueued (.lagAdd h v lag ports) h 0x0415 v allSlices .lag lag (.lag ports)
    (fun s => ports.any (fun p => (portOf s p).isNone) = false) (fun _ => [])) ∧
  (∀ h v slices idx, EntryDropped (.actionRemove h v slices idx) h 0x0410 v (slicesOf slices) .action idx) ∧
  (∀ h v slices idx, EntryDropped (.nexthopRemove h v slices idx) h 0x0412 v (slicesOf slices) .nextHop idx) ∧
  (∀ h v slices group, EntryDropped (.ecmpRemove h v slices group) h 0x0414 v (slicesOf slices) .ecmp group) ∧
  (∀ h v lag, EntryDropped (.lagRemove h v lag) h 0x0416 v allSlices .lag lag) ∧
  (∀ h v group dests r, group < 65536 → dests.length ≤ 1024 → Completes (.mcastAdd h v group dests) h
    (fun _ => { code := 0x0418, world := .nonSecure })
    (fun s => isOpen s v = true ∧ dests.any (fun d => (portOf s d.1).isNone) = false ∧ mcastRow s.arr.shadow 0 v group = none ∧
      mcastFree s group = some r ∧ allSlices.any (fun k => decide (mcastUsed s k + (destsOn dests k).length > 262144)) = false ∧
      stepsFit s (mcastPlan v r dests (mcastIndex s)) = true ∧ tabletConflict .rv (sliceDoms allSlices) s = none)
    (fun s => [fld "LIST" (mcastIndex s)]) (fun s => queueSteps (mcastPlan v r dests (mcastIndex s)) s)) ∧
  (∀ h v group r e, Completes (.mcastRemove h v group) h (fun _ => { code := 0x0419, world := .nonSecure })
    (fun s => isOpen s v = true ∧ mcastRow s.arr.shadow 0 v group = some (r, e) ∧
      stepsFit s (allSlices.map (fun k => (k, [⟨.mcast, r, .planeClear (v % 4)⟩]))) = true ∧
      tabletConflict .rv (sliceDoms allSlices) s = none)
    (fun _ => []) (queueSteps (allSlices.map (fun k => (k, [⟨.mcast, r, .planeClear (v % 4)⟩]))))) ∧
  (∀ h slice clear, slice < 32 → Completes (.excCounters h slice clear) h (fun _ => { code := 0x0417, reads := true })
    (fun _ => True)
    (fun s => [flds "EXC" ((List.range 15).map (fun c => ctr s .exc slice (c + 1))),
      fld "TRAP_DISCARD" (ctr s .trapDiscard slice 0), fld "UCODE_CORRECTED" (ctr s .ucodeCorrected slice 0)])
    (fun s => if clear then clearCtr .ucodeCorrected slice 0 (clearCtr .trapDiscard slice 0
      (((List.range 15).map (fun c => c + 1)).foldl (fun s c => clearCtr .exc slice c s) s)) else s)) ∧
  (∀ h slice clear, slice < 32 → Completes (.fabricCounters h slice clear) h (fun _ => { code := 0x0B11, reads := true })
    (fun _ => True) (fun s => fabricFlds s slice)
    (fun s => if clear then fabricClear slice (clearCtr .voqDepthMax slice 0 s) else clearCtr .voqDepthMax slice 0 s)) ∧
  (∀ h slice block, slice < 32 → Completes (.fabricStatus h slice block) h (fun _ => { code := 0x0B12, reads := true })
    (fun s => s.tt.active.isSome = true ∧ block < 8 * s.tt.period) (fun s => statusFlds s slice block) id)

/-- A frame's arrival, decision and tail status act, and the front-end commands complete (chapters 3 and 6). -/
def Obligations.FrontEndRowsComplete : Prop :=
  (∀ f ps, Acts (.frameReceive f) (fun s => portOf s f.port = some ps ∧ ps.link = true ∧
      admitting (countFec f (countRx f ps s)) = true ∧ 64 ≤ f.len ∧ inbandFrame (countFec f (countRx f ps s)) f.port f.bytes = false)
    (fun s => frontEnd f ps (countFec f (countRx f ps s)))) ∧
  (∀ f ps, Acts (.frameReceive f) (fun s => portOf s f.port = some ps ∧ ps.link = true ∧
      admitting (countFec f (countRx f ps s)) = true ∧ 64 ≤ f.len ∧ inbandFrame (countFec f (countRx f ps s)) f.port f.bytes = true)
    (fun s => (rxTailCheck f.port ps.pol f.secTag f.icvOk
      (rxHeaderCheck f.port ps.pol false f.secTag (countFec f (countRx f ps s))).2).2)) ∧
  (∀ f ps, Acts (.frameReceive f) (fun s => portOf s f.port = some ps ∧ ps.link = true ∧
      admitting (countFec f (countRx f ps s)) = true ∧ f.len < 64)
    (fun s => countFec f (countRx f ps s))) ∧
  (∀ f ps, Acts (.frameReceive f) (fun s => portOf s f.port = some ps ∧ ps.link = true ∧
      admitting (countFec f (countRx f ps s)) = false ∧ (countFec f (countRx f ps s)).mode.mode ≠ .drain)
    (fun s => bump .modeDiscard f.port 0 (countFec f (countRx f ps s)))) ∧
  (∀ f ps, Acts (.frameReceive f) (fun s => portOf s f.port = some ps ∧ ps.link = true ∧
      admitting (countFec f (countRx f ps s)) = false ∧ (countFec f (countRx f ps s)).mode.mode = .drain)
    (fun s => bump .drainModeDiscard 0 0 (bump .modeDiscard f.port 0 (countFec f (countRx f ps s))))) ∧
  (∀ fid faults f, Acts (.forwardingDecision fid faults) (fun s => frameOf s fid = some f ∧ inLookup f = true ∧
      decisionDue s f = true) (fun s => decideNow faults fid (decideBefore fid s))) ∧
  (∀ fid faults f, Acts (.forwardingDecision fid faults) (fun s => frameOf s fid = some f ∧ inLookup f = true ∧
      decisionDue s f = false) (setFrame { f with act := { f.act with faults := (f.act.faults ++ faults).dedup } })) ∧
  (∀ fid faults f t, frameOf t fid = some f → decisionDue t f = true → sliceHalted t (f.port / 32) = true →
    decideNow faults fid t = dropUndecided f t) ∧
  (∀ fid faults f t, frameOf t fid = some f → decisionDue t f = true → sliceHalted t (f.port / 32) = false →
    decideNow faults fid t = decide_ { f with act := { f.act with causes := (f.act.causes ++ faults.map faultCause).dedup } } t) ∧
  (∀ s f, decisionDue s f = true ↔ inLookup f = true ∧
    s.time.now = f.ref + (if isHbmKind f.act.flKind = true then 356 else 36)) ∧
  (∀ fid corrected f, Acts (.hbmBucketReadReturn fid corrected) (fun s => frameOf s fid = some f ∧ inLookup f = true ∧
      f.act.reading = true ∧ s.time.now = f.ref + 352) (fun s => setFrame (deliver f corrected s).1 (deliver f corrected s).2)) ∧
  (∀ fid f, Acts (.frameTailStatus fid) (fun s => frameOf s fid = some f ∧ f.tailKnown = false ∧ f.orig = none ∧
      s.time.now = tailCycle s f) (tailSettled f)) ∧
  (∀ h port inner ps, Completes (.portParseSet h port inner) h (fun _ => { code := 0x020C, world := .nonSecure })
    (fun s => portOf s port = some ps) (fun _ => []) (setPort port { ps with innerNx := some inner })) ∧
  (∀ h port clear, Completes (.parseCounters h port clear) h (fun _ => { code := 0x0B10, reads := true })
    (fun s => (portOf s port).isSome = true) (fun s => [flds "COUNTERS" (parseCtrs.map (fun c => ctr s c port 0))])
    (fun s => if clear then parseCtrs.foldl (fun s c => clearCtr c port 0 s) s else s)) ∧
  (∀ h salt, Completes (.hashSaltSet h salt) h
    (fun s => { code := 0x0905, world := .secure, modeOk := s.mode.mode == .boot && !s.tt.committed }) (fun _ => True)
    (fun _ => []) (fun s => { s with world := { s.world with salt := some salt } })) ∧
  (∀ h block, block.length = 40 → Completes (.hashProbe h block) h (fun _ => { code := 0x0906, world := .secure })
    (fun _ => True) (fun s => [⟨"HASH", 4, [(hash32 (saltOf s) block).toNat]⟩]) id)

/-- The flow-record rows complete (chapter 5). -/
def Obligations.FlowRowsComplete : Prop :=
  (∀ slice, Acts (.learnRequestArrive slice) (fun _ => True) (learnArrives slice)) ∧
  (∀ slice key i p r t, Acts (.pairAnswer slice) (fun s => takeMsg slice isAnswer s = some (.answer key i p, t) ∧
      recAt t i = some r ∧ recKey r = key) (fun _ => pairAnswered i p r t)) ∧
  (∀ slice key i p t, Acts (.pairAnswer slice) (fun s => takeMsg slice isAnswer s = some (.answer key i p, t) ∧
      recAt t i = none) (fun _ => partnerAlone slice p t)) ∧
  (∀ slice key i p r t, Acts (.pairAnswer slice) (fun s => takeMsg slice isAnswer s = some (.answer key i p, t) ∧
      recAt t i = some r ∧ recKey r ≠ key) (fun _ => partnerAlone slice p t)) ∧
  (∀ slice key i asker akey r t, Acts (.pairAge slice) (fun s => takeMsg slice isAge s = some (.age key i asker akey, t) ∧
      recAt t i = some r ∧ recKey r = key ∧ idle t (withPending t i r) = true)
    (fun _ => dropIfKey (some .aged) asker akey (remove (some .aged) false none i t))) ∧
  (∀ slice key i asker akey r t, Acts (.pairAge slice) (fun s => takeMsg slice isAge s = some (.age key i asker akey, t) ∧
      recAt t i = some r ∧ recKey r = key ∧ idle t (withPending t i r) = false)
    (fun _ => sendMsg slice (idxSlice asker) (.live akey asker) t)) ∧
  (∀ slice key i t, Acts (.pairDelete slice) (fun s => takeMsg slice isDelete s = some (.delete key i, t))
    (fun _ => dropIfKey none i key t)) ∧
  (∀ slice, slice < 32 → Acts (.ageingSweep slice) (fun s => agentDown s slice = false ∧ sweepDue slice s = true)
    (sweepSlice slice)) ∧
  (∀ fid w, Acts (.hbmWriteBack fid) (fun s => s.flow.wbs.find? (fun w => w.fid = fid) = some w)
    (wbApplied w)) ∧
  (∀ port f, Acts (.flowFlushDone port)
    (fun s => s.flow.flushes.find? (fun f => f.port == port && f.left.isEmpty) = some f)
    (fun s => finish f.hdr 0x0603 .ok none [fld "REMOVED" f.removed] (flushEnds f s))) ∧
  (∀ h domain key i r, Completes (.flowSearch h domain key) h (fun _ => { code := 0x0601, world := .nonSecure })
    (fun s => (recsOf s (homeOf (hashOfKey s key))).find? (fun e => recKey e.2 == ⟨domain, key⟩ && standsOnDie s e.1) = some (i, r))
    (fun s => [idxFld i, recFld (withPending s i r) s.fresh]) drawn) ∧
  (∀ h domain key, Begins (.flowSearch h domain key) h (fun _ => { code := 0x0601, world := .nonSecure })
    (fun s => (recsOf s (homeOf (hashOfKey s key))).find? (fun e => recKey e.2 == ⟨domain, key⟩ && standsOnDie s e.1) = none ∧
      secureHas s (homeOf (hashOfKey s key)) ⟨domain, key⟩ = false ∧ (storedPlaces s (homeOf (hashOfKey s key))).any
        (fun p => p / 2 == bucketOf (hashOfKey s key) s.flow.b) = true)
    (fun s => walkWaits (.search h (homeOf (hashOfKey s key)) (bucketOf (hashOfKey s key) s.flow.b) ⟨domain, key⟩) s)) ∧
  (∀ h cursor value mask count found read next, 1 ≤ count → count ≤ 64 → Completes (.flowNext h cursor value mask count) h
    (fun _ => { code := 0x0602, world := .nonSecure })
    (fun s => (cursor = 0xFFFFFFFF ∨ idxOk s cursor = true) ∧ cursorSecure s cursor = false ∧
      walkOn s (fun _ => false) value mask (walkRest s cursor) count [] [] = (found, read, next, true))
    (fun s => (nextFlds found next s).1) (fun s => (nextFlds found next s).2)) ∧
  (∀ h cursor value mask count found read next, 1 ≤ count → count ≤ 64 → Begins (.flowNext h cursor value mask count) h
    (fun _ => { code := 0x0602, world := .nonSecure })
    (fun s => (cursor = 0xFFFFFFFF ∨ idxOk s cursor = true) ∧ cursorSecure s cursor = false ∧
      walkOn s (fun _ => false) value mask (walkRest s cursor) count [] [] = (found, read, next, false))
    (walkWaits (.next h next value mask count found))) ∧
  (∀ h port domains, Defers (.flowFlushPort h port domains) h (fun _ => { code := 0x0603, world := .nonSecure })
    (fun s => s.flow.flushes.any (fun f => f.port = port) = false ∧ (portOf s port).isSome = true ∧
      tabletConflict .ag agDoms s = none)
    (fun s => tabletTake .ag agDoms h 0x0603
      { s with flow := { s.flow with flushes := s.flow.flushes ++ [⟨h, port, domains, allSlices, allSlices, 0⟩] } })) ∧
  (∀ h r resident i, r.paired = false → r.pairPending = false → recOk r = true → Completes (.flowInsert h r resident) h
    (fun _ => { code := 0x0604, world := .nonSecure })
    (fun s => findRec s (homeOf (hashOfKey s r.key)) (recKey r) = none ∧
      (resident = true ∨ (chanOf s (bucketOf (hashOfKey s r.key) s.flow.b % 384)).st ≠ .frozen ∧
        (chanOf s (bucketOf (hashOfKey s r.key) s.flow.b % 384)).st ≠ .retraining) ∧
      placeFor s (homeOf (hashOfKey s r.key)) r resident = .inr i)
    (fun _ => [idxFld i]) (insertRec i r)) ∧
  (∀ h index domain key r, Completes (.flowDelete h index domain key) h (fun _ => { code := 0x0605, world := .nonSecure })
    (fun s => (idxOnDie index = true → rowOpen s (idxSlice index) (idxPlace index) = true) ∧ recAt s index = some r ∧
      recKey r = ⟨domain, key⟩ ∧ standsOnDie s index = true) (fun _ => []) (deletePair index r)) ∧
  (∀ h index domain key r, Begins (.flowDelete h index domain key) h
    (fun _ => { code := 0x0605, world := .nonSecure })
    (fun s => (idxOnDie index = true → rowOpen s (idxSlice index) (idxPlace index) = true) ∧ recAt s index = some r ∧
      recKey r = ⟨domain, key⟩ ∧ standsOnDie s index = false)
    (queueWrite ⟨index, recKey r, .remove none false, none, some h⟩)) ∧
  (∀ h zone limit, zone < 8 → 1 ≤ limit → limit ≤ 1073741824 → Completes (.flowZoneSet h zone limit) h
    (fun _ => { code := 0x0606, world := .nonSecure }) (fun s => tabletConflict .ag agDoms s = none) (fun _ => [])
    (fun s => { s with flow := { s.flow with zones := tset s.flow.zones zone limit } })) ∧
  (∀ h period, 128 ≤ period → period ≤ 65536 → Completes (.flowSweepSet h period) h
    (fun _ => { code := 0x0607, world := .nonSecure }) (fun s => tabletConflict .ag agDoms s = none) (fun _ => [])
    (fun s => { s with flow := { s.flow with sweep := period } })) ∧
  (∀ h port limit ps, 1 ≤ limit → limit ≤ 400000 → Completes (.flowLearnLimit h port limit) h
    (fun _ => { code := 0x0608, world := .nonSecure }) (fun s => portOf s port = some ps) (fun _ => [])
    (setPort port { ps with learnLim := limit })) ∧
  (∀ h slice, slice < 32 → Completes (.flowStatus h slice) h (fun _ => { code := 0x0609, reads := true }) (fun _ => True)
    (fun s => flowStatusFlds s slice) id) ∧
  (∀ h slice clear, slice < 32 → Completes (.flowCounters h slice clear) h (fun _ => { code := 0x060A, reads := true })
    (fun _ => True) (fun s => [flds "COUNTERS" (flowCtrs.map (fun c => ctr s c slice 0)),
      flds "LEARN_REFUSED_PORT" ((portsOfSlice slice).map (fun p => ctr s .learnRefusedPort p 0))])
    (fun s => if clear then flowClear slice s else s))

/-- The microcode rows complete (chapter 6). -/
def Obligations.UcodeRowsComplete : Prop :=
  (∀ h action slices img, slices ≠ 0 → Defers (.ucodeLoad h action slices img) h
    (fun _ => { code := 0x0E01, world := .secure, host := true })
    (fun s => tabletConflict .ul (sliceDoms (slicesOf slices)) s = none ∧ s.ucode.swap = none ∧
      (slicesOf slices).any (shadowNamed s action) = false ∧ (slicesOf slices).any (oldHeld s action) = false ∧
      signerOk s img.sig = true ∧ img.stepping = 0x00B0 ∧ storesFit img = true ∧ img.isAction = action ∧ imageFault img = none)
    (fun s => tabletTake .ul (sliceDoms (slicesOf slices)) h 0x0E01 (clearShadows action (slicesOf slices)
      { s with ucode := { s.ucode with load := s.ucode.load ++ [⟨h, action, slicesOf slices, img⟩] } }))) ∧
  (∀ h action slices img s w, slices ≠ 0 → starts { code := 0x0E01, world := .secure, host := true } h w s = true →
    (fun t => tabletConflict .ul (sliceDoms (slicesOf slices)) t = none ∧ t.ucode.swap = none ∧
      (slicesOf slices).any (shadowNamed t action) = false ∧ (slicesOf slices).any (oldHeld t action) = false ∧
      signerOk t img.sig = false) (atFetch { code := 0x0E01, world := .secure, host := true } h s) →
    exec (.ucodeLoad h action slices img) s = .next (replied h 0x0E01 .signatureFail none []
      (clearShadows action (slicesOf slices) (atFetch { code := 0x0E01, world := .secure, host := true } h s)) s)) ∧
  (∀ l rest, Acts .ucodeLoadDone (fun s => s.ucode.load = l :: rest)
    (fun s => finish l.hdr 0x0E01 .ok none [] (shadowsWritten l rest s))) ∧
  (∀ h parser action slices, parser = true ∨ action = true → slices ≠ 0 → Begins (.ucodeSwap h parser action slices) h
    (fun _ => { code := 0x0E02, world := .secure })
    (fun s => (slicesOf slices).any (fun k => (parser && (ucOf s k).pShad.isNone) || (action && (ucOf s k).aShad.isNone)) = false ∧
      (slicesOf slices).any (fun k => (parser && !swapNamed s 1 k (ucOf s k).pShad) ||
        (action && !swapNamed s 2 k (ucOf s k).aShad)) = false ∧
      (action = true → editsAgree (allSlices.map (fun k => (afterSwap s parser action (slicesOf slices) k).2)) = true) ∧
      allSlices.all (fun k => agree (afterSwap s parser action (slicesOf slices) k).1
        (afterSwap s parser action (slicesOf slices) k).2) = true ∧ s.ucode.swap = none)
    (fun s => { s with ucode := { s.ucode with swap := some ⟨h, parser, action, slicesOf slices⟩ } })) ∧
  (∀ h slice, slice < 32 → Completes (.ucodeStatus h slice) h (fun _ => { code := 0x0E03, reads := true }) (fun _ => True)
    (fun s => ucodeFlds s (ucOf s slice)) id) ∧
  (∀ slice word, slice < 32 → word < 20480 → Acts (.ucodeScrubRewrite slice word false) (fun _ => True)
    (bump .ucodeCorrected slice 0)) ∧
  (∀ slice word, slice < 32 → word < 20480 → Acts (.ucodeScrubRewrite slice word true) (fun _ => True)
    (updUc slice (scrubWord word)))

/-- A cell's injection and release, a port's selection and a siding read act (chapters 7 to 9). -/
def Obligations.FabricAndEgressRowsAct : Prop :=
  (∀ slice lane, slice < 32 → lane < 3 → Acts (.cellInject slice lane) (fun _ => True)
    (fun s => injectBelow slice (lane + 1) (once 2 voqDepths (lookupOnce s)))) ∧
  (∀ slice lane t, injectBelow slice (lane + 1) t = injectSlot slice lane (injectBelow slice lane t)) ∧
  (∀ slice lane t, sliceHalted t slice = false → tget t.fab.injAt (slice, lane) 0 ≠ t.time.now + 1 →
    injectSlot slice lane t = if sliceHalted t (middleNow slice t) = true then injUsed slice lane t
      else injectTurn slice lane (injUsed slice lane t)) ∧
  (∀ slice lane t, sliceHalted t slice = true ∨ tget t.fab.injAt (slice, lane) 0 = t.time.now + 1 → injectSlot slice lane t = t) ∧
  (∀ slice c, Acts (.cellRelease slice none) (fun s => nextRelease s slice = some c)
    (fun s => cellArrives slice c (bump .cellsReleased slice 0 (leftTransit c s)))) ∧
  (∀ slice c, Acts (.cellRelease slice (some .crc)) (fun s => nextRelease s slice = some c)
    (fun s => loseCell c (bump .fabricCellErr slice 0 (leftTransit c s)))) ∧
  (∀ slice c, Acts (.cellRelease slice (some .late)) (fun s => nextRelease s slice = some c)
    (fun s => loseCell c (bump .fabricLateCell slice 0 (leftTransit c s)))) ∧
  (∀ port ps, Acts (.egressSelect port) (fun s => portOf s port = some ps ∧ ps.link = true ∧ forwarding s = true ∧
      ps.selAt ≠ s.time.now + 1 ∧ maySelect s ps = true) (selectTurn port ps)) ∧
  (∀ port ps w n q, Acts (.egressSelect port) (fun s => portOf s port = some ps ∧ ps.link = true ∧ forwarding s = true ∧
      ps.selAt ≠ s.time.now + 1 ∧ maySelect s ps = false ∧ ps.wire = some w ∧ w.pre = true ∧ expressReady s port = some q ∧
      cutAt s ps w = some n) (cutIn port ps w n q)) ∧
  (∀ slice corrected c f, Acts (.sidingReadReturn slice corrected) (fun s => readDone slice s = some c ∧ frameOf s c.fid = some f ∧
      (f.sent = 0 ∧ tooOld (readCorrected c corrected s) f = true)) (fun s => agedOut f (readCorrected c corrected s))) ∧
  (∀ slice corrected c f, Acts (.sidingReadReturn slice corrected) (fun s => readDone slice s = some c ∧ frameOf s c.fid = some f ∧
      ¬(f.sent = 0 ∧ tooOld (readCorrected c corrected s) f = true)) (fun s => cellOnDie slice c f (readCorrected c corrected s))) ∧
  (∀ slice, slice < 32 → Acts (.histSample slice) (fun s => sampleDue slice s = true) (sampleSlice slice)) ∧
  (∀ port ps, Acts (.preemptVerifyDone port true) (fun s => portOf s port = some ps ∧ ps.vstate = .verifying)
    (setPort port { ps with vstate := .succeeded })) ∧
  (∀ port ps, Acts (.preemptVerifyDone port false) (fun s => portOf s port = some ps ∧ ps.vstate = .verifying)
    (fun s => bump .preemptVerifyFail port 0 (setPort port { ps with vstate := .failed } s)))

/-- The queue, preemption, buffer and supplied-frame commands complete (chapters 8, 9, 11, 12). -/
def Obligations.QueueRowsComplete : Prop :=
  (∀ h port queue word, 4 ≤ queue → queue < 16 → meterWordOk word = true → Completes (.queueShaperSet h port queue word) h
    (fun _ => { code := 0x0701, world := .nonSecure }) (fun s => (portOf s port).isSome = true) effectFlds
    (updQueue port queue (fun q => { q with wordNx := some word }))) ∧
  (∀ h port queue, queue < 16 → Completes (.queueShaperGet h port queue) h (fun _ => { code := 0x0702, reads := true })
    (fun s => (portOf s port).isSome = true) (fun s => shaperFlds s port queue s.fresh) (draws 3)) ∧
  (∀ h port queue weight, 4 ≤ queue → queue < 16 → 16 ≤ weight → weight ≤ 4095 → Completes (.queueWeightSet h port queue weight) h
    (fun _ => { code := 0x0703, world := .nonSecure }) (fun s => (portOf s port).isSome = true) effectFlds
    (updQueue port queue (fun q => { q with weightNx := some weight }))) ∧
  (∀ h port enable verify ps, Completes (.preemptSet h port enable verify) h (fun _ => { code := 0x0704, world := .nonSecure })
    (fun s => portOf s port = some ps ∧ (enable = false → carriesOut s port = none)) effectFlds
    (setPort port { ps with preNx := some (enable, verify) })) ∧
  (∀ h port verify ps a s w, starts { code := 0x0704, world := .nonSecure } h w s = true →
    portOf (atFetch { code := 0x0704, world := .nonSecure } h s) port = some ps →
    carriesOut (atFetch { code := 0x0704, world := .nonSecure } h s) port = some a →
    exec (.preemptSet h port false verify) s = .next (replied h 0x0704 .resourceClaimed (some (.aggregate a)) []
      (atFetch { code := 0x0704, world := .nonSecure } h s) s)) ∧
  (∀ h first count, Completes (.preemptStatus h first count) h (fun _ => { code := 0x0705, reads := true })
    (fun _ => rangeOk first count 1024 = true)
    (fun s => [⟨"PORTS", 1, (List.range count).flatMap (fun i => match portOf s (first + i) with
        | some x => [x.preEn.toNat, x.verify.toNat, verifyCode x.vstate, x.preOn.toNat]
        | none => [0, 0, 0, 0])⟩]) id) ∧
  (∀ h slices n, slices ≠ 0 → n ≤ 16 → Completes (.histConfig h slices n) h (fun _ => { code := 0x0706, world := .nonSecure })
    (fun _ => True) (fun _ => []) (fun s => { s with egr := { s.egr with
      histN := (slicesOf slices).foldl (fun t k => tset t k n) s.egr.histN } })) ∧
  (∀ h port queue clear, 4 ≤ queue → queue < 16 → Completes (.histRead h port queue clear) h
    (fun _ => { code := 0x0707, reads := true }) (fun s => (portOf s port).isSome = true)
    (fun s => [flds "BINS" ((histKeys queue).map (fun e => ctr s e.1 port e.2))])
    (fun s => if clear then clearKeys port (histKeys queue) s else s)) ∧
  (∀ h port, Completes (.apogeeRead h port) h (fun _ => { code := 0x0708, reads := true })
    (fun s => (portOf s port).isSome = true)
    (fun s => [flds "APOGEES" ((List.range 4).map (fun q => apogeeWord (tget s.egr.apogees (port, q) Apogee.init) (s.fresh + q)))])
    (fun s => draws 4 (apogeesCleared port s))) ∧
  (∀ h port clear, Completes (.queueCounters h port clear) h (fun _ => { code := 0x0709, reads := true })
    (fun s => (portOf s port).isSome = true) (fun s => [flds "COUNTERS" (qCtrKeys.map (fun e => ctr s e.1 port e.2))])
    (fun s => if clear then clearKeys port qCtrKeys s else s)) ∧
  (∀ h slice port, slice < 32 → Completes (.bufStatus h slice port) h (fun _ => { code := 0x0720, reads := true })
    (fun s => (portOf s port).isSome = true ∧ s.tt.active ≠ none) (fun s => bufFlds s slice port) id) ∧
  (∀ h n clear, Completes (.bufCounters h true n clear) h (fun _ => { code := 0x0721, reads := true })
    (fun s => (portOf s n).isSome = true)
    (fun s => [fld "STAGING_DROP" (ctr s .stagingDrop n 0), flds "QUEUES" (bufPortKeys.map (fun e => ctr s e.1 n e.2))])
    (fun s => if clear then bufPortClear n s else s)) ∧
  (∀ h n clear, n < 32 → Completes (.bufCounters h false n clear) h (fun _ => { code := 0x0721, reads := true }) (fun _ => True)
    (fun s => [flds "COUNTERS" (bufSliceCtrs.map (fun c => ctr s c n 0)), flds "MAXIMA" (bufMaxCtrs.map (fun c => ctr s c n 0))])
    (fun s => if clear then bufSliceCtrs.foldl (fun s c => clearCtr c n 0 s) (maximaClear n s) else maximaClear n s)) ∧
  (∀ h port frame oneStep tsOffset udp6Adj ps, 64 ≤ frame.length → frame.length ≤ 1518 →
    (oneStep = true → 26 ≤ tsOffset ∧ tsOffset + 10 ≤ frame.length ∧ insertFits frame tsOffset udp6Adj = true) →
    Begins (.ptpTx h port frame oneStep tsOffset udp6Adj) h (fun _ => { code := 0x0808, world := .nonSecure })
    (fun s => portOf s port = some ps ∧ ps.ptpSent < ptpAllowed s port ∧ s.clock.ptpPending < 4096)
    (ptpQueued h port ps frame oneStep tsOffset udp6Adj)) ∧
  (∀ h port frame, 64 ≤ frame.length → frame.length ≤ 1518 → beAt frame 12 2 = 0x888E → Completes (.macsecUnctrlTx h port frame) h
    (fun _ => { code := 0x090C, world := .secure })
    (fun s => (portOf s port).isSome = true ∧ unctrlPending s port < 64) (fun _ => []) (unctrlQueued port frame))

/-- The HBM channel rows complete (chapter 10). -/
def Obligations.HbmRowsComplete : Prop :=
  (∀ channel bank row, Acts (.rowActivationTrigger channel bank row) (fun s => overThresh channel bank row s = true)
    (refreshQueued channel bank row)) ∧
  (∀ channel cause cmd window beat address syndrome, channel < 384 →
    Acts (.hbmFreeze channel cause cmd window beat address syndrome) (fun s => chanActive s channel = true)
      (fun s => freezeChan channel ⟨cause, cmd, window, beat, address, s.time.orbit, s.time.headway, syndrome⟩ s)) ∧
  (∀ h first count, Completes (.hbmStatus h first count) h (fun _ => { code := 0x0A01, reads := true })
    (fun _ => rangeOk first count 384 = true) (fun s => hbmFlds s ((List.range count).map (fun i => first + i))) id) ∧
  (∀ h regions order, Defers (.hbmOrderSet h regions order) h
    (fun s => { code := 0x0A02, world := .secure, modeOk := s.mode.mode == .boot && !s.tt.committed })
    (fun s => s.mode.zeroed = true)
    (fun s => { s with hbm := { s.hbm with ordering := s.hbm.ordering ++ [(h, bitsOf regions, order)] } })) ∧
  (∀ h rs o rest, Acts .hbmOrderSetDone (fun s => s.hbm.ordering = (h, rs, o) :: rest)
    (fun s => finish h 0x0A02 .ok none [] (ordersSet rs o s))) ∧
  (∀ h channel, channel < 384 → Completes (.hbmFreezeRead h channel) h (fun _ => { code := 0x0A03, reads := true })
    (fun s => (chanOf s channel).st = .frozen)
    (fun s => [⟨"RECORD", 32, [withUndefined (freezeWord channel ((chanOf s channel).diag.getD ⟨0, 0, 0, 0, 0, 0, 0, 0⟩))
      freezeUndef s.fresh]⟩]) drawn) ∧
  (∀ h channel, channel < 384 → Defers (.retrainAndResume h channel) h
    (fun s => { code := 0x0A04, modeOk := s.mode.mode == .service || s.mode.mode == .holdover })
    (fun s => chanFrozen s channel = true ∧ tabletConflict .hb [.stack (channel / 32)] s = none)
    (fun s => tabletTake .hb [.stack (channel / 32)] h 0x0A04
      (updChan channel (fun x => { x with st := .retraining, retrain := some h }) (clearDiag channel s)))) ∧
  (∀ channel h, Acts (.retrainDone channel true) (fun s => (chanOf s channel).retrain = some h)
    (fun s => finish h 0x0A04 .ok none [] (rejoins channel s))) ∧
  (∀ channel h, Acts (.retrainDone channel false) (fun s => (chanOf s channel).retrain = some h)
    (fun s => finish h 0x0A04 .hardwareFault (some (.entry channel)) []
      (updChan channel (fun x => { x with retrain := none, st := .frozen }) s))) ∧
  (∀ h channel, channel < 384 → Completes (.retire h channel) h
    (fun s => { code := 0x0A05, modeOk := s.mode.mode == .service || s.mode.mode == .holdover })
    (fun s => chanFrozen s channel = true ∧ tabletConflict .hb [.stack (channel / 32)] s = none) (fun _ => [])
    (retireChan channel)) ∧
  (∀ h channel first count, channel < 384 → Completes (.hbmEccRead h channel first count) h
    (fun _ => { code := 0x0A06, reads := true }) (fun _ => rangeOk first count 256 = true)
    (fun s => [⟨"CORRECTIONS", 4, (List.range count).map (fun i => ctr s .eccCorrections channel (first + i))⟩]) id) ∧
  (∀ h threshold, 256 ≤ threshold → threshold ≤ 8192 → Completes (.hbmRdThreshSet h threshold) h
    (fun _ => { code := 0x0A07, world := .secure }) (fun _ => True) effectFlds
    (fun s => { s with hbm := { s.hbm with threshNx := some threshold } }))

/-- The link-security commands complete (Table 12-6). -/
def Obligations.MacsecRowsComplete : Prop :=
  (∀ h port policy ps, policy.confOffset = 0 ∨ policy.confOffset = 30 ∨ policy.confOffset = 50 → policy.replay ≤ 4294967295 →
    Completes (.macsecPortSet h port policy) h (fun _ => { code := 0x0901, world := .secure })
    (fun s => portOf s port = some ps ∧ protClaim s port ps policy = none) effectFlds
    (setPort port { ps with polNx := some policy })) ∧
  (∀ h port policy ps a, policy.confOffset = 0 ∨ policy.confOffset = 30 ∨ policy.confOffset = 50 → policy.replay ≤ 4294967295 →
    Refuses (.macsecPortSet h port policy) h (fun _ => { code := 0x0901, world := .secure })
    (fun s => portOf s port = some ps ∧ protClaim s port ps policy = some a) .resourceClaimed
    (fun _ => some (.aggregate a))) ∧
  (∀ h port tx sci c, Completes (.macsecScAdd h port tx sci) h (fun _ => { code := 0x0902, world := .secure })
    (fun s => (portOf s port).isSome = true ∧
      s.sec.chans.find? (fun e => e.2.port == port && (e.2.sci == sci || (tx && e.2.tx))) = none ∧ freeSc s (port / 32) tx = some c)
    (fun _ => [fld "CHANNEL" c]) (setSc c ⟨port, tx, sci, [], none, none, none, none⟩)) ∧
  (∀ h channel c, Completes (.macsecScRemove h channel) h (fun _ => { code := 0x0903, world := .secure })
    (fun s => scOf s channel = some c ∧ (c.tx = false ∨ ∃ ps, portOf s c.port = some ps ∧ ps.pol.txProtect = .off)) (fun _ => [])
    (fun s => { s with sec := { s.sec with chans := tdel s.sec.chans channel } })) ∧
  (∀ h channel an sa c, an < 4 → sa.key.length = keyLen sa.suite → 1 ≤ sa.nextPn → sa.nextPn ≤ pnMax sa.suite →
    Completes (.macsecSaInstall h channel an sa) h (fun _ => { code := 0x0904, world := .secure })
    (fun s => scOf s channel = some c ∧ c.enc ≠ some an ∧ tfind c.sas an = none) (fun _ => [])
    (setSc channel { c with sas := tset c.sas an ⟨sa, sa.nextPn, false, false⟩ })) ∧
  (∀ h channel an c, c.tx = true → an < 4 → Completes (.macsecSaSelect h channel an) h (fun _ => { code := 0x0907, world := .secure })
    (fun s => scOf s channel = some c ∧ tfind c.sas an ≠ none) effectFlds (setSc channel { c with encNx := some an })) ∧
  (∀ h channel an c, Completes (.macsecSaRemove h channel an) h (fun _ => { code := 0x0908, world := .secure })
    (fun s => scOf s channel = some c ∧ tfind c.sas an ≠ none ∧ c.enc ≠ some an) (fun _ => [])
    (setSc channel { c with sas := tdel c.sas an })) ∧
  (∀ h channel soft hard c, c.tx = true → 1 ≤ soft → soft < hard → hard ≤ pnMax (chanSuite c) →
    Completes (.macsecPnLimitsSet h channel soft hard) h (fun _ => { code := 0x0909, world := .secure })
    (fun s => scOf s channel = some c) (fun _ => []) (setSc channel { c with soft := some soft, hard := some hard })) ∧
  (∀ h port ps, Completes (.macsecStatus h port) h (fun _ => { code := 0x090A, reads := true })
    (fun s => portOf s port = some ps) (fun s => macsecFlds s port ps.pol) id) ∧
  (∀ h port clear, Completes (.macsecCounters h port clear) h (fun _ => { code := 0x090B, reads := true })
    (fun s => (portOf s port).isSome = true) (fun s => [flds "COUNTERS" (macsecCtrs.map (fun c => ctr s c port 0))])
    (fun s => if clear then macsecCtrs.foldl (fun s c => clearCtr c port 0 s) s else s))

/-- The lookaside commands complete (Table 12-6). -/
def Obligations.LookasideRowsComplete : Prop :=
  (∀ h ctx mode decrypt key iv, ctx < 16 → key.length = 16 ∨ key.length = 32 → Completes (.laOpen h ctx mode decrypt key iv) h
    (fun s => { code := 0x0910, world := .owned (laWorld s ctx) }) (fun s => laOf s ctx = none) (fun _ => [])
    (setLa ctx ⟨h.ring, h, mode, decrypt, key, 0, 0, firstChain mode iv, 0, [], none⟩)) ∧
  (∀ h ctx data x, ctx < 16 → data.length ≤ 65536 → Completes (.laUpdate h ctx true data) h
    (fun s => { code := 0x0911, world := .owned (laWorld s ctx), host := true })
    (fun s => laOf s ctx = some x ∧ x.holder = h.ring ∧ x.mode = .gcm ∧ x.text = 0) (fun _ => placed [])
    (setLa ctx (laAad data x))) ∧
  (∀ h ctx data x, ctx < 16 → data.length ≤ 65536 → Completes (.laUpdate h ctx false data) h
    (fun s => { code := 0x0911, world := .owned (laWorld s ctx), host := true })
    (fun s => laOf s ctx = some x ∧ x.holder = h.ring) (fun _ => placed (laTexted data x).1) (setLa ctx (laTexted data x).2)) ∧
  (∀ h ctx tag x, ctx < 16 → Completes (.laFinal h ctx tag) h (fun s => { code := 0x0912, world := .owned (laWorld s ctx) })
    (fun s => laOf s ctx = some x ∧ x.holder = h.ring) (fun _ => (laFinish tag x).1) (setLa ctx (laFinish tag x).2)) ∧
  (∀ h ctx x, ctx < 16 → Completes (.laSave h ctx) h (fun s => { code := 0x0913, world := .owned (laWorld s ctx) })
    (fun s => laOf s ctx = some x ∧ x.holder = h.ring ∧ worldOf s .laContext ctx = .nonSecure)
    (fun _ => [bytesFld "BLOB" (laBlobBytes x)]) id) ∧
  (∀ h ctx x, ctx < 16 → Completes (.laSave h ctx) h (fun s => { code := 0x0913, world := .owned (laWorld s ctx) })
    (fun s => laOf s ctx = some x ∧ x.holder = h.ring ∧ worldOf s .laContext ctx = .secure)
    (fun s => [bytesFld "BLOB" (keyWrap (wrapKey s) (laBlobBytes x))]) id) ∧
  (∀ h ctx blob x y, ctx < 16 → blob.length = 104 ∨ blob.length = 112 →
    Completes (.laRestore h ctx blob) h (fun s => { code := 0x0914, world := .owned (laWorld s ctx) })
    (fun s => laOf s ctx = some x ∧ x.holder = h.ring ∧ blobWrapped blob = (worldOf s .laContext ctx == .secure) ∧
      (blobClear s blob).bind (laOfBlob x.holder x.hdr) = some y) (fun _ => []) (setLa ctx y)) ∧
  (∀ h ctx blob x s w t, ctx < 16 → starts { code := 0x0914, world := .owned (laWorld s ctx) } h w s = true →
    t = atFetch { code := 0x0914, world := .owned (laWorld s ctx) } h s → laOf t ctx = some x → x.holder = h.ring →
    worldOf t .laContext ctx = .secure → blob.length = 112 → replyFits t h.ring none [] = true →
    exec (.laRestore h ctx blob) s = .next (
      match keyUnwrap (wrapKey t) blob with
      | none => replied h 0x0914 .badParam (some (.param (po 1))) [] (bump .laUnwrapFail 0 0 t) s
      | some bs =>
        match laOfBlob x.holder x.hdr bs with
        | none => replied h 0x0914 .badParam (some (.param (po 1))) [] t s
        | some y => replied h 0x0914 .ok none [] (setLa ctx y t) s)) ∧
  (∀ h ctx x, ctx < 16 → Completes (.laClose h ctx) h (fun s => { code := 0x0915, world := .owned (laWorld s ctx) })
    (fun s => laOf s ctx = some x ∧ x.holder = h.ring) (fun _ => [])
    (fun s => { s with sec := { s.sec with la := tdel s.sec.la ctx } }))

/-- The world, key, life-cycle and firmware rows complete (chapter 16, R348). -/
def Obligations.WorldRowsComplete : Prop :=
  (∀ h kind first count world, rangeOk first count (objCount kind) = true → Completes (.worldAssign h kind first count world) h
    (fun s => { code := 0x0920, world := .secure, modeOk := s.mode.mode == .boot && !s.world.locked })
    (fun s => kind = .hbmRegion → world = .secure → (objRange first count).find? (regionInUse s) = none) (fun _ => [])
    (fun s => { s with world := { s.world with
      attrs := (objRange first count).foldl (fun t n => tset t (kind, n) world) s.world.attrs } })) ∧
  (∀ h, Completes (.worldLock h) h (fun s => { code := 0x0921, world := .secure, modeOk := !s.world.locked }) (fun _ => True)
    (fun _ => []) (fun s => { s with world := { s.world with locked := true } })) ∧
  (∀ h kind first count, rangeOk first count (objCount kind) = true → Completes (.worldStatus h kind first count) h
    (fun _ => { code := 0x0922, reads := true }) (fun _ => True)
    (fun s => [flds "WORLDS" ((List.range count).map (fun i => worldIx (worldOf s kind (first + i)))),
      flag "LOCKED" s.world.locked,
      fld "WORLD_VIOLATIONS" (ctr s .worldViolations (((ringWorld s h.ring).map worldIx).getD 0) 0)]) id) ∧
  (∀ h entry data, entry ≤ 31 → 1 ≤ data.length → data.length ≤ 64 → Completes (.keyStoreWrite h entry data) h
    (fun _ => { code := 0x0923, world := .secure }) (fun _ => True) (fun _ => [])
    (fun s => { s with world := { s.world with keys := tset s.world.keys entry data } })) ∧
  (∀ h, Completes (.keyStoreZero h) h (fun _ => { code := 0x0924, world := .secure }) (fun _ => True) (fun _ => []) zeroKeys) ∧
  (∀ h target auth, Completes (.lifecycleSet h target auth) h
    (fun s => { code := 0x0925, world := .secure, modeOk := s.mode.mode == .boot || s.mode.mode == .calibrate,
                lifeOk := lifeEdge s.world.lifecycle target })
    (fun s => lifeAuth s target auth = none) (fun _ => []) (lifeMove target)) ∧
  (∀ h ecdsa mldsa n, Completes (.ownerKeyEnroll h ecdsa mldsa) h
    (fun s => { code := 0x0926, world := .secure, lifeOk := s.world.lifecycle == .provisioned })
    (fun s => [0, 1, 2, 3].find? (fun n => (tfind s.world.owners n).isNone) = some n) (fun _ => [fld "SLOT" n])
    (fun s => { s with world := { s.world with owners := tset s.world.owners n ⟨ecdsa, mldsa, false⟩ } })) ∧
  (∀ h slot k, slot ≤ 3 → Completes (.ownerKeyRevoke h slot) h
    (fun s => { code := 0x0927, world := .secure,
                lifeOk := s.world.lifecycle == .provisioned || s.world.lifecycle == .deployed })
    (fun s => tfind s.world.owners slot = some k ∧ (s.world.lifecycle = .deployed → k.revoked = false →
      [0, 1, 2, 3].any (fun n => n != slot && ownerLive s n) = true)) (fun _ => [])
    (fun s => { s with world := { s.world with owners := tset s.world.owners slot { k with revoked := true } } })) ∧
  (∀ h, Completes (.authChallenge h) h (fun _ => { code := 0x0928, world := .secure }) (fun _ => True)
    (fun s => [⟨"CHALLENGE", 32, [Config.challenge s.fresh]⟩]) challenged) ∧
  (∀ h scope token, Completes (.debugAuth h scope token) h
    (fun s => { code := 0x0929, world := .secure, lifeOk := s.world.lifecycle != .decommissioned })
    (fun s => debugSigner s token.sig = true ∧ s.world.challenge = some token.challenge) (fun _ => []) (granted scope)) ∧
  (∀ h scope, Completes (.debugRevoke h scope) h (fun _ => { code := 0x092A, world := .secure }) (fun _ => True) (fun _ => [])
    (revoked scope)) ∧
  (∀ h nonce, nonce.length = 32 → Completes (.moduleAttest h nonce) h
    (fun s => { code := 0x092B, reads := true, lifeOk := !s.world.idGone })
    (fun _ => True) (fun s => [flds "MEASUREMENTS" (measurements s),
      fld "SIGNATURE" (Config.attest (nonce.map (fun b => b.toNat) ++ measurements s)),
      fld "CERTIFICATE" Config.certChain]) id) ∧
  (∀ h slotB img, Defers (.fwImageWrite h slotB img) h (fun _ => { code := 0x0E10, world := .secure, host := true })
    (fun s => slotB ≠ s.world.runB ∧ dvorhelOk img.sig = true ∧ tabletConflict .fw [.firmware] s = none)
    (fun s => tabletTake .fw [.firmware] h 0x0E10 { s with world := { s.world with fwWrite := some (h, slotB, img) } })) ∧
  (∀ h b img, Acts .fwImageWriteDone (fun s => s.world.fwWrite = some (h, b, img))
    (fun s => finish h 0x0E10 .ok none [] (setFwSlot b (some img) { s with world := { s.world with fwWrite := none } }))) ∧
  (∀ h, Completes (.fwImageCommitSvn h) h (fun _ => { code := 0x0E11, world := .secure }) (fun _ => True)
    (fun s => [fld "SVN_FUSED" (svnNext s)]) (fun s => { s with world := { s.world with svnFused := svnNext s } })) ∧
  (∀ h slotB, Defers (.fwSwitch h slotB) h
    (fun s => { code := 0x0E20, world := .secure,
                modeOk := s.mode.mode == .boot || s.mode.mode == .service || s.mode.mode == .holdover })
    (fun s => slotB ≠ s.world.runB ∧ (fwValid s slotB).isSome = true ∧ tabletConflict .fs switchDoms s = none)
    (fun s => tabletTake .fs switchDoms h 0x0E20 { s with
      world := { s.world with fwSwitch := some (h, slotB) }, qcp := { s.qcp with blackout := some s.time.now } })) ∧
  (∀ h b, Acts (.fwSwitchDone true) (fun s => s.world.fwSwitch = some (h, b))
    (fun s => finish h 0x0E20 .ok none [fld "VERSION" (((fwSlot s b).map (fun i => i.version)).getD 0)] (switchedTo b s))) ∧
  (∀ h b, Acts (.fwSwitchDone false) (fun s => s.world.fwSwitch = some (h, b))
    (fun s => finish h 0x0E20 .imageIncompatible none [] (switchOver s))) ∧
  (∀ h slices img, slices ≠ 0 → agentImageBad img = none → Defers (.agentImageLoad h slices img) h
    (fun _ => { code := 0x0E12, world := .secure, host := true })
    (fun s => signerOk s img.sig = true ∧ tabletConflict .al (sliceDoms (slicesOf slices)) s = none)
    (fun s => tabletTake .al (sliceDoms (slicesOf slices)) h 0x0E12
      { s with world := { s.world with agentLoad := s.world.agentLoad ++ [⟨h, slicesOf slices, img⟩] } })) ∧
  (∀ l rest, Acts .agentImageLoadDone (fun s => s.world.agentLoad = l :: rest)
    (fun s => finish l.hdr 0x0E12 .ok none [] (imageStaged l rest s)))

/-- The agent, task, trace and debug commands complete (Table 14-11). -/
def Obligations.TaskRowsComplete : Prop :=
  (∀ h slice, slice < 32 → Completes (.agentStatus h slice) h (fun _ => { code := 0x0C01, reads := true }) (fun _ => True)
    (fun s => agentFlds s slice) id) ∧
  (∀ h slice, slice < 32 → Defers (.agentReset h slice) h (fun s => { code := 0x0C02, world := .secure, modeOk := [Mode.boot, .service, .holdover, .drain].contains s.mode.mode })
    (fun s => tabletConflict .ar [.slice slice] s = none)
    (fun s => tabletTake .ar [.slice slice] h 0x0C02 (startAgentReset slice (some h) s))) ∧
  (∀ slice, Acts (.agentResetDone slice) (fun s => (agentOf s slice).reset = some none) (endAgentReset slice)) ∧
  (∀ slice h, Acts (.agentResetDone slice) (fun s => (agentOf s slice).reset = some (some h))
    (fun s => finish h 0x0C02 .ok none [] (endAgentReset slice s))) ∧
  (∀ h slice clear, slice < 32 → Completes (.agentCounters h slice clear) h (fun _ => { code := 0x0C03, reads := true })
    (fun _ => True) (fun s => [flds "COUNTERS" (agentCtrs.map (fun c => ctr s c.1 slice c.2))])
    (fun s => if clear then agentCtrs.foldl (fun (s : State) c => clearCtr c.1 slice c.2 s) s else s)) ∧
  (∀ h slice type prio autoFree args id, slice < 32 → type ≤ 31 → prio ≤ 7 → args.length = 3 →
    Completes (.taskCreate h slice type prio autoFree args) h (fun _ => { code := 0x0C04 })
    (fun s => freeTask s slice = some id) (fun _ => [fld "TASK" id])
    (fun s => updTask slice id (fun t => { Task.init with
      type := type, prio := prio, st := .idle, autoFree := autoFree, gen := t.gen, args := args,
      world := (ringWorld s h.ring).getD .nonSecure }) s)) ∧
  (∀ h slice task, slice < 32 → task < 4096 → Completes (.taskReady h slice task) h
    (fun s => { code := 0x0C05, world := .owned (taskWorld s slice task) })
    (fun s => (taskOf s slice task).st = .idle ∧ justCancelled s (taskOf s slice task) = false) (fun _ => [])
    (makeReady slice task (some h) 0)) ∧
  (∀ h slice task, slice < 32 → task < 4096 → Completes (.taskCancel h slice task) h
    (fun s => { code := 0x0C06, world := .owned (taskWorld s slice task) })
    (fun s => (taskOf s slice task).st = .ready ∨ (taskOf s slice task).st = .prefetched) (fun _ => [])
    (fun s => (cancelTask slice task true 0 s).2)) ∧
  (∀ h slice task s w, slice < 32 → task < 4096 →
    starts { code := 0x0C06, world := .owned (taskWorld s slice task) } h w s = true →
    (fun t => (taskOf t slice task).st = .running) (atFetch { code := 0x0C06, world := .owned (taskWorld s slice task) } h s) →
    exec (.taskCancel h slice task) s = .next (replied h 0x0C06 .running none []
      (traceEvent slice 6 true 0 task (bump .cancelRefused slice 0
        (atFetch { code := 0x0C06, world := .owned (taskWorld s slice task) } h s))) s)) ∧
  (∀ h slice task, slice < 32 → task < 4096 → Completes (.taskRead h slice task) h
    (fun s => { code := 0x0C07, world := .owned (taskWorld s slice task), reads := true }) (fun _ => True)
    (fun s => taskFlds (taskOf s slice task) s.fresh) (draws 4)) ∧
  (∀ h slice task, slice < 32 → task < 4096 → Completes (.taskFree h slice task) h
    (fun s => { code := 0x0C08, world := .owned (taskWorld s slice task) })
    (fun s => (taskOf s slice task).st = .idle) (fun _ => []) (updTask slice task (fun t => { t with st := .free }))) ∧
  (∀ h slice, slice < 32 → Completes (.traceRead h slice) h (fun _ => { code := 0x0C09, reads := true }) (fun _ => True)
    (fun s => (agentOf s slice).trace.zipIdx.flatMap (fun e => traceFlds e.1 (s.fresh + e.2)))
    (fun s => draws (agentOf s slice).trace.length s)) ∧
  (∀ h slice addr entries, slice < 32 → streamBad addr entries = none → Completes (.traceStream h slice addr entries true) h
    (fun _ => { code := 0x0C0A, host := true })
    (fun s => ∀ g a e, (agentOf s slice).stream = some (g, a, e) → g.ring = h.ring) (fun _ => [])
    (streamSet slice (some (h, addr, entries)))) ∧
  (∀ h slice addr entries, slice < 32 → Completes (.traceStream h slice addr entries false) h
    (fun _ => { code := 0x0C0A, host := true })
    (fun s => ∀ g a e, (agentOf s slice).stream = some (g, a, e) → g.ring = h.ring) (fun _ => []) (streamSet slice none)) ∧
  (∀ h k t, k < 32 → t < 8 →
    Completes (.dbgHalt h k t) h (fun s => { code := 0x0C10, world := dbgRule s h k t })
      (fun s => (threadOf (agentOf s k) t).enabled = true) (fun s => [fld "PC" (threadOf (agentOf s k) t).pc])
      (updThread k t (fun th => { th with dbg := true })) ∧
    Completes (.dbgResume h k t) h (fun s => { code := 0x0C11, world := dbgRule s h k t })
      (fun s => (threadOf (agentOf s k) t).dbg = true) (fun _ => [])
      (fun s => evalWait k t (updThread k t (fun th => { th with dbg := false }) s)) ∧
    Completes (.dbgStep h k t) h (fun s => { code := 0x0C12, world := dbgRule s h k t })
      (fun s => (threadOf (agentOf s k) t).dbg = true) (fun s => [fld "PC" (threadOf (agentOf (stepThread k t s) k) t).pc])
      (stepThread k t) ∧
    Completes (.dbgRead h k t) h (fun s => { code := 0x0C13, world := dbgRule s h k t, reads := true }) (fun _ => True)
      (fun s => threadFlds (Config.undefinedRead s.fresh) (threadOf (agentOf s k) t)) drawn ∧
    (∀ pc flags xs, pc < 8192 → xs.length = 16 → Completes (.dbgWrite h k t pc flags xs) h
      (fun s => { code := 0x0C14, world := dbgRule s h k t }) (fun s => (threadOf (agentOf s k) t).dbg = true) (fun _ => [])
      (updThread k t (fun th => { th with pc := pc, flags := flags, xs := xs }))) ∧
    (∀ c len ws, Completes (.abortMessage h k t) h (fun s => { code := 0x0C15, world := dbgRule s h k t })
      (fun s => (threadOf (agentOf s k) t).staged = some (c, len, ws) ∧ (threadOf (agentOf s k) t).dbg = true)
      (fun _ => [fld "CHANNEL" c]) (updThread k t (fun th => { th with staged := none, aborted := some c }))))

/-- The word `w` of thread `t` of agent `k` issues in this cycle: it is the pick, takes no issue trap, and is of class `cls`. -/
def Sys2Proof.Machine.Issues (s : State) (k t : Nat) (w : BitVec 256) (cls : Nat) : Prop :=
  pickWord s k = some (t, w) ∧ issueTrap s k t w = none ∧ mwClass w = cls

/-- Each class of agent word that can issue completes with its effect (Table 14-3). -/
def Obligations.AgentWordsComplete : Prop :=
  (∀ k t w, Acts (.agentNop k) (fun s => Issues s k t w 0) (fun s => completeWord k t w (noteIssue k t s))) ∧
  (∀ k t w, Acts (.agentAlu k) (fun s => Issues s k t w 1) (fun s => completeWord k t w (aluDone k t w (noteIssue k t s)))) ∧
  (∀ k t w, Acts (.agentMem k) (fun s => Issues s k t w 2 ∧ Config.memKind (mwSubop w) % 6 = 0 ∧
      (segmentWorlds (noteIssue k t s) k (addrOf k t w (noteIssue k t s) % 262144)).any
        (fun x => x != threadWorld (noteIssue k t s) k t) = false)
    (fun s => completeWord k t w (memLoaded k t w (addrOf k t w (noteIssue k t s) % 262144) (noteIssue k t s)))) ∧
  (∀ k t w, Acts (.agentMem k) (fun s => Issues s k t w 2 ∧ Config.memKind (mwSubop w) % 6 = 1 ∧
      (segmentWorlds (noteIssue k t s) k (addrOf k t w (noteIssue k t s) % 262144)).any
        (fun x => x != threadWorld (noteIssue k t s) k t) = false)
    (fun s => completeWord k t w (memStored k t w (addrOf k t w (noteIssue k t s) % 262144) (noteIssue k t s)))) ∧
  (∀ k t w, Acts (.agentMem k) (fun s => Issues s k t w 2 ∧ Config.memKind (mwSubop w) % 6 = 2 ∧
      worldOf (noteIssue k t s) .resRegion (16 * k + rowNamed (addrOf k t w (noteIssue k t s)) / 2048) =
        threadWorld (noteIssue k t s) k t)
    (fun s => completeWord k t w (wordLoaded k t w (addrOf k t w (noteIssue k t s)) (noteIssue k t s)))) ∧
  (∀ k t w, Acts (.agentMem k) (fun s => Issues s k t w 2 ∧ Config.memKind (mwSubop w) % 6 = 3 ∧
      worldOf (noteIssue k t s) .resRegion (16 * k + rowNamed (addrOf k t w (noteIssue k t s)) / 2048) =
        threadWorld (noteIssue k t s) k t)
    (fun s => completeWord k t w (rowStored k t w (addrOf k t w (noteIssue k t s)) (noteIssue k t s)))) ∧
  (∀ k t w, Acts (.agentMem k) (fun s => Issues s k t w 2 ∧ Config.memKind (mwSubop w) % 6 = 4)
    (fun s => completeWord k t w (occLoaded k t w (addrOf k t w (noteIssue k t s)) (noteIssue k t s)))) ∧
  (∀ k t w, Acts (.agentMem k) (fun s => Issues s k t w 2 ∧ Config.memKind (mwSubop w) % 6 = 5)
    (fun s => completeWord k t w (occStored k t w (addrOf k t w (noteIssue k t s)) (noteIssue k t s)))) ∧
  (∀ k t w, mwFirst w = true → Acts (.agentSend k) (fun s => Issues s k t w 3 ∧
      chanWorld (noteIssue k t s) k (mwChan w) = threadWorld (noteIssue k t s) k t ∧
      (threadOf (agentOf (noteIssue k t s) k) t).staged = none ∧ chanFree (agentOf (noteIssue k t s) k) (mwChan w) = true)
    (fun s => completeWord k t w (firstStaged k t w (noteIssue k t s)))) ∧
  (∀ k t w len ws, mwFirst w = false → Acts (.agentSend k) (fun s => Issues s k t w 3 ∧
      chanWorld (noteIssue k t s) k (mwChan w) = threadWorld (noteIssue k t s) k t ∧
      (threadOf (agentOf (noteIssue k t s) k) t).staged = some (mwChan w, len, ws))
    (fun s => completeWord k t w (nextStaged k t len ws w (noteIssue k t s)))) ∧
  (∀ k t w m, mwDst w + m.length ≤ 16 → Acts (.agentRecv k) (fun s => Issues s k t w 4 ∧
      chanWorld (noteIssue k t s) k (mwChan w) = threadWorld (noteIssue k t s) k t ∧
      chanMsg (noteIssue k t s) (agentOf (noteIssue k t s) k) (mwChan w) = some m)
    (fun s => completeWord k t w (received k t m w (noteIssue k t s)))) ∧
  (∀ k t w, Acts (.agentWait k) (fun s => Issues s k t w 5 ∧ (mwWcond w = 1 ∨ mwWcond w = 2 →
      chanWorld (noteIssue k t s) k (mwChan w) = threadWorld (noteIssue k t s) k t))
    (fun s => beginWait k t (mwWcond w) false w (noteIssue k t s))) ∧
  (∀ k t w, Acts (.agentTimer k) (fun s => Issues s k t w 6)
    (fun s => completeWord k t w (if Config.timerArms (mwSubop w) then armed k t w (noteIssue k t s)
      else disarmed k t (noteIssue k t s)))) ∧
  (∀ k, Acts (.agentTaskTake k) (fun _ => True) (deferWrite (.take k))) ∧
  (∀ k t w id s, taskSubop w = 0 → mwDst w ≤ 12 → Issues s k t w 7 → (threadOf (agentOf (noteIssue k t s) k) t).slot = some id →
    runLateOne s (.take k) = completeWord k t w (taken k t id w (noteIssue k t s))) ∧
  (∀ k t w id, taskSubop w = 1 → Acts (.agentTaskDone k) (fun s => Issues s k t w 7 ∧
      (threadOf (agentOf (noteIssue k t s) k) t).running = some id)
    (fun s => completeWord k t w (finished k t id (noteIssue k t s)))) ∧
  (∀ k t w, taskSubop w = 2 → Acts (.agentTaskReady k) (fun s => Issues s k t w 7 ∧
      taskForeign (noteIssue k t s) k t (taskNamed (noteIssue k t s) k t w) = false)
    (fun s => completeWord k t w (readied k t (taskNamed (noteIssue k t s) k t w) (noteIssue k t s)))) ∧
  (∀ k t w, taskSubop w = 3 → Acts (.agentTaskCancel k) (fun s => Issues s k t w 7 ∧
      taskForeign (noteIssue k t s) k t (taskNamed (noteIssue k t s) k t w) = false)
    (fun s => completeWord k t w (cancelled k t (taskNamed (noteIssue k t s) k t w) (noteIssue k t s)))) ∧
  (∀ k t w d x, Acts (.agentResume k) (fun s => Issues s k t w 9 ∧ (threadOf (agentOf (noteIssue k t s) k) t).depth = d + 1 ∧
      saveOf (threadOf (agentOf (noteIssue k t s) k) t) (d + 1) = some x)
    (fun s => restored k t d x (noteIssue k t s))) ∧
  (∀ k t w, Acts (.agentHbm k) (fun s => Issues s k t w 10 ∧
      worldOf (noteIssue k t s) .hbmRegion (Config.hbmRegion (addrOf k t w (noteIssue k t s)) % 256) =
        threadWorld (noteIssue k t s) k t)
    (fun s => completeWord k t w (requested k t w (noteIssue k t s)))) ∧
  (∀ k t w, Acts (.agentRing k) (fun s => Issues s k t w 11 ∧
      (Config.ringReads (mwSubop w) = true → (tget (noteIssue k t s).flow.arrived k []).isEmpty = false) ∧
      (Config.ringReads (mwSubop w) = false → (agentOf (noteIssue k t s) k).exports.length < 1024))
    (fun s => completeWord k t w (if Config.ringReads (mwSubop w) then ringRead k t w (noteIssue k t s)
      else exported k t w (noteIssue k t s)))) ∧
  (∀ k t w, Acts (.agentFlag k) (fun s => Issues s k t w 12) (fun s => completeWord k t w (flagged k w (noteIssue k t s)))) ∧
  (∀ k t w, Acts (.agentHaltWord k) (fun s => Issues s k t w 13) (fun s => haltThread k t (noteIssue k t s)))

/-- Agent waits, timers, traps, deadlocks, scrubs, prefetches and trace entries act (chapter 14). -/
def Obligations.AgentEventsAct : Prop :=
  (∀ k t x, x.stall = false → Acts (.agentWaitEnd k t) (fun s => agentRuns s k = true ∧ (threadOf (agentOf s k) t).dbg = false ∧
      (threadOf (agentOf s k) t).wait = some x ∧ waitTrue s k t x = true)
    (fun s => completeWord k t (wordOf s k t) (leaveWait k t true s))) ∧
  (∀ k t x, x.stall = true → Acts (.agentWaitEnd k t) (fun s => agentRuns s k = true ∧ (threadOf (agentOf s k) t).dbg = false ∧
      (threadOf (agentOf s k) t).wait = some x ∧ waitTrue s k t x = true)
    (fun s => settleWord k t (wordOf s k t) (stallEffect k t (wordOf s k t) (leaveWait k t true s)) (leaveWait k t true s))) ∧
  (∀ k t x, x.stall = false → Acts (.agentWaitEnd k t) (fun s => agentRuns s k = true ∧ (threadOf (agentOf s k) t).dbg = false ∧
      (threadOf (agentOf s k) t).wait = some x ∧ waitTrue s k t x = false ∧ (threadOf (agentOf s k) t).flags.getLsbD flagT = true)
    (fun s => completeWord k t (wordOf s k t) (leaveWait k t false s))) ∧
  (∀ k t x, Acts (.agentWaitEnd k t) (fun s => (threadOf (agentOf s k) t).wait = some x ∧ waitTrue s k t x = false ∧
      (threadOf (agentOf s k) t).flags.getLsbD flagT = false) (deferWrite (.waitEnd k t))) ∧
  (∀ k t x s, x.bound ≠ 0 → agentRuns s k = true → (threadOf (agentOf s k) t).dbg = false →
    (threadOf (agentOf s k) t).wait = some x → waitTrue s k t x = false →
    (threadOf (agentOf s k) t).flags.getLsbD flagT = false → x.since + x.bound ≤ s.time.now →
    runLateOne s (.waitEnd k t) = takeTrap k t 1 (x.cond + x.bound * 256) (threadOf (agentOf s k) t).pc (noteIssue k t s)) ∧
  (∀ k t c, Acts (.agentTimerFire k t) (fun s => (threadOf (agentOf s k) t).timer = some c ∧ agentRuns s k = true ∧
      timerMet s k c = true) (fired k t)) ∧
  (∀ k, Acts (.taskPrefetch k) (fun _ => True) (deferWrite (.prefetch k))) ∧
  (∀ k s, agentRuns s k = true →
    runLateOne s (.prefetch k) = (threadOrder (agentOf s k)).foldl (fun s t => prefetchInto k t s) s) ∧
  (∀ k t w c, Acts (.agentTrap k) (fun s => pickWord s k = some (t, w) ∧ issueTrap s k t w = some c)
    (fun s => takeIssueTrap k t c w (noteIssue k t s))) ∧
  (∀ k t cause info saved s, trapOverflows s k t = true → takeTrap k t cause info saved s = haltAgent k 1 s) ∧
  (∀ k, Acts (.agentDeadlock k) (fun s => deadlockDue k s = true ∧ dlInstalled (agentOf s k) = true)
    (fun s => takeTrap k 0 2 0 (threadOf (agentOf s k) 0).pc (noteIssue k 0 (deadlockSeen k s)))) ∧
  (∀ k, Acts (.agentDeadlock k) (fun s => deadlockDue k s = true ∧ dlInstalled (agentOf s k) = false)
    (fun s => haltAgent k 2 (deadlockSeen k s))) ∧
  (∀ k word u, k < 32 → word < 8192 → Acts (.agentUcodeScrub k word u) (fun s => (agentOf s k).image.isSome = true ∧
      (agentOf s k).badWords.contains word = true)
    (updAgent k (fun a => { a with badWords := a.badWords.filter (· ≠ word) }))) ∧
  (∀ k word, k < 32 → word < 8192 → Acts (.agentUcodeScrub k word true) (fun s => (agentOf s k).image.isSome = true ∧
      (agentOf s k).badWords.contains word = false) (updAgent k (fun a => { a with badWords := a.badWords ++ [word] }))) ∧
  (∀ k word, k < 32 → word < 8192 → Acts (.agentUcodeScrub k word false) (fun s => (agentOf s k).image.isSome = true ∧
      (agentOf s k).badWords.contains word = false) (bump .agentUcodeCorrected k 0)) ∧
  (∀ k g a n e rest, Acts (.traceStreamEntry k) (fun s => (agentOf s k).stream = some (g, a, n) ∧ (agentOf s k).sPend = e :: rest ∧
      s.mmc.perst = false ∧ streamFull (agentOf s k) n = false) (fun s => streamed k n e (unpend k rest s))) ∧
  (∀ k g a n e rest, Acts (.traceStreamEntry k) (fun s => (agentOf s k).stream = some (g, a, n) ∧ (agentOf s k).sPend = e :: rest ∧
      s.mmc.perst = false ∧ streamFull (agentOf s k) n = true) (fun s => bump .traceDrop k 0 (unpend k rest s))) ∧
  (∀ k g a n e rest, Acts (.traceStreamEntry k) (fun s => (agentOf s k).stream = some (g, a, n) ∧ (agentOf s k).sPend = e :: rest ∧
      s.mmc.perst = true) (fun s => bump .pcieResetDiscard 0 0 (unpend k rest s)))

/-- Shed-to-fit (R28 to R30). -/
def Obligations.ShedToFitSheds : Prop :=
  (∀ (cap : Nat × Nat → Nat) (i : TtImage) (l : List QAgg), ∃ n, shedUntilFit cap i l = l.take n ∧ n ≤ l.length ∧
    demandFits cap ((l.drop n).map (fun x => demandOf i x.agg)) = true ∧
    ∀ m < n, demandFits cap ((l.drop m).map (fun x => demandOf i x.agg)) = false) ∧
  (∀ l : List QAgg, (sortBy shedBefore l).Perm l ∧ (sortBy shedBefore l).Pairwise (fun a b => shedBefore a b = true)) ∧
  (∀ a b : QAgg, shedBefore a b = true ↔ a.prec < b.prec ∨ (a.prec = b.prec ∧ b.agg ≤ a.agg)) ∧
  (∀ (i : TtImage) (causes ls : List (BitVec 32)) (s : State),
    let live := sortBy (fun a b => decide (a.agg ≤ b.agg)) (guaranteed s)
    let gone := live.filter (fun a => stranded (capacity s ls) (demandOf i a.agg))
    let kept := sortBy shedBefore (live.filter (fun a => !stranded (capacity s ls) (demandOf i a.agg)))
    ((shedToFit i causes ls s).tt.shed.map (fun e => (e.agg, e.prec, e.reason))) =
      s.tt.shed.map (fun e => (e.agg, e.prec, e.reason)) ++ gone.map (fun a => (a.agg, a.prec, 1)) ++
        (shedUntilFit (capacity s ls) i kept).map (fun a => (a.agg, a.prec, 2)))

/-- A ring's indices lie below its size. -/
def Sys2Proof.Machine.ringOk (g : RingSt) : Prop := g.prod < ringSize g ∧ g.cons < ringSize g

/-- Ring arithmetic (R384). -/
def Obligations.RingsHoldWhatWasWritten : Prop :=
  (∀ g : RingSt, ringOk g → ((ringHeld g : Int) = ((g.prod : Int) - g.cons) % (ringSize g : Int)) ∧ ringHeld g ≤ ringSize g - 1 ∧
    (ringHeld g = 0 ↔ g.prod = g.cons) ∧ (g.enable = false → ringRoom g = 0)) ∧
  (∀ (g : RingSt) (n : Nat), ringOk g → n ≤ ringRoom g →
    ringOk (advanceProd n g) ∧ ringHeld (advanceProd n g) = ringHeld g + n ∧
    advanceProd n g = { g with prod := (advanceProd n g).prod, lap := (advanceProd n g).lap }) ∧
  (∀ (g : RingSt) (n : Nat), ringOk g → n ≤ ringHeld g →
    ringOk (advanceCons n g) ∧ ringHeld (advanceCons n g) = ringHeld g - n ∧
    advanceCons n g = { g with cons := (advanceCons n g).cons }) ∧
  (∀ (w : World) (k : RingKind) (v : Nat) (s : State), ringOk (ringOf s w .command) → ringOk (ringOf s w k) →
    ringOk (ringOf (doorbell w v s) w .command) ∧ ringOk (ringOf (headWrite w k v s) w k) ∧
    (ringSize (ringOf s w .command) ≤ v →
      ringOf (doorbell w v s) w .command = { ringOf s w .command with dbErr := true }) ∧
    (k ≠ .command → hasRing w k = true → ringSize (ringOf s w k) ≤ v →
      ringOf (headWrite w k v s) w k = { ringOf s w k with dbErr := true }))

/-- A command changes nothing but the protocol's own state, the performance counters, the event flags and log of a refused
cross-world access, the counters it clears and the count of free values drawn. -/
def Sys2Proof.Machine.ReadsOnly (c : Instr) : Prop :=
  ∀ s t : State, exec c s = .next t →
    t = { s with fresh := t.fresh, qcp := t.qcp, evc := t.evc, pmu := t.pmu, log := t.log, ctrs := t.ctrs }

/-- The commands that read status, counters and records change nothing else. QCP_CANCEL, which ends a command, TIME_IO_READ, which
takes the captures, and APOGEE_READ, which clears the apogees, are not among them. -/
def Obligations.ReadingCommandsChangeNothingElse : Prop :=
  (∀ h slice, ReadsOnly (.agentStatus h slice)) ∧ (∀ h slice clear, ReadsOnly (.agentCounters h slice clear)) ∧
  (∀ h slice port, ReadsOnly (.bufStatus h slice port)) ∧ (∀ h isPort n clear, ReadsOnly (.bufCounters h isPort n clear)) ∧
  (∀ h, ReadsOnly (.timeStatus h)) ∧ (∀ h, ReadsOnly (.timeRead h)) ∧
  (∀ h first count, ReadsOnly (.preemptStatus h first count)) ∧ (∀ h port queue, ReadsOnly (.queueShaperGet h port queue)) ∧
  (∀ h port queue clear, ReadsOnly (.histRead h port queue clear)) ∧
  (∀ h port clear, ReadsOnly (.queueCounters h port clear)) ∧ (∀ h slice clear, ReadsOnly (.fabricCounters h slice clear)) ∧
  (∀ h slice block, ReadsOnly (.fabricStatus h slice block)) ∧ (∀ h slice, ReadsOnly (.flowStatus h slice)) ∧
  (∀ h slice clear, ReadsOnly (.flowCounters h slice clear)) ∧ (∀ h port clear, ReadsOnly (.parseCounters h port clear)) ∧
  (∀ h first count, ReadsOnly (.hbmStatus h first count)) ∧ (∀ h channel, ReadsOnly (.hbmFreezeRead h channel)) ∧
  (∀ h channel first count, ReadsOnly (.hbmEccRead h channel first count)) ∧ (∀ h port, ReadsOnly (.macsecStatus h port)) ∧
  (∀ h port clear, ReadsOnly (.macsecCounters h port clear)) ∧ (∀ h, ReadsOnly (.modeStatus h)) ∧
  (∀ h first count, ReadsOnly (.tabletStatus h first count)) ∧
  (∀ h blocks snapshot clear, ReadsOnly (.pmuRead h blocks snapshot clear)) ∧ (∀ h, ReadsOnly (.logStatus h)) ∧
  (∀ h cls first count, ReadsOnly (.logRead h cls first count)) ∧ (∀ h first count, ReadsOnly (.portStatus h first count)) ∧
  (∀ h port clear, ReadsOnly (.portCounters h port clear)) ∧ (∀ h first count, ReadsOnly (.laneStatus h first count)) ∧
  (∀ h, ReadsOnly (.cartStatus h)) ∧ (∀ h, ReadsOnly (.moduleInfo h)) ∧ (∀ h data, ReadsOnly (.qcpEcho h data)) ∧
  (∀ h clear, ReadsOnly (.qcpStats h clear)) ∧ (∀ h slice idx, ReadsOnly (.ruleRead h slice idx)) ∧
  (∀ h slice, ReadsOnly (.arrayStatus h slice)) ∧ (∀ h, ReadsOnly (.routeStatus h)) ∧
  (∀ h slice clear, ReadsOnly (.excCounters h slice clear)) ∧ (∀ h slice task, ReadsOnly (.taskRead h slice task)) ∧
  (∀ h slice, ReadsOnly (.traceRead h slice)) ∧ (∀ h, ReadsOnly (.ttStatus h)) ∧
  (∀ h first count, ReadsOnly (.ttShedRead h first count)) ∧ (∀ h first count, ReadsOnly (.ttAggRead h first count)) ∧
  (∀ h slice, ReadsOnly (.ucodeStatus h slice)) ∧ (∀ h, ReadsOnly (.ruleVersionStatus h)) ∧
  (∀ h kind first count, ReadsOnly (.worldStatus h kind first count)) ∧ (∀ h nonce, ReadsOnly (.moduleAttest h nonce))

/-- A channel's activation table: at most 32 entries, no row twice. -/
def Sys2Proof.Machine.actsOk (l : List ActCount) : Prop := l.length ≤ 32 ∧ (l.map (fun a => (a.bank, a.row))).Nodup

/-- Counting activations (R222). -/
def Obligations.ActivationsAreCounted : Prop :=
  (∀ (b r : Nat) (l : List ActCount), actsOk l → actsOk (countAct b r l)) ∧
  (∀ (b r n : Nat) (pre post : List ActCount), actsOk (pre ++ ⟨b, r, n⟩ :: post) →
    countAct b r (pre ++ ⟨b, r, n⟩ :: post) = pre ++ ⟨b, r, n + 1⟩ :: post) ∧
  (∀ (b r : Nat) (l : List ActCount), (∀ e ∈ l, (e.bank, e.row) ≠ (b, r)) → l.length < 32 →
    countAct b r l = l ++ [⟨b, r, 1⟩]) ∧
  (∀ (b r : Nat) (l : List ActCount), (∀ e ∈ l, (e.bank, e.row) ≠ (b, r)) → l.length = 32 →
    ∃ pre x post, l = pre ++ x :: post ∧ (∀ e ∈ l, x.count ≤ e.count) ∧ (∀ e ∈ pre, x.count < e.count) ∧
      countAct b r l = pre ++ ⟨b, r, x.count + 1⟩ :: post) ∧
  (∀ (b r x y : Nat), (x, y) ∈ neighbours b r ↔ x = b ∧ y < 16384 ∧ (y + 2 = r ∨ y + 1 = r ∨ y = r + 1 ∨ y = r + 2)) ∧
  (∀ (c off : Nat) (s : State), chanOf (activate c off s) c =
    { chanOf s c with acts := countAct (bankRow s off).1 (bankRow s off).2 (chanOf s c).acts })

/-- What an enabled meter does at the end of a cycle in which its queue selected nothing, as R205 writes it. -/
def Sys2Proof.Machine.meterCycle (w : BitVec 64) (held : Bool) (c : Int) : Int :=
  if held = true ∨ c < 0 ∨ mEmptyReset w = false then min (c + mSlope w) (mHi w) else min c 0

/-- The credit meters' accrual (R204 to R206). -/
def Obligations.CreditFollowsR205 : Prop :=
  (∀ (w : BitVec 64) (held : Bool) (n : Nat) (c : Int), mEn w = true → accrue w held n c = (meterCycle w held)^[n] c) ∧
  (∀ (w : BitVec 64) (held : Bool) (n : Nat) (c : Int), mEn w = false → accrue w held n c = c) ∧
  (∀ (t : Nat) (w : BitVec 64) (q : QueueSt), q.creditAt ≤ t →
    (setMeterWord t w q).word = w ∧ (setMeterWord t w q).wordNx = none ∧ (setMeterWord t w q).creditAt = t ∧
    (mByte w = mByte q.word ∧ mEn w = mEn q.word →
      (setMeterWord t w q).credit = max (-(mLo w)) (min (mHi w) (creditAtCycle q t)) ∧
      -(mLo w) ≤ (setMeterWord t w q).credit ∧ (setMeterWord t w q).credit ≤ mHi w) ∧
    (mByte w ≠ mByte q.word ∨ mEn w ≠ mEn q.word → (setMeterWord t w q).credit = 0))

/-- PORT_ADMIN (R46). -/
def Obligations.PortAdminFollowsR46 : Prop :=
  ∀ (h : Hdr) (port : Nat) (up halve : Bool) (s : State) (w : World),
    starts { code := 0x0203, world := .nonSecure } h w s = true →
    let u := atFetch { code := 0x0203, world := .nonSecure } h s
    let carried (b : QAgg) : Prop := b ∈ guaranteed u ∧ (egressOf u b port = true ∨ ingressOf u b.agg port = true)
    (∀ ps, portOf u port = some ps → (up = true ∨ ∀ b, ¬ carried b) → replyFits u h.ring none [] = true →
      ∃ e : State, exec (.portAdmin h port up halve) s = .next (replied h 0x0203 .ok none [] e s) ∧
        e.ports.map = u.ports.map ∧ (portOf e port).map (fun x => x.admin) = some up) ∧
    (∀ ps b, portOf u port = some ps → up = false → carried b →
      ∃ a : QAgg, carried a ∧ (∀ b, carried b → a.agg ≤ b.agg) ∧
        exec (.portAdmin h port up halve) s =
          .next (replied h 0x0203 .resourceClaimed (some (.aggregate a.agg)) [] u s))

/-- Notes (R362). -/
def Obligations.NotesFollowR362 : Prop :=
  ∀ (h : Hdr) (note : List Byte) (s : State) (w : World), starts { code := 0x0D03 } h w s = true →
    ringWorld (atFetch { code := 0x0D03 } h s) h.ring = some w →
    let u := atFetch { code := 0x0D03 } h s
    let last := tget u.log.noteAt w 0
    (last = 0 ∨ last + 1600000000 ≤ u.time.now + 1 → 1 ≤ note.length → note.length ≤ 32 →
      replyFits u h.ring none [fld "RECORD" (logRecords u .notes).length] = true →
      ∃ e : State, exec (.logAnnotate h note) s =
          .next (replied h 0x0D03 .ok none [fld "RECORD" (logRecords u .notes).length] e s) ∧
        e.log.recs.getLast? = some ⟨.notes, "NOTE", some w, u.time.orbit, note.map (fun b => b.toNat)⟩ ∧
        noteBusy e w = true ∧ (∀ w', w' ≠ w → noteBusy e w' = noteBusy u w')) ∧
    (last ≠ 0 → u.time.now + 1 < last + 1600000000 →
      exec (.logAnnotate h note) s = .next (replied h 0x0D03 .busy none [] u s)) ∧
    (last = 0 ∨ last + 1600000000 ≤ u.time.now + 1 → note.length = 0 ∨ 32 < note.length →
      exec (.logAnnotate h note) s = .next (replied h 0x0D03 .badParam (some (.param (po 0))) [] u s))

/-- Histogram bins (R208, R210, Table 9-5). -/
def Obligations.HistogramBinsSaturate : Prop :=
  (∀ v, histBin v < 20 ∧ (histBin v = 0 ↔ v = 0) ∧
    (∀ j, 1 ≤ j → j ≤ 18 → (histBin v = j ↔ 2 ^ (j - 1) ≤ v ∧ v ≤ 2 ^ j - 1)) ∧ (histBin v = 19 ↔ 262144 ≤ v)) ∧
  (∀ (c : Ctr) (p q v : Nat) (s : State), histAdd c p q v s = { s with egr := { s.egr with
    samples := s.egr.samples ++ [(c, p, q * 20 + histBin v)] } }) ∧
  (∀ (e : Ctr × Nat × Nat) (s : State), ctr s e.1 e.2.1 e.2.2 ≤ 2 ^ 48 - 1 →
    ctr (binAdd e s) e.1 e.2.1 e.2.2 = min (ctr s e.1 e.2.1 e.2.2 + 1) (2 ^ 48 - 1) ∧
    (∀ c i j, (c, i, j) ≠ e → ctr (binAdd e s) c i j = ctr s c i j) ∧ binAdd e s = { s with ctrs := (binAdd e s).ctrs }) ∧
  (∀ (e : Ctr × Nat × Nat) (s : State), ctr s e.1 e.2.1 e.2.2 ≤ 2 ^ 48 - 1 →
    ctr (observeEnd s) e.1 e.2.1 e.2.2 = min (ctr s e.1 e.2.1 e.2.2 + s.egr.samples.count e) (2 ^ 48 - 1))

/-- The irrevocable point and TT_ABORT (R36). -/
def Obligations.AbortFollowsR36 : Prop :=
  (∀ (h : Hdr) (version : Nat) (c : PendingCommit) (s : State) (w : World),
    starts { code := 0x0303, world := .secure } h w s = true →
    let u := atFetch { code := 0x0303, world := .secure } h s
    u.tt.commit = some c → c.version = version →
    (80000 < cyclesToTarget u c.target → c.irrevocable = false → replyFits u h.ring none [] = true →
      ∃ e : State, exec (.ttAbort h version) s = .next (replied h 0x0303 .ok none [] e s) ∧
        e.tt = { u.tt with commit := none } ∧
        e = finish c.hdr 0x0302 .cancelled none [] { u with tt := { u.tt with commit := none } }) ∧
    (cyclesToTarget u c.target ≤ 80000 ∨ c.irrevocable = true →
      exec (.ttAbort h version) s = .next (replied h 0x0303 .running none [] u s))) ∧
  (∀ (c : PendingCommit) (s : State), s.tt.commit = some c → c.irrevocable = false → 80000 < cyclesToTarget s c.target →
    exec .ttCommitIrrevocable s = .next s) ∧
  (∀ (c : PendingCommit) (i : TtImage) (s : State), s.tt.commit = some c → c.irrevocable = false → cyclesToTarget s c.target ≤ 80000 →
    (recountLost s).tt.staged = some i → revalidates (recountLost s) c i = true →
    ∃ t, exec .ttCommitIrrevocable s = .next t ∧ t.tt.commit = some { c with irrevocable := true })

/-- Where R122 places a record. -/
def Obligations.PlacementNeverOverwrites : Prop :=
  ∀ (s : State) (k : Nat) (r : FlowRec) (resident : Bool), k < 32 → 0 < s.flow.b → s.flow.b ≤ 2 ^ 25 → s.flow.stash ≤ 32768 →
    ((findRec s k (recKey r)).isSome = true → placeFor s k r resident = .inl .learnExists) ∧
    ∀ i, placeFor s k r resident = .inr i →
      findRec s k (recKey r) = none ∧ recAt s i = none ∧ idxSlice i = k ∧
      (idxOnDie i = true → rowOpen s k (idxPlace i) = true ∧
        (if resident then idxPlace i < 32768 - s.flow.stash else 32768 - s.flow.stash ≤ idxPlace i ∧ idxPlace i < 32768) ∧
        (r.ext.isSome = true → idxPlace i % 2 = 0 ∧ tfind s.flow.resident (k, idxPlace i + 1) = none)) ∧
      (idxOnDie i = false → resident = false ∧ idxPlace i / 2 = bucketOf (hashOfKey s r.key) s.flow.b ∧
        chanActive s (chanOfPlace (idxPlace i)) = true ∧
        (r.ext.isSome = true → idxPlace i % 2 = 0 ∧ tfind s.flow.hbm (k, idxPlace i + 1) = none))

/-- Packet numbers of transmit SAs (R258). -/
def Obligations.PacketNumbersAreNotReused : Prop :=
  ∀ (s : State) (p len : Nat) (ps : PortSt), portOf s p = some ps → ps.pol.txProtect ≠ .off →
    (∀ n, (protectFrame p len false s).1 = some n → ∃ ch c an a a',
      txChan s p = some (ch, c) ∧ c.enc = some an ∧ tfind c.sas an = some a ∧
      a.done = false ∧ a.next ≤ hardOf c a.p.suite ∧
      tfind (protectFrame p len false s).2.sec.chans ch = some { c with sas := tset c.sas an a' } ∧
      a'.next = a.next + 1 ∧ a'.p = a.p ∧ (a'.done = true ↔ a.next = hardOf c a.p.suite) ∧
      (∀ x, x ≠ an → tfind (tset c.sas an a') x = tfind c.sas x) ∧
      n = len + (if ps.pol.includeSci then 16 else 8) + 16) ∧
    (∀ ch c an a, txChan s p = some (ch, c) → c.enc = some an → tfind c.sas an = some a →
      (a.done = true ∨ hardOf c a.p.suite < a.next) →
      protectFrame p len false s = (none, bump .txSaExhaustedDrop p 0 s))

/-- Counting an event (R353, R354). -/
def Obligations.EventsCountWhereSelected : Prop :=
  ∀ (s : State) (block code qual n : Nat),
    pmcCount block code qual n s = (if (List.range 8).any (fun i => pmcMatches (tget s.pmu.ctl (block, i) 0) code qual) = true
      then { s with pmu := { s.pmu with now := s.pmu.now ++ [(block, code, qual, n)] } } else s) ∧
    (∀ k, tget (pmcAdd k n s).pmu.pmc k 0 = (tget s.pmu.pmc k 0 + n) % 2 ^ 48 ∧
      tget (pmcAdd k n s).pmu.ctl k 0 = (if tget s.pmu.pmc k 0 + n < 2 ^ 48 then tget s.pmu.ctl k 0
        else tget s.pmu.ctl k 0 ||| BitVec.ofNat 64 (2 ^ 12)) ∧
      (∀ k', k' ≠ k → tget (pmcAdd k n s).pmu.pmc k' 0 = tget s.pmu.pmc k' 0 ∧
        tget (pmcAdd k n s).pmu.ctl k' 0 = tget s.pmu.ctl k' 0) ∧
      pmcAdd k n s = { s with pmu := { s.pmu with ctl := (pmcAdd k n s).pmu.ctl, pmc := (pmcAdd k n s).pmu.pmc } }) ∧
    (∀ k, (s.pmu.ctl.map (fun e => e.1)).Nodup → k ∈ s.pmu.ctl.map (fun e => e.1) → (∀ x ∈ s.pmu.cfg, x.1 ≠ k) →
      tget s.pmu.pmc k 0 < 2 ^ 48 →
      tget (pmcEnd s).pmu.pmc k 0 = (tget s.pmu.pmc k 0 + pmcGain s k) % 2 ^ 48 ∧ (pmcEnd s).pmu.now = [] ∧
      (pmcEnd s).pmu.occ = []) ∧
    (∀ ctl : BitVec 64, pmcMatches ctl code qual = true ↔
      ctl.getLsbD 10 = true ∧ (ctl.getLsbD 11 = true ↔ code % 256 ≥ 128) ∧ field ctl 0 10 = code ∧
        (ctl.getLsbD 30 = true ∨ field ctl 16 14 = qual))


/-- TT_LOAD's row of Table 1-10. -/
def Sys2Proof.ttLoadOp : Op := { code := 0x0301, world := .secure, host := true }

/-- What TT_LOAD refuses (R33, R40, R41). That BUSY comes before every other refusal and leaves the staged image is log entry 14. -/
def Obligations.ImagesAreRefusedByTheirBytes : Prop :=
  (∀ h bytes, Refuses (.ttLoad h bytes) h (fun _ => ttLoadOp) (fun s => s.tt.commit.isSome = true) .busy (fun _ => none)) ∧
  (∀ h bytes s w st d, starts ttLoadOp h w s = true → (atFetch ttLoadOp h s).tt.commit = none →
    imageRefusal (atFetch ttLoadOp h s) (readImage bytes) = some (st, d) →
    let u := atFetch ttLoadOp h s
    exec (.ttLoad h bytes) s = .next (replied h 0x0301 st d [] { u with tt := { u.tt with staged := none } } s)) ∧
  (∀ (s : State) (bytes : List Byte),
    num bytes 0 4 ≠ 0x48545432 ∨ num bytes 4 2 ≠ 2 ∨ num bytes 0xC 4 ≠ bytes.length ∨ 268435456 < bytes.length ∨
      beNat (span bytes 0x48 48) ≠ beNat (sha384 (undigested bytes)) →
    ∃ d, imageRefusal s (readImage bytes) = some (.badParam, d)) ∧
  (∀ (s : State) (bytes : List Byte), imageRefusal s (readImage bytes) = none →
    num bytes 6 2 = 0x00B0 ∧ beNat (span bytes 0x18 48) = portDigest (mapAhead s) ∧
    (∀ t ∈ [1, 2, 3, 4, 5, 6, 8, 9, 10],
      ((readImage bytes).dir.filter (fun d => secType d.body == t)).length = 1) ∧
    ((readImage bytes).dir.filter (fun d => secType d.body == 7)).length = (if num bytes 0x14 2 = 0 then 0 else 1) ∧
    (∀ d ∈ (readImage bytes).dir, d.sound = true ∧ sectionOk (readImage bytes) d.body = true) ∧
    (∀ es ∈ calSections (readImage bytes), ∀ c e, es[c]? = some e → (calRetired e = true ↔ (chanOf s c).st = .retired)))
end

