-- ==== Sys2Proof/Laws/Digest.lean ====
section
/-! SUPPORT. The lengths of SHA-384's parts, and an image with its digest taken as zero. -/

namespace Sys2Proof.Machine

@[simp] theorem shaRound_length (v : List W64) (k w : W64) : (shaRound v k w).length = v.length := by
  unfold shaRound
  split <;> rfl

@[simp] theorem shaRounds_length (ks w v : List W64) : (shaRounds ks w v).length = v.length := by
  induction ks generalizing w v with
  | nil => rfl
  | cons k ks ih => simp [shaRounds, ih]

@[simp] theorem shaBlocks_length (n : Nat) (bs : List Byte) (h : List W64) : (shaBlocks n bs h).length = h.length := by
  induction n generalizing bs h with
  | zero => rfl
  | succ n ih => simp [shaBlocks, ih]

theorem semiBytes_length (l : List (BitVec 64)) : (semiBytes l).length = 8 * l.length := by
  induction l with
  | nil => rfl
  | cons x l ih => simp [semiBytes] at *; omega

@[simp] theorem sha384_length (bs : List Byte) : (sha384 bs).length = 48 := by
  simp [sha384, semiBytes_length, shaInit]

/-- A digest's bytes, one by one. -/
theorem sha384_bytes (bs : List Byte) : (List.range 48).map (fun i => (sha384 bs).getD i 0) = sha384 bs := by
  apply List.ext_getElem
  · simp
  · intro i h1 h2
    simp at h2
    simp [List.getD_eq_getElem?_getD, h2]

/-- Whatever stands in the digest's field, it is read as zero. -/
theorem undigested_append (a d b : List Byte) (ha : a.length = 0x48) (hd : d.length = 48) :
    undigested (a ++ d ++ b) = a ++ List.replicate 48 0 ++ b := by
  simp [undigested, List.take_append, List.drop_append, ha, hd, List.drop_of_length_le]

/-- What stands in the digest's field. -/
theorem span_digest (a d b : List Byte) (ha : a.length = 0x48) (hd : d.length = 48) : span (a ++ d ++ b) 0x48 48 = d := by
  simp [span, List.drop_append, ha, hd, List.take_append, List.take_of_length_le]

end Sys2Proof.Machine
end

