-- ==== Sys2Proof/Laws/Memory.lean ====
section
/-! SUPPORT. An agent's data memory: every operation keeps its canonical form, and reading after writing a byte. -/

namespace Sys2Proof.Machine

/-- Reading any byte after a write of one. -/
theorem cellGet_cellSet (m : List Host.Cell) (a b : Nat) (v : Byte) (h : m.Pairwise (fun x y => x.1 < y.1)) : cellGet (cellSet a v m) b = if a = b then v else cellGet m b := by
  induction m with
  | nil =>
    simp only [cellSet]
    split
    · rename_i h; subst h; simp [cellGet]
    · simp [cellGet]
  | cons c r ih =>
    obtain ⟨k, w⟩ := c
    rw [List.pairwise_cons] at h
    have hnot : ∀ (l : List Host.Cell) (x : Nat), (∀ y ∈ l, x < y.1) → cellGet l x = 0 := by
      intro l x
      induction l with
      | nil => intro _; rfl
      | cons d l ihl =>
        intro hl
        have := hl d (by simp)
        obtain ⟨k', w'⟩ := d
        simp only [cellGet]
        rw [if_neg (by dsimp only at this; omega)]
        exact ihl (fun y hy => hl y (by simp [hy]))
    simp only [cellSet]
    split
    · rename_i hk; subst hk
      split
      · rename_i hv; subst hv
        by_cases hb : k = b
        · subst hb; rw [if_pos rfl]; exact hnot r k (fun y hy => h.1 y hy)
        · simp [cellGet, hb]
      · simp only [cellGet]; split <;> rfl
    · rename_i hk
      split
      · rename_i hlt
        split
        · rename_i hv; subst hv
          by_cases hb : a = b
          · subst hb
            rw [if_pos rfl]
            apply hnot
            intro y hy
            rcases List.mem_cons.1 hy with rfl | hy
            · exact hlt
            · have := h.1 y hy; dsimp only at this; omega
          · simp [hb]
        · simp only [cellGet]
      · simp only [cellGet, ih h.2]
        by_cases hb : a = b
        · subst hb; simp [hk]
        · simp [hb]
/-- The canonical form as a proposition. -/
def Memory.Canon (m : List Host.Cell) : Prop := m.Pairwise (fun x y => x.1 < y.1) ∧ ∀ c ∈ m, c.2 ≠ 0
theorem Memory.wf_iff (m : List Host.Cell) : Memory.wf m = true ↔ Memory.Canon m := by simp [Memory.wf, Memory.Canon]
/-- A cell of the memory after a write is an old one or the one written. -/
theorem mem_cellSet (m : List Host.Cell) (a : Nat) (v : Byte) (c : Host.Cell) (h : c ∈ cellSet a v m) : c ∈ m ∨ (c = (a, v) ∧ v ≠ 0) := by
  induction m with
  | nil => simp only [cellSet] at h; split at h <;> simp_all
  | cons d r ih =>
    obtain ⟨k, w⟩ := d
    simp only [cellSet] at h
    split at h
    · split at h
      · exact Or.inl (by simp [h])
      · rcases List.mem_cons.1 h with h | h
        · exact Or.inr ⟨h, by assumption⟩
        · exact Or.inl (by simp [h])
    · split at h
      · split at h
        · exact Or.inl h
        · rcases List.mem_cons.1 h with h | h
          · exact Or.inr ⟨h, by assumption⟩
          · exact Or.inl h
      · rcases List.mem_cons.1 h with h | h
        · exact Or.inl (by simp [h])
        · rcases ih h with h | h
          · exact Or.inl (by simp [h])
          · exact Or.inr h
/-- A write keeps the canonical form. -/
theorem canon_cellSet (m : List Host.Cell) (a : Nat) (v : Byte) (h : Memory.Canon m) : Memory.Canon (cellSet a v m) := by
  refine ⟨?_, ?_⟩
  · have := h.1
    clear h
    induction m with
    | nil => simp only [cellSet]; split <;> simp
    | cons d r ih =>
      obtain ⟨k, w⟩ := d
      rw [List.pairwise_cons] at this
      simp only [cellSet]
      split
      · rename_i hk; subst hk
        split
        · exact this.2
        · exact List.pairwise_cons.2 ⟨this.1, this.2⟩
      · split
        · rename_i hlt
          split
          · exact List.pairwise_cons.2 this
          · refine List.pairwise_cons.2 ⟨?_, List.pairwise_cons.2 this⟩
            intro y hy
            rcases List.mem_cons.1 hy with rfl | hy
            · exact hlt
            · have := this.1 y hy; dsimp only at *; omega
        · rename_i h1 h2
          refine List.pairwise_cons.2 ⟨?_, ih this.2⟩
          intro y hy
          rcases mem_cellSet _ _ _ _ hy with hy | ⟨rfl, -⟩
          · exact this.1 y hy
          · dsimp only; omega
  · intro c hc
    rcases mem_cellSet _ _ _ _ hc with hc | ⟨rfl, hv⟩
    · exact h.2 c hc
    · exact hv

/-- A stored word keeps the canonical form. -/
theorem wf_memWrite (m : List Host.Cell) (a : Nat) (v : W64) (h : Memory.wf m = true) : Memory.wf (memWrite m a v) = true := by
  rw [Memory.wf_iff] at *
  unfold memWrite
  generalize List.range 8 = l
  induction l generalizing m with
  | nil => exact h
  | cons i l ih => exact ih _ (canon_cellSet _ _ _ h)

/-- The memory of an agent at reset lists nothing and has the canonical form. -/
theorem wf_reset : AgentSt.init.mem = [] ∧ State.reset.agents = [] ∧ Memory.wf AgentSt.init.mem = true := ⟨rfl, rfl, by decide⟩

end Sys2Proof.Machine
end

