-- ==== Sys2Proof/Laws/Protocol.lean ====
section
/-! SUPPORT. What a protocol row does once its command starts. -/

namespace Sys2Proof.Machine

theorem within_next (s t : State) : within s (.next t) = .next (keeping s t) := rfl

/-- A reply changes the protocol's state and the counters, and nothing else. -/
theorem answer_frame (h : Hdr) (code : Nat) (st : Status) (d : Option Detail) (rs : List RField) (s : State) :
    ∃ q c, answer h code st d rs s = { s with qcp := q, ctrs := c } := by
  simp only [answer, settleRing, bump, bumpBy, updRing]
  repeat' split
  all_goals exact ⟨_, _, rfl⟩

@[simp] theorem answer_pending (h : Hdr) (code : Nat) (st : Status) (d : Option Detail) (rs : List RField) (s : State) :
    (answer h code st d rs s).pending = s.pending := by
  obtain ⟨q, c, e⟩ := answer_frame h code st d rs s
  rw [e]

@[simp] theorem answer_fresh (h : Hdr) (code : Nat) (st : Status) (d : Option Detail) (rs : List RField) (s : State) :
    (answer h code st d rs s).fresh = s.fresh := by
  obtain ⟨q, c, e⟩ := answer_frame h code st d rs s
  rw [e]

@[simp] theorem answer_nextFid (h : Hdr) (code : Nat) (st : Status) (d : Option Detail) (rs : List RField) (s : State) :
    (answer h code st d rs s).nextFid = s.nextFid := by
  obtain ⟨q, c, e⟩ := answer_frame h code st d rs s
  rw [e]

@[simp] theorem answer_time (h : Hdr) (code : Nat) (st : Status) (d : Option Detail) (rs : List RField) (s : State) :
    (answer h code st d rs s).time = s.time := by
  obtain ⟨q, c, e⟩ := answer_frame h code st d rs s
  rw [e]

@[simp] theorem answer_clock (h : Hdr) (code : Nat) (st : Status) (d : Option Detail) (rs : List RField) (s : State) :
    (answer h code st d rs s).clock = s.clock := by
  obtain ⟨q, c, e⟩ := answer_frame h code st d rs s
  rw [e]

@[simp] theorem answer_tt (h : Hdr) (code : Nat) (st : Status) (d : Option Detail) (rs : List RField) (s : State) :
    (answer h code st d rs s).tt = s.tt := by
  obtain ⟨q, c, e⟩ := answer_frame h code st d rs s
  rw [e]

@[simp] theorem answer_ports (h : Hdr) (code : Nat) (st : Status) (d : Option Detail) (rs : List RField) (s : State) :
    (answer h code st d rs s).ports = s.ports := by
  obtain ⟨q, c, e⟩ := answer_frame h code st d rs s
  rw [e]

@[simp] theorem answer_ver (h : Hdr) (code : Nat) (st : Status) (d : Option Detail) (rs : List RField) (s : State) :
    (answer h code st d rs s).ver = s.ver := by
  obtain ⟨q, c, e⟩ := answer_frame h code st d rs s
  rw [e]

@[simp] theorem answer_arr (h : Hdr) (code : Nat) (st : Status) (d : Option Detail) (rs : List RField) (s : State) :
    (answer h code st d rs s).arr = s.arr := by
  obtain ⟨q, c, e⟩ := answer_frame h code st d rs s
  rw [e]

@[simp] theorem answer_flow (h : Hdr) (code : Nat) (st : Status) (d : Option Detail) (rs : List RField) (s : State) :
    (answer h code st d rs s).flow = s.flow := by
  obtain ⟨q, c, e⟩ := answer_frame h code st d rs s
  rw [e]

@[simp] theorem answer_ucode (h : Hdr) (code : Nat) (st : Status) (d : Option Detail) (rs : List RField) (s : State) :
    (answer h code st d rs s).ucode = s.ucode := by
  obtain ⟨q, c, e⟩ := answer_frame h code st d rs s
  rw [e]

@[simp] theorem answer_frames (h : Hdr) (code : Nat) (st : Status) (d : Option Detail) (rs : List RField) (s : State) :
    (answer h code st d rs s).frames = s.frames := by
  obtain ⟨q, c, e⟩ := answer_frame h code st d rs s
  rw [e]

@[simp] theorem answer_trapHw (h : Hdr) (code : Nat) (st : Status) (d : Option Detail) (rs : List RField) (s : State) :
    (answer h code st d rs s).trapHw = s.trapHw := by
  obtain ⟨q, c, e⟩ := answer_frame h code st d rs s
  rw [e]

@[simp] theorem answer_fab (h : Hdr) (code : Nat) (st : Status) (d : Option Detail) (rs : List RField) (s : State) :
    (answer h code st d rs s).fab = s.fab := by
  obtain ⟨q, c, e⟩ := answer_frame h code st d rs s
  rw [e]

@[simp] theorem answer_egr (h : Hdr) (code : Nat) (st : Status) (d : Option Detail) (rs : List RField) (s : State) :
    (answer h code st d rs s).egr = s.egr := by
  obtain ⟨q, c, e⟩ := answer_frame h code st d rs s
  rw [e]

@[simp] theorem answer_hbm (h : Hdr) (code : Nat) (st : Status) (d : Option Detail) (rs : List RField) (s : State) :
    (answer h code st d rs s).hbm = s.hbm := by
  obtain ⟨q, c, e⟩ := answer_frame h code st d rs s
  rw [e]

@[simp] theorem answer_sec (h : Hdr) (code : Nat) (st : Status) (d : Option Detail) (rs : List RField) (s : State) :
    (answer h code st d rs s).sec = s.sec := by
  obtain ⟨q, c, e⟩ := answer_frame h code st d rs s
  rw [e]

@[simp] theorem answer_agents (h : Hdr) (code : Nat) (st : Status) (d : Option Detail) (rs : List RField) (s : State) :
    (answer h code st d rs s).agents = s.agents := by
  obtain ⟨q, c, e⟩ := answer_frame h code st d rs s
  rw [e]

@[simp] theorem answer_evc (h : Hdr) (code : Nat) (st : Status) (d : Option Detail) (rs : List RField) (s : State) :
    (answer h code st d rs s).evc = s.evc := by
  obtain ⟨q, c, e⟩ := answer_frame h code st d rs s
  rw [e]

@[simp] theorem answer_world (h : Hdr) (code : Nat) (st : Status) (d : Option Detail) (rs : List RField) (s : State) :
    (answer h code st d rs s).world = s.world := by
  obtain ⟨q, c, e⟩ := answer_frame h code st d rs s
  rw [e]

@[simp] theorem answer_mode (h : Hdr) (code : Nat) (st : Status) (d : Option Detail) (rs : List RField) (s : State) :
    (answer h code st d rs s).mode = s.mode := by
  obtain ⟨q, c, e⟩ := answer_frame h code st d rs s
  rw [e]

@[simp] theorem answer_pmu (h : Hdr) (code : Nat) (st : Status) (d : Option Detail) (rs : List RField) (s : State) :
    (answer h code st d rs s).pmu = s.pmu := by
  obtain ⟨q, c, e⟩ := answer_frame h code st d rs s
  rw [e]

@[simp] theorem answer_log (h : Hdr) (code : Nat) (st : Status) (d : Option Detail) (rs : List RField) (s : State) :
    (answer h code st d rs s).log = s.log := by
  obtain ⟨q, c, e⟩ := answer_frame h code st d rs s
  rw [e]

@[simp] theorem answer_mmc (h : Hdr) (code : Nat) (st : Status) (d : Option Detail) (rs : List RField) (s : State) :
    (answer h code st d rs s).mmc = s.mmc := by
  obtain ⟨q, c, e⟩ := answer_frame h code st d rs s
  rw [e]

/-- Only an opcode row's code matters to the fetch. -/
theorem atFetch_code {op op' : Op} (hc : op.code = op'.code) (h : Hdr) (s : State) : atFetch op h s = atFetch op' h s := by
  simp only [atFetch, hc]

/-- A command that starts runs its body on the state after its fetch. -/
theorem qcp_of_starts {op : Op} {h : Hdr} {w : World} {s : State} (body : State → Out) (hs : starts op h w s = true) :
    qcp op h body s =
      match body (atFetch op h s) with
      | .refuse st d => answer h op.code st d [] (atFetch op h s)
      | .done rs u =>
        if replyFits (atFetch op h s) h.ring none rs then answer h op.code .ok none rs u
        else answer h op.code .badLength none [] (atFetch op h s)
      | .pend u => answer h op.code .pending none [] u
      | .start u => markStarted h op.code u
      | .reply st d rs u => answer h op.code st d rs u := by
  simp only [starts, Bool.and_eq_true, Bool.not_eq_true', beq_iff_eq] at hs
  obtain ⟨⟨⟨⟨⟨⟨⟨hp, hr⟩, hf⟩, hh⟩, hw⟩, hm⟩, hl⟩, hi⟩ := hs
  unfold qcp
  rw [hp, hr]
  have hroom : (!s.qcp.exec.any (isFetched h op.code) &&
      (decide (inExec s h.ring ≥ execLimit h.ring) || (s.mmc.perst && h.ring != .inband))) = false := by
    cases hx : s.qcp.exec.any (isFetched h op.code) with
    | true => rfl
    | false =>
      rw [hx] at hf
      simp at hf
      simp [hf.1]
      cases hp : s.mmc.perst <;> simp_all
  have hfe : (if s.qcp.exec.any (isFetched h op.code) = true then s else fetchCmd h op.code none s) = atFetch op h s := rfl
  simp only [Bool.not_true, Bool.false_eq_true, if_false, hroom, hfe, hh]
  unfold runCmd
  simp only [hw, hm, hl, hi, Bool.not_true, Bool.false_eq_true, if_false]
  all_goals (cases body (atFetch op h s) <;> rfl)

/-- A row completes where its body comes to `done`. -/
theorem completes_of_done {c : Instr} {h : Hdr} {op : State → Op} {body : State → State → Out} {when_ : State → Prop}
    {rs : State → List RField} {eff : State → State}
    (hx : ∀ s, exec c s = within s (.next (qcp (op s) h (body s) s)))
    (hb : ∀ s u, when_ u → body s u = .done (rs u) (eff u)) :
    Completes c h op when_ rs eff := by
  intro s w hs hw hf
  rw [hx, within_next, qcp_of_starts _ hs, hb s _ hw]
  simp [hf, replied]

/-- A happening acts where its row's body answers the next state. -/
theorem acts_of_next {c : Instr} {when_ : State → Prop} {eff : State → State} {f : State → Host.Outcome State Fault Refusal}
    (hx : ∀ s, exec c s = within s (f s)) (hb : ∀ s, when_ s → f s = .next (eff s)) : Acts c when_ eff := by
  intro s hs
  rw [hx, hb s hs]
  rfl

/-- A row defers where its body comes to `pend`. -/
theorem defers_of_pend {c : Instr} {h : Hdr} {op : State → Op} {body : State → State → Out} {when_ : State → Prop}
    {eff : State → State}
    (hx : ∀ s, exec c s = within s (.next (qcp (op s) h (body s) s)))
    (hb : ∀ s u, when_ u → body s u = .pend (eff u)) :
    Defers c h op when_ eff := by
  intro s w hs hw
  rw [hx, within_next, qcp_of_starts _ hs, hb s _ hw]
  rfl

/-- A row begins where its body comes to `start`. -/
theorem begins_of_start {c : Instr} {h : Hdr} {op : State → Op} {body : State → State → Out} {when_ : State → Prop}
    {eff : State → State}
    (hx : ∀ s, exec c s = within s (.next (qcp (op s) h (body s) s)))
    (hb : ∀ s u, when_ u → body s u = .start (eff u)) :
    Begins c h op when_ eff := by
  intro s w hs hw
  rw [hx, within_next, qcp_of_starts _ hs, hb s _ hw]

/-- A row refuses where its body comes to `refuse`. -/
theorem refuses_of_refuse {c : Instr} {h : Hdr} {op : State → Op} {body : State → State → Out} {when_ : State → Prop}
    {st : Status} {d : State → Option Detail}
    (hx : ∀ s, exec c s = within s (.next (qcp (op s) h (body s) s)))
    (hb : ∀ s u, when_ u → body s u = .refuse st (d u)) :
    Refuses c h op when_ st d := by
  intro s w hs hw
  rw [hx, within_next, qcp_of_starts _ hs, hb s _ hw]
  rfl

end Sys2Proof.Machine
end

