-- ==== Sys2Proof/Laws/Tables.lean ====
section
/-! SUPPORT. Sparse tables: reading after writing, and what writing one key leaves of the others. -/

namespace Sys2Proof.Machine

variable {κ α : Type} [DecidableEq κ]

theorem tget_tset (t : Tab κ α) (k k' : κ) (v d : α) : tget (tset t k v) k' d = if k = k' then v else tget t k' d := by
  induction t with
  | nil => simp [tset, tget]
  | cons e r ih =>
    simp only [tset]
    split
    · rename_i h; subst h; simp only [tget]; split <;> rfl
    · rename_i h
      simp only [tget, ih]
      by_cases h2 : e.1 = k'
      · have : ¬ k = k' := fun h3 => h (by rw [h2, h3])
        simp [h2, this]
      · simp [h2]

@[simp] theorem tget_tset_self (t : Tab κ α) (k : κ) (v d : α) : tget (tset t k v) k d = v := by
  rw [tget_tset, if_pos rfl]

theorem tfind_tset (t : Tab κ α) (k k' : κ) (v : α) : tfind (tset t k v) k' = if k = k' then some v else tfind t k' := by
  induction t with
  | nil => simp [tset, tfind]
  | cons e r ih =>
    simp only [tset]
    split
    · rename_i h; subst h; simp only [tfind]; split <;> rfl
    · rename_i h
      simp only [tfind, ih]
      by_cases h2 : e.1 = k'
      · have : ¬ k = k' := fun h3 => h (by rw [h2, h3])
        simp [h2, this]
      · simp [h2]

@[simp] theorem tfind_tset_self (t : Tab κ α) (k : κ) (v : α) : tfind (tset t k v) k = some v := by
  rw [tfind_tset, if_pos rfl]

/-- A table's default and its absent keys agree. -/
theorem tget_eq_tfind (t : Tab κ α) (k : κ) (d : α) : tget t k d = (tfind t k).getD d := by
  induction t with
  | nil => rfl
  | cons e r ih =>
    simp only [tget, tfind]
    split
    · rfl
    · exact ih

theorem mem_insertNew {α : Type} [DecidableEq α] (x y : α) (l : List α) : y ∈ insertNew x l ↔ y = x ∨ y ∈ l := by
  unfold insertNew
  split
  · constructor
    · exact Or.inr
    · rintro (rfl | h)
      · assumption
      · exact h
  · simp [or_comm]

theorem insertNew_nodup {α : Type} [DecidableEq α] (x : α) (l : List α) (h : l.Nodup) : (insertNew x l).Nodup := by
  unfold insertNew
  split
  · exact h
  · rename_i hx
    rw [List.nodup_append]
    exact ⟨h, by simp, fun a ha b hb => by simp at hb; subst hb; rintro rfl; exact hx ha⟩

end Sys2Proof.Machine
end

