-- ==== Sys2Proof/Laws/State.lean ====
section
/-! SUPPORT. What each update of one part of State leaves of every other part, and what reading the part it updates gives. -/

namespace Sys2Proof.Machine

/-! ### bumpBy -/

@[simp] theorem bumpBy_pending (c : Ctr) (i j n : Nat) (s : State) : (bumpBy c i j n s).pending = s.pending := rfl
@[simp] theorem bumpBy_fresh (c : Ctr) (i j n : Nat) (s : State) : (bumpBy c i j n s).fresh = s.fresh := rfl
@[simp] theorem bumpBy_nextFid (c : Ctr) (i j n : Nat) (s : State) : (bumpBy c i j n s).nextFid = s.nextFid := rfl
@[simp] theorem bumpBy_time (c : Ctr) (i j n : Nat) (s : State) : (bumpBy c i j n s).time = s.time := rfl
@[simp] theorem bumpBy_clock (c : Ctr) (i j n : Nat) (s : State) : (bumpBy c i j n s).clock = s.clock := rfl
@[simp] theorem bumpBy_tt (c : Ctr) (i j n : Nat) (s : State) : (bumpBy c i j n s).tt = s.tt := rfl
@[simp] theorem bumpBy_ports (c : Ctr) (i j n : Nat) (s : State) : (bumpBy c i j n s).ports = s.ports := rfl
@[simp] theorem bumpBy_ver (c : Ctr) (i j n : Nat) (s : State) : (bumpBy c i j n s).ver = s.ver := rfl
@[simp] theorem bumpBy_arr (c : Ctr) (i j n : Nat) (s : State) : (bumpBy c i j n s).arr = s.arr := rfl
@[simp] theorem bumpBy_flow (c : Ctr) (i j n : Nat) (s : State) : (bumpBy c i j n s).flow = s.flow := rfl
@[simp] theorem bumpBy_ucode (c : Ctr) (i j n : Nat) (s : State) : (bumpBy c i j n s).ucode = s.ucode := rfl
@[simp] theorem bumpBy_frames (c : Ctr) (i j n : Nat) (s : State) : (bumpBy c i j n s).frames = s.frames := rfl
@[simp] theorem bumpBy_trapHw (c : Ctr) (i j n : Nat) (s : State) : (bumpBy c i j n s).trapHw = s.trapHw := rfl
@[simp] theorem bumpBy_fab (c : Ctr) (i j n : Nat) (s : State) : (bumpBy c i j n s).fab = s.fab := rfl
@[simp] theorem bumpBy_egr (c : Ctr) (i j n : Nat) (s : State) : (bumpBy c i j n s).egr = s.egr := rfl
@[simp] theorem bumpBy_hbm (c : Ctr) (i j n : Nat) (s : State) : (bumpBy c i j n s).hbm = s.hbm := rfl
@[simp] theorem bumpBy_sec (c : Ctr) (i j n : Nat) (s : State) : (bumpBy c i j n s).sec = s.sec := rfl
@[simp] theorem bumpBy_qcp (c : Ctr) (i j n : Nat) (s : State) : (bumpBy c i j n s).qcp = s.qcp := rfl
@[simp] theorem bumpBy_agents (c : Ctr) (i j n : Nat) (s : State) : (bumpBy c i j n s).agents = s.agents := rfl
@[simp] theorem bumpBy_evc (c : Ctr) (i j n : Nat) (s : State) : (bumpBy c i j n s).evc = s.evc := rfl
@[simp] theorem bumpBy_world (c : Ctr) (i j n : Nat) (s : State) : (bumpBy c i j n s).world = s.world := rfl
@[simp] theorem bumpBy_mode (c : Ctr) (i j n : Nat) (s : State) : (bumpBy c i j n s).mode = s.mode := rfl
@[simp] theorem bumpBy_pmu (c : Ctr) (i j n : Nat) (s : State) : (bumpBy c i j n s).pmu = s.pmu := rfl
@[simp] theorem bumpBy_log (c : Ctr) (i j n : Nat) (s : State) : (bumpBy c i j n s).log = s.log := rfl
@[simp] theorem bumpBy_mmc (c : Ctr) (i j n : Nat) (s : State) : (bumpBy c i j n s).mmc = s.mmc := rfl
@[simp] theorem bumpBy_late (c : Ctr) (i j n : Nat) (s : State) : (bumpBy c i j n s).late = s.late := rfl
@[simp] theorem bumpBy_ran (c : Ctr) (i j n : Nat) (s : State) : (bumpBy c i j n s).ran = s.ran := rfl

/-! ### bump -/

@[simp] theorem bump_pending (c : Ctr) (i j : Nat) (s : State) : (bump c i j s).pending = s.pending := rfl
@[simp] theorem bump_fresh (c : Ctr) (i j : Nat) (s : State) : (bump c i j s).fresh = s.fresh := rfl
@[simp] theorem bump_nextFid (c : Ctr) (i j : Nat) (s : State) : (bump c i j s).nextFid = s.nextFid := rfl
@[simp] theorem bump_time (c : Ctr) (i j : Nat) (s : State) : (bump c i j s).time = s.time := rfl
@[simp] theorem bump_clock (c : Ctr) (i j : Nat) (s : State) : (bump c i j s).clock = s.clock := rfl
@[simp] theorem bump_tt (c : Ctr) (i j : Nat) (s : State) : (bump c i j s).tt = s.tt := rfl
@[simp] theorem bump_ports (c : Ctr) (i j : Nat) (s : State) : (bump c i j s).ports = s.ports := rfl
@[simp] theorem bump_ver (c : Ctr) (i j : Nat) (s : State) : (bump c i j s).ver = s.ver := rfl
@[simp] theorem bump_arr (c : Ctr) (i j : Nat) (s : State) : (bump c i j s).arr = s.arr := rfl
@[simp] theorem bump_flow (c : Ctr) (i j : Nat) (s : State) : (bump c i j s).flow = s.flow := rfl
@[simp] theorem bump_ucode (c : Ctr) (i j : Nat) (s : State) : (bump c i j s).ucode = s.ucode := rfl
@[simp] theorem bump_frames (c : Ctr) (i j : Nat) (s : State) : (bump c i j s).frames = s.frames := rfl
@[simp] theorem bump_trapHw (c : Ctr) (i j : Nat) (s : State) : (bump c i j s).trapHw = s.trapHw := rfl
@[simp] theorem bump_fab (c : Ctr) (i j : Nat) (s : State) : (bump c i j s).fab = s.fab := rfl
@[simp] theorem bump_egr (c : Ctr) (i j : Nat) (s : State) : (bump c i j s).egr = s.egr := rfl
@[simp] theorem bump_hbm (c : Ctr) (i j : Nat) (s : State) : (bump c i j s).hbm = s.hbm := rfl
@[simp] theorem bump_sec (c : Ctr) (i j : Nat) (s : State) : (bump c i j s).sec = s.sec := rfl
@[simp] theorem bump_qcp (c : Ctr) (i j : Nat) (s : State) : (bump c i j s).qcp = s.qcp := rfl
@[simp] theorem bump_agents (c : Ctr) (i j : Nat) (s : State) : (bump c i j s).agents = s.agents := rfl
@[simp] theorem bump_evc (c : Ctr) (i j : Nat) (s : State) : (bump c i j s).evc = s.evc := rfl
@[simp] theorem bump_world (c : Ctr) (i j : Nat) (s : State) : (bump c i j s).world = s.world := rfl
@[simp] theorem bump_mode (c : Ctr) (i j : Nat) (s : State) : (bump c i j s).mode = s.mode := rfl
@[simp] theorem bump_pmu (c : Ctr) (i j : Nat) (s : State) : (bump c i j s).pmu = s.pmu := rfl
@[simp] theorem bump_log (c : Ctr) (i j : Nat) (s : State) : (bump c i j s).log = s.log := rfl
@[simp] theorem bump_mmc (c : Ctr) (i j : Nat) (s : State) : (bump c i j s).mmc = s.mmc := rfl
@[simp] theorem bump_late (c : Ctr) (i j : Nat) (s : State) : (bump c i j s).late = s.late := rfl
@[simp] theorem bump_ran (c : Ctr) (i j : Nat) (s : State) : (bump c i j s).ran = s.ran := rfl

/-! ### clearCtr -/

@[simp] theorem clearCtr_pending (c : Ctr) (i j : Nat) (s : State) : (clearCtr c i j s).pending = s.pending := rfl
@[simp] theorem clearCtr_fresh (c : Ctr) (i j : Nat) (s : State) : (clearCtr c i j s).fresh = s.fresh := rfl
@[simp] theorem clearCtr_nextFid (c : Ctr) (i j : Nat) (s : State) : (clearCtr c i j s).nextFid = s.nextFid := rfl
@[simp] theorem clearCtr_time (c : Ctr) (i j : Nat) (s : State) : (clearCtr c i j s).time = s.time := rfl
@[simp] theorem clearCtr_clock (c : Ctr) (i j : Nat) (s : State) : (clearCtr c i j s).clock = s.clock := rfl
@[simp] theorem clearCtr_tt (c : Ctr) (i j : Nat) (s : State) : (clearCtr c i j s).tt = s.tt := rfl
@[simp] theorem clearCtr_ports (c : Ctr) (i j : Nat) (s : State) : (clearCtr c i j s).ports = s.ports := rfl
@[simp] theorem clearCtr_ver (c : Ctr) (i j : Nat) (s : State) : (clearCtr c i j s).ver = s.ver := rfl
@[simp] theorem clearCtr_arr (c : Ctr) (i j : Nat) (s : State) : (clearCtr c i j s).arr = s.arr := rfl
@[simp] theorem clearCtr_flow (c : Ctr) (i j : Nat) (s : State) : (clearCtr c i j s).flow = s.flow := rfl
@[simp] theorem clearCtr_ucode (c : Ctr) (i j : Nat) (s : State) : (clearCtr c i j s).ucode = s.ucode := rfl
@[simp] theorem clearCtr_frames (c : Ctr) (i j : Nat) (s : State) : (clearCtr c i j s).frames = s.frames := rfl
@[simp] theorem clearCtr_trapHw (c : Ctr) (i j : Nat) (s : State) : (clearCtr c i j s).trapHw = s.trapHw := rfl
@[simp] theorem clearCtr_fab (c : Ctr) (i j : Nat) (s : State) : (clearCtr c i j s).fab = s.fab := rfl
@[simp] theorem clearCtr_egr (c : Ctr) (i j : Nat) (s : State) : (clearCtr c i j s).egr = s.egr := rfl
@[simp] theorem clearCtr_hbm (c : Ctr) (i j : Nat) (s : State) : (clearCtr c i j s).hbm = s.hbm := rfl
@[simp] theorem clearCtr_sec (c : Ctr) (i j : Nat) (s : State) : (clearCtr c i j s).sec = s.sec := rfl
@[simp] theorem clearCtr_qcp (c : Ctr) (i j : Nat) (s : State) : (clearCtr c i j s).qcp = s.qcp := rfl
@[simp] theorem clearCtr_agents (c : Ctr) (i j : Nat) (s : State) : (clearCtr c i j s).agents = s.agents := rfl
@[simp] theorem clearCtr_evc (c : Ctr) (i j : Nat) (s : State) : (clearCtr c i j s).evc = s.evc := rfl
@[simp] theorem clearCtr_world (c : Ctr) (i j : Nat) (s : State) : (clearCtr c i j s).world = s.world := rfl
@[simp] theorem clearCtr_mode (c : Ctr) (i j : Nat) (s : State) : (clearCtr c i j s).mode = s.mode := rfl
@[simp] theorem clearCtr_pmu (c : Ctr) (i j : Nat) (s : State) : (clearCtr c i j s).pmu = s.pmu := rfl
@[simp] theorem clearCtr_log (c : Ctr) (i j : Nat) (s : State) : (clearCtr c i j s).log = s.log := rfl
@[simp] theorem clearCtr_mmc (c : Ctr) (i j : Nat) (s : State) : (clearCtr c i j s).mmc = s.mmc := rfl
@[simp] theorem clearCtr_late (c : Ctr) (i j : Nat) (s : State) : (clearCtr c i j s).late = s.late := rfl
@[simp] theorem clearCtr_ran (c : Ctr) (i j : Nat) (s : State) : (clearCtr c i j s).ran = s.ran := rfl

/-! ### maxCtr -/

@[simp] theorem maxCtr_pending (c : Ctr) (i j v : Nat) (s : State) : (maxCtr c i j v s).pending = s.pending := rfl
@[simp] theorem maxCtr_fresh (c : Ctr) (i j v : Nat) (s : State) : (maxCtr c i j v s).fresh = s.fresh := rfl
@[simp] theorem maxCtr_nextFid (c : Ctr) (i j v : Nat) (s : State) : (maxCtr c i j v s).nextFid = s.nextFid := rfl
@[simp] theorem maxCtr_time (c : Ctr) (i j v : Nat) (s : State) : (maxCtr c i j v s).time = s.time := rfl
@[simp] theorem maxCtr_clock (c : Ctr) (i j v : Nat) (s : State) : (maxCtr c i j v s).clock = s.clock := rfl
@[simp] theorem maxCtr_tt (c : Ctr) (i j v : Nat) (s : State) : (maxCtr c i j v s).tt = s.tt := rfl
@[simp] theorem maxCtr_ports (c : Ctr) (i j v : Nat) (s : State) : (maxCtr c i j v s).ports = s.ports := rfl
@[simp] theorem maxCtr_ver (c : Ctr) (i j v : Nat) (s : State) : (maxCtr c i j v s).ver = s.ver := rfl
@[simp] theorem maxCtr_arr (c : Ctr) (i j v : Nat) (s : State) : (maxCtr c i j v s).arr = s.arr := rfl
@[simp] theorem maxCtr_flow (c : Ctr) (i j v : Nat) (s : State) : (maxCtr c i j v s).flow = s.flow := rfl
@[simp] theorem maxCtr_ucode (c : Ctr) (i j v : Nat) (s : State) : (maxCtr c i j v s).ucode = s.ucode := rfl
@[simp] theorem maxCtr_frames (c : Ctr) (i j v : Nat) (s : State) : (maxCtr c i j v s).frames = s.frames := rfl
@[simp] theorem maxCtr_trapHw (c : Ctr) (i j v : Nat) (s : State) : (maxCtr c i j v s).trapHw = s.trapHw := rfl
@[simp] theorem maxCtr_fab (c : Ctr) (i j v : Nat) (s : State) : (maxCtr c i j v s).fab = s.fab := rfl
@[simp] theorem maxCtr_egr (c : Ctr) (i j v : Nat) (s : State) : (maxCtr c i j v s).egr = s.egr := rfl
@[simp] theorem maxCtr_hbm (c : Ctr) (i j v : Nat) (s : State) : (maxCtr c i j v s).hbm = s.hbm := rfl
@[simp] theorem maxCtr_sec (c : Ctr) (i j v : Nat) (s : State) : (maxCtr c i j v s).sec = s.sec := rfl
@[simp] theorem maxCtr_qcp (c : Ctr) (i j v : Nat) (s : State) : (maxCtr c i j v s).qcp = s.qcp := rfl
@[simp] theorem maxCtr_agents (c : Ctr) (i j v : Nat) (s : State) : (maxCtr c i j v s).agents = s.agents := rfl
@[simp] theorem maxCtr_evc (c : Ctr) (i j v : Nat) (s : State) : (maxCtr c i j v s).evc = s.evc := rfl
@[simp] theorem maxCtr_world (c : Ctr) (i j v : Nat) (s : State) : (maxCtr c i j v s).world = s.world := rfl
@[simp] theorem maxCtr_mode (c : Ctr) (i j v : Nat) (s : State) : (maxCtr c i j v s).mode = s.mode := rfl
@[simp] theorem maxCtr_pmu (c : Ctr) (i j v : Nat) (s : State) : (maxCtr c i j v s).pmu = s.pmu := rfl
@[simp] theorem maxCtr_log (c : Ctr) (i j v : Nat) (s : State) : (maxCtr c i j v s).log = s.log := rfl
@[simp] theorem maxCtr_mmc (c : Ctr) (i j v : Nat) (s : State) : (maxCtr c i j v s).mmc = s.mmc := rfl
@[simp] theorem maxCtr_late (c : Ctr) (i j v : Nat) (s : State) : (maxCtr c i j v s).late = s.late := rfl
@[simp] theorem maxCtr_ran (c : Ctr) (i j v : Nat) (s : State) : (maxCtr c i j v s).ran = s.ran := rfl

/-! ### raise -/

@[simp] theorem raise_pending (n : Nat) (s : State) : (raise n s).pending = s.pending := rfl
@[simp] theorem raise_fresh (n : Nat) (s : State) : (raise n s).fresh = s.fresh := rfl
@[simp] theorem raise_nextFid (n : Nat) (s : State) : (raise n s).nextFid = s.nextFid := rfl
@[simp] theorem raise_time (n : Nat) (s : State) : (raise n s).time = s.time := rfl
@[simp] theorem raise_clock (n : Nat) (s : State) : (raise n s).clock = s.clock := rfl
@[simp] theorem raise_tt (n : Nat) (s : State) : (raise n s).tt = s.tt := rfl
@[simp] theorem raise_ports (n : Nat) (s : State) : (raise n s).ports = s.ports := rfl
@[simp] theorem raise_ver (n : Nat) (s : State) : (raise n s).ver = s.ver := rfl
@[simp] theorem raise_arr (n : Nat) (s : State) : (raise n s).arr = s.arr := rfl
@[simp] theorem raise_flow (n : Nat) (s : State) : (raise n s).flow = s.flow := rfl
@[simp] theorem raise_ucode (n : Nat) (s : State) : (raise n s).ucode = s.ucode := rfl
@[simp] theorem raise_frames (n : Nat) (s : State) : (raise n s).frames = s.frames := rfl
@[simp] theorem raise_trapHw (n : Nat) (s : State) : (raise n s).trapHw = s.trapHw := rfl
@[simp] theorem raise_fab (n : Nat) (s : State) : (raise n s).fab = s.fab := rfl
@[simp] theorem raise_egr (n : Nat) (s : State) : (raise n s).egr = s.egr := rfl
@[simp] theorem raise_hbm (n : Nat) (s : State) : (raise n s).hbm = s.hbm := rfl
@[simp] theorem raise_sec (n : Nat) (s : State) : (raise n s).sec = s.sec := rfl
@[simp] theorem raise_qcp (n : Nat) (s : State) : (raise n s).qcp = s.qcp := rfl
@[simp] theorem raise_agents (n : Nat) (s : State) : (raise n s).agents = s.agents := rfl
@[simp] theorem raise_world (n : Nat) (s : State) : (raise n s).world = s.world := rfl
@[simp] theorem raise_mode (n : Nat) (s : State) : (raise n s).mode = s.mode := rfl
@[simp] theorem raise_pmu (n : Nat) (s : State) : (raise n s).pmu = s.pmu := rfl
@[simp] theorem raise_log (n : Nat) (s : State) : (raise n s).log = s.log := rfl
@[simp] theorem raise_mmc (n : Nat) (s : State) : (raise n s).mmc = s.mmc := rfl
@[simp] theorem raise_late (n : Nat) (s : State) : (raise n s).late = s.late := rfl
@[simp] theorem raise_ran (n : Nat) (s : State) : (raise n s).ran = s.ran := rfl
@[simp] theorem raise_ctrs (n : Nat) (s : State) : (raise n s).ctrs = s.ctrs := rfl

/-! ### drawn -/

@[simp] theorem drawn_pending (s : State) : (drawn s).pending = s.pending := rfl
@[simp] theorem drawn_nextFid (s : State) : (drawn s).nextFid = s.nextFid := rfl
@[simp] theorem drawn_time (s : State) : (drawn s).time = s.time := rfl
@[simp] theorem drawn_clock (s : State) : (drawn s).clock = s.clock := rfl
@[simp] theorem drawn_tt (s : State) : (drawn s).tt = s.tt := rfl
@[simp] theorem drawn_ports (s : State) : (drawn s).ports = s.ports := rfl
@[simp] theorem drawn_ver (s : State) : (drawn s).ver = s.ver := rfl
@[simp] theorem drawn_arr (s : State) : (drawn s).arr = s.arr := rfl
@[simp] theorem drawn_flow (s : State) : (drawn s).flow = s.flow := rfl
@[simp] theorem drawn_ucode (s : State) : (drawn s).ucode = s.ucode := rfl
@[simp] theorem drawn_frames (s : State) : (drawn s).frames = s.frames := rfl
@[simp] theorem drawn_trapHw (s : State) : (drawn s).trapHw = s.trapHw := rfl
@[simp] theorem drawn_fab (s : State) : (drawn s).fab = s.fab := rfl
@[simp] theorem drawn_egr (s : State) : (drawn s).egr = s.egr := rfl
@[simp] theorem drawn_hbm (s : State) : (drawn s).hbm = s.hbm := rfl
@[simp] theorem drawn_sec (s : State) : (drawn s).sec = s.sec := rfl
@[simp] theorem drawn_qcp (s : State) : (drawn s).qcp = s.qcp := rfl
@[simp] theorem drawn_agents (s : State) : (drawn s).agents = s.agents := rfl
@[simp] theorem drawn_evc (s : State) : (drawn s).evc = s.evc := rfl
@[simp] theorem drawn_world (s : State) : (drawn s).world = s.world := rfl
@[simp] theorem drawn_mode (s : State) : (drawn s).mode = s.mode := rfl
@[simp] theorem drawn_pmu (s : State) : (drawn s).pmu = s.pmu := rfl
@[simp] theorem drawn_log (s : State) : (drawn s).log = s.log := rfl
@[simp] theorem drawn_mmc (s : State) : (drawn s).mmc = s.mmc := rfl
@[simp] theorem drawn_late (s : State) : (drawn s).late = s.late := rfl
@[simp] theorem drawn_ran (s : State) : (drawn s).ran = s.ran := rfl
@[simp] theorem drawn_ctrs (s : State) : (drawn s).ctrs = s.ctrs := rfl

/-! ### logSum -/

@[simp] theorem logSum_pending (c : LogClass) (w : String) (n : Nat) (s : State) : (logSum c w n s).pending = s.pending := rfl
@[simp] theorem logSum_fresh (c : LogClass) (w : String) (n : Nat) (s : State) : (logSum c w n s).fresh = s.fresh := rfl
@[simp] theorem logSum_nextFid (c : LogClass) (w : String) (n : Nat) (s : State) : (logSum c w n s).nextFid = s.nextFid := rfl
@[simp] theorem logSum_time (c : LogClass) (w : String) (n : Nat) (s : State) : (logSum c w n s).time = s.time := rfl
@[simp] theorem logSum_clock (c : LogClass) (w : String) (n : Nat) (s : State) : (logSum c w n s).clock = s.clock := rfl
@[simp] theorem logSum_tt (c : LogClass) (w : String) (n : Nat) (s : State) : (logSum c w n s).tt = s.tt := rfl
@[simp] theorem logSum_ports (c : LogClass) (w : String) (n : Nat) (s : State) : (logSum c w n s).ports = s.ports := rfl
@[simp] theorem logSum_ver (c : LogClass) (w : String) (n : Nat) (s : State) : (logSum c w n s).ver = s.ver := rfl
@[simp] theorem logSum_arr (c : LogClass) (w : String) (n : Nat) (s : State) : (logSum c w n s).arr = s.arr := rfl
@[simp] theorem logSum_flow (c : LogClass) (w : String) (n : Nat) (s : State) : (logSum c w n s).flow = s.flow := rfl
@[simp] theorem logSum_ucode (c : LogClass) (w : String) (n : Nat) (s : State) : (logSum c w n s).ucode = s.ucode := rfl
@[simp] theorem logSum_frames (c : LogClass) (w : String) (n : Nat) (s : State) : (logSum c w n s).frames = s.frames := rfl
@[simp] theorem logSum_trapHw (c : LogClass) (w : String) (n : Nat) (s : State) : (logSum c w n s).trapHw = s.trapHw := rfl
@[simp] theorem logSum_fab (c : LogClass) (w : String) (n : Nat) (s : State) : (logSum c w n s).fab = s.fab := rfl
@[simp] theorem logSum_egr (c : LogClass) (w : String) (n : Nat) (s : State) : (logSum c w n s).egr = s.egr := rfl
@[simp] theorem logSum_hbm (c : LogClass) (w : String) (n : Nat) (s : State) : (logSum c w n s).hbm = s.hbm := rfl
@[simp] theorem logSum_sec (c : LogClass) (w : String) (n : Nat) (s : State) : (logSum c w n s).sec = s.sec := rfl
@[simp] theorem logSum_qcp (c : LogClass) (w : String) (n : Nat) (s : State) : (logSum c w n s).qcp = s.qcp := rfl
@[simp] theorem logSum_agents (c : LogClass) (w : String) (n : Nat) (s : State) : (logSum c w n s).agents = s.agents := rfl
@[simp] theorem logSum_evc (c : LogClass) (w : String) (n : Nat) (s : State) : (logSum c w n s).evc = s.evc := rfl
@[simp] theorem logSum_world (c : LogClass) (w : String) (n : Nat) (s : State) : (logSum c w n s).world = s.world := rfl
@[simp] theorem logSum_mode (c : LogClass) (w : String) (n : Nat) (s : State) : (logSum c w n s).mode = s.mode := rfl
@[simp] theorem logSum_pmu (c : LogClass) (w : String) (n : Nat) (s : State) : (logSum c w n s).pmu = s.pmu := rfl
@[simp] theorem logSum_mmc (c : LogClass) (w : String) (n : Nat) (s : State) : (logSum c w n s).mmc = s.mmc := rfl
@[simp] theorem logSum_late (c : LogClass) (w : String) (n : Nat) (s : State) : (logSum c w n s).late = s.late := rfl
@[simp] theorem logSum_ran (c : LogClass) (w : String) (n : Nat) (s : State) : (logSum c w n s).ran = s.ran := rfl
@[simp] theorem logSum_ctrs (c : LogClass) (w : String) (n : Nat) (s : State) : (logSum c w n s).ctrs = s.ctrs := rfl

/-! ### setPort -/

@[simp] theorem setPort_pending (p : Nat) (x : PortSt) (s : State) : (setPort p x s).pending = s.pending := rfl
@[simp] theorem setPort_fresh (p : Nat) (x : PortSt) (s : State) : (setPort p x s).fresh = s.fresh := rfl
@[simp] theorem setPort_nextFid (p : Nat) (x : PortSt) (s : State) : (setPort p x s).nextFid = s.nextFid := rfl
@[simp] theorem setPort_time (p : Nat) (x : PortSt) (s : State) : (setPort p x s).time = s.time := rfl
@[simp] theorem setPort_clock (p : Nat) (x : PortSt) (s : State) : (setPort p x s).clock = s.clock := rfl
@[simp] theorem setPort_tt (p : Nat) (x : PortSt) (s : State) : (setPort p x s).tt = s.tt := rfl
@[simp] theorem setPort_ver (p : Nat) (x : PortSt) (s : State) : (setPort p x s).ver = s.ver := rfl
@[simp] theorem setPort_arr (p : Nat) (x : PortSt) (s : State) : (setPort p x s).arr = s.arr := rfl
@[simp] theorem setPort_flow (p : Nat) (x : PortSt) (s : State) : (setPort p x s).flow = s.flow := rfl
@[simp] theorem setPort_ucode (p : Nat) (x : PortSt) (s : State) : (setPort p x s).ucode = s.ucode := rfl
@[simp] theorem setPort_frames (p : Nat) (x : PortSt) (s : State) : (setPort p x s).frames = s.frames := rfl
@[simp] theorem setPort_trapHw (p : Nat) (x : PortSt) (s : State) : (setPort p x s).trapHw = s.trapHw := rfl
@[simp] theorem setPort_fab (p : Nat) (x : PortSt) (s : State) : (setPort p x s).fab = s.fab := rfl
@[simp] theorem setPort_egr (p : Nat) (x : PortSt) (s : State) : (setPort p x s).egr = s.egr := rfl
@[simp] theorem setPort_hbm (p : Nat) (x : PortSt) (s : State) : (setPort p x s).hbm = s.hbm := rfl
@[simp] theorem setPort_sec (p : Nat) (x : PortSt) (s : State) : (setPort p x s).sec = s.sec := rfl
@[simp] theorem setPort_qcp (p : Nat) (x : PortSt) (s : State) : (setPort p x s).qcp = s.qcp := rfl
@[simp] theorem setPort_agents (p : Nat) (x : PortSt) (s : State) : (setPort p x s).agents = s.agents := rfl
@[simp] theorem setPort_evc (p : Nat) (x : PortSt) (s : State) : (setPort p x s).evc = s.evc := rfl
@[simp] theorem setPort_world (p : Nat) (x : PortSt) (s : State) : (setPort p x s).world = s.world := rfl
@[simp] theorem setPort_mode (p : Nat) (x : PortSt) (s : State) : (setPort p x s).mode = s.mode := rfl
@[simp] theorem setPort_pmu (p : Nat) (x : PortSt) (s : State) : (setPort p x s).pmu = s.pmu := rfl
@[simp] theorem setPort_log (p : Nat) (x : PortSt) (s : State) : (setPort p x s).log = s.log := rfl
@[simp] theorem setPort_mmc (p : Nat) (x : PortSt) (s : State) : (setPort p x s).mmc = s.mmc := rfl
@[simp] theorem setPort_late (p : Nat) (x : PortSt) (s : State) : (setPort p x s).late = s.late := rfl
@[simp] theorem setPort_ran (p : Nat) (x : PortSt) (s : State) : (setPort p x s).ran = s.ran := rfl
@[simp] theorem setPort_ctrs (p : Nat) (x : PortSt) (s : State) : (setPort p x s).ctrs = s.ctrs := rfl

/-! ### setLane -/

@[simp] theorem setLane_pending (l : Nat) (x : LaneSt) (s : State) : (setLane l x s).pending = s.pending := rfl
@[simp] theorem setLane_fresh (l : Nat) (x : LaneSt) (s : State) : (setLane l x s).fresh = s.fresh := rfl
@[simp] theorem setLane_nextFid (l : Nat) (x : LaneSt) (s : State) : (setLane l x s).nextFid = s.nextFid := rfl
@[simp] theorem setLane_time (l : Nat) (x : LaneSt) (s : State) : (setLane l x s).time = s.time := rfl
@[simp] theorem setLane_clock (l : Nat) (x : LaneSt) (s : State) : (setLane l x s).clock = s.clock := rfl
@[simp] theorem setLane_tt (l : Nat) (x : LaneSt) (s : State) : (setLane l x s).tt = s.tt := rfl
@[simp] theorem setLane_ver (l : Nat) (x : LaneSt) (s : State) : (setLane l x s).ver = s.ver := rfl
@[simp] theorem setLane_arr (l : Nat) (x : LaneSt) (s : State) : (setLane l x s).arr = s.arr := rfl
@[simp] theorem setLane_flow (l : Nat) (x : LaneSt) (s : State) : (setLane l x s).flow = s.flow := rfl
@[simp] theorem setLane_ucode (l : Nat) (x : LaneSt) (s : State) : (setLane l x s).ucode = s.ucode := rfl
@[simp] theorem setLane_frames (l : Nat) (x : LaneSt) (s : State) : (setLane l x s).frames = s.frames := rfl
@[simp] theorem setLane_trapHw (l : Nat) (x : LaneSt) (s : State) : (setLane l x s).trapHw = s.trapHw := rfl
@[simp] theorem setLane_fab (l : Nat) (x : LaneSt) (s : State) : (setLane l x s).fab = s.fab := rfl
@[simp] theorem setLane_egr (l : Nat) (x : LaneSt) (s : State) : (setLane l x s).egr = s.egr := rfl
@[simp] theorem setLane_hbm (l : Nat) (x : LaneSt) (s : State) : (setLane l x s).hbm = s.hbm := rfl
@[simp] theorem setLane_sec (l : Nat) (x : LaneSt) (s : State) : (setLane l x s).sec = s.sec := rfl
@[simp] theorem setLane_qcp (l : Nat) (x : LaneSt) (s : State) : (setLane l x s).qcp = s.qcp := rfl
@[simp] theorem setLane_agents (l : Nat) (x : LaneSt) (s : State) : (setLane l x s).agents = s.agents := rfl
@[simp] theorem setLane_evc (l : Nat) (x : LaneSt) (s : State) : (setLane l x s).evc = s.evc := rfl
@[simp] theorem setLane_world (l : Nat) (x : LaneSt) (s : State) : (setLane l x s).world = s.world := rfl
@[simp] theorem setLane_mode (l : Nat) (x : LaneSt) (s : State) : (setLane l x s).mode = s.mode := rfl
@[simp] theorem setLane_pmu (l : Nat) (x : LaneSt) (s : State) : (setLane l x s).pmu = s.pmu := rfl
@[simp] theorem setLane_log (l : Nat) (x : LaneSt) (s : State) : (setLane l x s).log = s.log := rfl
@[simp] theorem setLane_mmc (l : Nat) (x : LaneSt) (s : State) : (setLane l x s).mmc = s.mmc := rfl
@[simp] theorem setLane_late (l : Nat) (x : LaneSt) (s : State) : (setLane l x s).late = s.late := rfl
@[simp] theorem setLane_ran (l : Nat) (x : LaneSt) (s : State) : (setLane l x s).ran = s.ran := rfl
@[simp] theorem setLane_ctrs (l : Nat) (x : LaneSt) (s : State) : (setLane l x s).ctrs = s.ctrs := rfl

/-! ### setCart -/

@[simp] theorem setCart_pending (c : Nat) (x : CartSt) (s : State) : (setCart c x s).pending = s.pending := rfl
@[simp] theorem setCart_fresh (c : Nat) (x : CartSt) (s : State) : (setCart c x s).fresh = s.fresh := rfl
@[simp] theorem setCart_nextFid (c : Nat) (x : CartSt) (s : State) : (setCart c x s).nextFid = s.nextFid := rfl
@[simp] theorem setCart_time (c : Nat) (x : CartSt) (s : State) : (setCart c x s).time = s.time := rfl
@[simp] theorem setCart_clock (c : Nat) (x : CartSt) (s : State) : (setCart c x s).clock = s.clock := rfl
@[simp] theorem setCart_tt (c : Nat) (x : CartSt) (s : State) : (setCart c x s).tt = s.tt := rfl
@[simp] theorem setCart_ver (c : Nat) (x : CartSt) (s : State) : (setCart c x s).ver = s.ver := rfl
@[simp] theorem setCart_arr (c : Nat) (x : CartSt) (s : State) : (setCart c x s).arr = s.arr := rfl
@[simp] theorem setCart_flow (c : Nat) (x : CartSt) (s : State) : (setCart c x s).flow = s.flow := rfl
@[simp] theorem setCart_ucode (c : Nat) (x : CartSt) (s : State) : (setCart c x s).ucode = s.ucode := rfl
@[simp] theorem setCart_frames (c : Nat) (x : CartSt) (s : State) : (setCart c x s).frames = s.frames := rfl
@[simp] theorem setCart_trapHw (c : Nat) (x : CartSt) (s : State) : (setCart c x s).trapHw = s.trapHw := rfl
@[simp] theorem setCart_fab (c : Nat) (x : CartSt) (s : State) : (setCart c x s).fab = s.fab := rfl
@[simp] theorem setCart_egr (c : Nat) (x : CartSt) (s : State) : (setCart c x s).egr = s.egr := rfl
@[simp] theorem setCart_hbm (c : Nat) (x : CartSt) (s : State) : (setCart c x s).hbm = s.hbm := rfl
@[simp] theorem setCart_sec (c : Nat) (x : CartSt) (s : State) : (setCart c x s).sec = s.sec := rfl
@[simp] theorem setCart_qcp (c : Nat) (x : CartSt) (s : State) : (setCart c x s).qcp = s.qcp := rfl
@[simp] theorem setCart_agents (c : Nat) (x : CartSt) (s : State) : (setCart c x s).agents = s.agents := rfl
@[simp] theorem setCart_evc (c : Nat) (x : CartSt) (s : State) : (setCart c x s).evc = s.evc := rfl
@[simp] theorem setCart_world (c : Nat) (x : CartSt) (s : State) : (setCart c x s).world = s.world := rfl
@[simp] theorem setCart_mode (c : Nat) (x : CartSt) (s : State) : (setCart c x s).mode = s.mode := rfl
@[simp] theorem setCart_pmu (c : Nat) (x : CartSt) (s : State) : (setCart c x s).pmu = s.pmu := rfl
@[simp] theorem setCart_log (c : Nat) (x : CartSt) (s : State) : (setCart c x s).log = s.log := rfl
@[simp] theorem setCart_mmc (c : Nat) (x : CartSt) (s : State) : (setCart c x s).mmc = s.mmc := rfl
@[simp] theorem setCart_late (c : Nat) (x : CartSt) (s : State) : (setCart c x s).late = s.late := rfl
@[simp] theorem setCart_ran (c : Nat) (x : CartSt) (s : State) : (setCart c x s).ran = s.ran := rfl
@[simp] theorem setCart_ctrs (c : Nat) (x : CartSt) (s : State) : (setCart c x s).ctrs = s.ctrs := rfl

/-! ### updBuf -/

@[simp] theorem updBuf_pending (k : Nat) (f : BufSt → BufSt) (s : State) : (updBuf k f s).pending = s.pending := rfl
@[simp] theorem updBuf_fresh (k : Nat) (f : BufSt → BufSt) (s : State) : (updBuf k f s).fresh = s.fresh := rfl
@[simp] theorem updBuf_nextFid (k : Nat) (f : BufSt → BufSt) (s : State) : (updBuf k f s).nextFid = s.nextFid := rfl
@[simp] theorem updBuf_time (k : Nat) (f : BufSt → BufSt) (s : State) : (updBuf k f s).time = s.time := rfl
@[simp] theorem updBuf_clock (k : Nat) (f : BufSt → BufSt) (s : State) : (updBuf k f s).clock = s.clock := rfl
@[simp] theorem updBuf_tt (k : Nat) (f : BufSt → BufSt) (s : State) : (updBuf k f s).tt = s.tt := rfl
@[simp] theorem updBuf_ports (k : Nat) (f : BufSt → BufSt) (s : State) : (updBuf k f s).ports = s.ports := rfl
@[simp] theorem updBuf_ver (k : Nat) (f : BufSt → BufSt) (s : State) : (updBuf k f s).ver = s.ver := rfl
@[simp] theorem updBuf_arr (k : Nat) (f : BufSt → BufSt) (s : State) : (updBuf k f s).arr = s.arr := rfl
@[simp] theorem updBuf_flow (k : Nat) (f : BufSt → BufSt) (s : State) : (updBuf k f s).flow = s.flow := rfl
@[simp] theorem updBuf_ucode (k : Nat) (f : BufSt → BufSt) (s : State) : (updBuf k f s).ucode = s.ucode := rfl
@[simp] theorem updBuf_frames (k : Nat) (f : BufSt → BufSt) (s : State) : (updBuf k f s).frames = s.frames := rfl
@[simp] theorem updBuf_trapHw (k : Nat) (f : BufSt → BufSt) (s : State) : (updBuf k f s).trapHw = s.trapHw := rfl
@[simp] theorem updBuf_fab (k : Nat) (f : BufSt → BufSt) (s : State) : (updBuf k f s).fab = s.fab := rfl
@[simp] theorem updBuf_hbm (k : Nat) (f : BufSt → BufSt) (s : State) : (updBuf k f s).hbm = s.hbm := rfl
@[simp] theorem updBuf_sec (k : Nat) (f : BufSt → BufSt) (s : State) : (updBuf k f s).sec = s.sec := rfl
@[simp] theorem updBuf_qcp (k : Nat) (f : BufSt → BufSt) (s : State) : (updBuf k f s).qcp = s.qcp := rfl
@[simp] theorem updBuf_agents (k : Nat) (f : BufSt → BufSt) (s : State) : (updBuf k f s).agents = s.agents := rfl
@[simp] theorem updBuf_evc (k : Nat) (f : BufSt → BufSt) (s : State) : (updBuf k f s).evc = s.evc := rfl
@[simp] theorem updBuf_world (k : Nat) (f : BufSt → BufSt) (s : State) : (updBuf k f s).world = s.world := rfl
@[simp] theorem updBuf_mode (k : Nat) (f : BufSt → BufSt) (s : State) : (updBuf k f s).mode = s.mode := rfl
@[simp] theorem updBuf_pmu (k : Nat) (f : BufSt → BufSt) (s : State) : (updBuf k f s).pmu = s.pmu := rfl
@[simp] theorem updBuf_log (k : Nat) (f : BufSt → BufSt) (s : State) : (updBuf k f s).log = s.log := rfl
@[simp] theorem updBuf_mmc (k : Nat) (f : BufSt → BufSt) (s : State) : (updBuf k f s).mmc = s.mmc := rfl
@[simp] theorem updBuf_late (k : Nat) (f : BufSt → BufSt) (s : State) : (updBuf k f s).late = s.late := rfl
@[simp] theorem updBuf_ran (k : Nat) (f : BufSt → BufSt) (s : State) : (updBuf k f s).ran = s.ran := rfl
@[simp] theorem updBuf_ctrs (k : Nat) (f : BufSt → BufSt) (s : State) : (updBuf k f s).ctrs = s.ctrs := rfl

/-! ### updQueue -/

@[simp] theorem updQueue_pending (p q : Nat) (f : QueueSt → QueueSt) (s : State) : (updQueue p q f s).pending = s.pending := rfl
@[simp] theorem updQueue_fresh (p q : Nat) (f : QueueSt → QueueSt) (s : State) : (updQueue p q f s).fresh = s.fresh := rfl
@[simp] theorem updQueue_nextFid (p q : Nat) (f : QueueSt → QueueSt) (s : State) : (updQueue p q f s).nextFid = s.nextFid := rfl
@[simp] theorem updQueue_time (p q : Nat) (f : QueueSt → QueueSt) (s : State) : (updQueue p q f s).time = s.time := rfl
@[simp] theorem updQueue_clock (p q : Nat) (f : QueueSt → QueueSt) (s : State) : (updQueue p q f s).clock = s.clock := rfl
@[simp] theorem updQueue_tt (p q : Nat) (f : QueueSt → QueueSt) (s : State) : (updQueue p q f s).tt = s.tt := rfl
@[simp] theorem updQueue_ports (p q : Nat) (f : QueueSt → QueueSt) (s : State) : (updQueue p q f s).ports = s.ports := rfl
@[simp] theorem updQueue_ver (p q : Nat) (f : QueueSt → QueueSt) (s : State) : (updQueue p q f s).ver = s.ver := rfl
@[simp] theorem updQueue_arr (p q : Nat) (f : QueueSt → QueueSt) (s : State) : (updQueue p q f s).arr = s.arr := rfl
@[simp] theorem updQueue_flow (p q : Nat) (f : QueueSt → QueueSt) (s : State) : (updQueue p q f s).flow = s.flow := rfl
@[simp] theorem updQueue_ucode (p q : Nat) (f : QueueSt → QueueSt) (s : State) : (updQueue p q f s).ucode = s.ucode := rfl
@[simp] theorem updQueue_frames (p q : Nat) (f : QueueSt → QueueSt) (s : State) : (updQueue p q f s).frames = s.frames := rfl
@[simp] theorem updQueue_trapHw (p q : Nat) (f : QueueSt → QueueSt) (s : State) : (updQueue p q f s).trapHw = s.trapHw := rfl
@[simp] theorem updQueue_fab (p q : Nat) (f : QueueSt → QueueSt) (s : State) : (updQueue p q f s).fab = s.fab := rfl
@[simp] theorem updQueue_hbm (p q : Nat) (f : QueueSt → QueueSt) (s : State) : (updQueue p q f s).hbm = s.hbm := rfl
@[simp] theorem updQueue_sec (p q : Nat) (f : QueueSt → QueueSt) (s : State) : (updQueue p q f s).sec = s.sec := rfl
@[simp] theorem updQueue_qcp (p q : Nat) (f : QueueSt → QueueSt) (s : State) : (updQueue p q f s).qcp = s.qcp := rfl
@[simp] theorem updQueue_agents (p q : Nat) (f : QueueSt → QueueSt) (s : State) : (updQueue p q f s).agents = s.agents := rfl
@[simp] theorem updQueue_evc (p q : Nat) (f : QueueSt → QueueSt) (s : State) : (updQueue p q f s).evc = s.evc := rfl
@[simp] theorem updQueue_world (p q : Nat) (f : QueueSt → QueueSt) (s : State) : (updQueue p q f s).world = s.world := rfl
@[simp] theorem updQueue_mode (p q : Nat) (f : QueueSt → QueueSt) (s : State) : (updQueue p q f s).mode = s.mode := rfl
@[simp] theorem updQueue_pmu (p q : Nat) (f : QueueSt → QueueSt) (s : State) : (updQueue p q f s).pmu = s.pmu := rfl
@[simp] theorem updQueue_log (p q : Nat) (f : QueueSt → QueueSt) (s : State) : (updQueue p q f s).log = s.log := rfl
@[simp] theorem updQueue_mmc (p q : Nat) (f : QueueSt → QueueSt) (s : State) : (updQueue p q f s).mmc = s.mmc := rfl
@[simp] theorem updQueue_late (p q : Nat) (f : QueueSt → QueueSt) (s : State) : (updQueue p q f s).late = s.late := rfl
@[simp] theorem updQueue_ran (p q : Nat) (f : QueueSt → QueueSt) (s : State) : (updQueue p q f s).ran = s.ran := rfl
@[simp] theorem updQueue_ctrs (p q : Nat) (f : QueueSt → QueueSt) (s : State) : (updQueue p q f s).ctrs = s.ctrs := rfl

/-! ### updSide -/

@[simp] theorem updSide_pending (k : Nat) (f : SideSt → SideSt) (s : State) : (updSide k f s).pending = s.pending := rfl
@[simp] theorem updSide_fresh (k : Nat) (f : SideSt → SideSt) (s : State) : (updSide k f s).fresh = s.fresh := rfl
@[simp] theorem updSide_nextFid (k : Nat) (f : SideSt → SideSt) (s : State) : (updSide k f s).nextFid = s.nextFid := rfl
@[simp] theorem updSide_time (k : Nat) (f : SideSt → SideSt) (s : State) : (updSide k f s).time = s.time := rfl
@[simp] theorem updSide_clock (k : Nat) (f : SideSt → SideSt) (s : State) : (updSide k f s).clock = s.clock := rfl
@[simp] theorem updSide_tt (k : Nat) (f : SideSt → SideSt) (s : State) : (updSide k f s).tt = s.tt := rfl
@[simp] theorem updSide_ports (k : Nat) (f : SideSt → SideSt) (s : State) : (updSide k f s).ports = s.ports := rfl
@[simp] theorem updSide_ver (k : Nat) (f : SideSt → SideSt) (s : State) : (updSide k f s).ver = s.ver := rfl
@[simp] theorem updSide_arr (k : Nat) (f : SideSt → SideSt) (s : State) : (updSide k f s).arr = s.arr := rfl
@[simp] theorem updSide_flow (k : Nat) (f : SideSt → SideSt) (s : State) : (updSide k f s).flow = s.flow := rfl
@[simp] theorem updSide_ucode (k : Nat) (f : SideSt → SideSt) (s : State) : (updSide k f s).ucode = s.ucode := rfl
@[simp] theorem updSide_frames (k : Nat) (f : SideSt → SideSt) (s : State) : (updSide k f s).frames = s.frames := rfl
@[simp] theorem updSide_trapHw (k : Nat) (f : SideSt → SideSt) (s : State) : (updSide k f s).trapHw = s.trapHw := rfl
@[simp] theorem updSide_fab (k : Nat) (f : SideSt → SideSt) (s : State) : (updSide k f s).fab = s.fab := rfl
@[simp] theorem updSide_hbm (k : Nat) (f : SideSt → SideSt) (s : State) : (updSide k f s).hbm = s.hbm := rfl
@[simp] theorem updSide_sec (k : Nat) (f : SideSt → SideSt) (s : State) : (updSide k f s).sec = s.sec := rfl
@[simp] theorem updSide_qcp (k : Nat) (f : SideSt → SideSt) (s : State) : (updSide k f s).qcp = s.qcp := rfl
@[simp] theorem updSide_agents (k : Nat) (f : SideSt → SideSt) (s : State) : (updSide k f s).agents = s.agents := rfl
@[simp] theorem updSide_evc (k : Nat) (f : SideSt → SideSt) (s : State) : (updSide k f s).evc = s.evc := rfl
@[simp] theorem updSide_world (k : Nat) (f : SideSt → SideSt) (s : State) : (updSide k f s).world = s.world := rfl
@[simp] theorem updSide_mode (k : Nat) (f : SideSt → SideSt) (s : State) : (updSide k f s).mode = s.mode := rfl
@[simp] theorem updSide_pmu (k : Nat) (f : SideSt → SideSt) (s : State) : (updSide k f s).pmu = s.pmu := rfl
@[simp] theorem updSide_log (k : Nat) (f : SideSt → SideSt) (s : State) : (updSide k f s).log = s.log := rfl
@[simp] theorem updSide_mmc (k : Nat) (f : SideSt → SideSt) (s : State) : (updSide k f s).mmc = s.mmc := rfl
@[simp] theorem updSide_late (k : Nat) (f : SideSt → SideSt) (s : State) : (updSide k f s).late = s.late := rfl
@[simp] theorem updSide_ran (k : Nat) (f : SideSt → SideSt) (s : State) : (updSide k f s).ran = s.ran := rfl
@[simp] theorem updSide_ctrs (k : Nat) (f : SideSt → SideSt) (s : State) : (updSide k f s).ctrs = s.ctrs := rfl

/-! ### updChan -/

@[simp] theorem updChan_pending (c : Nat) (f : ChanSt → ChanSt) (s : State) : (updChan c f s).pending = s.pending := rfl
@[simp] theorem updChan_fresh (c : Nat) (f : ChanSt → ChanSt) (s : State) : (updChan c f s).fresh = s.fresh := rfl
@[simp] theorem updChan_nextFid (c : Nat) (f : ChanSt → ChanSt) (s : State) : (updChan c f s).nextFid = s.nextFid := rfl
@[simp] theorem updChan_time (c : Nat) (f : ChanSt → ChanSt) (s : State) : (updChan c f s).time = s.time := rfl
@[simp] theorem updChan_clock (c : Nat) (f : ChanSt → ChanSt) (s : State) : (updChan c f s).clock = s.clock := rfl
@[simp] theorem updChan_tt (c : Nat) (f : ChanSt → ChanSt) (s : State) : (updChan c f s).tt = s.tt := rfl
@[simp] theorem updChan_ports (c : Nat) (f : ChanSt → ChanSt) (s : State) : (updChan c f s).ports = s.ports := rfl
@[simp] theorem updChan_ver (c : Nat) (f : ChanSt → ChanSt) (s : State) : (updChan c f s).ver = s.ver := rfl
@[simp] theorem updChan_arr (c : Nat) (f : ChanSt → ChanSt) (s : State) : (updChan c f s).arr = s.arr := rfl
@[simp] theorem updChan_flow (c : Nat) (f : ChanSt → ChanSt) (s : State) : (updChan c f s).flow = s.flow := rfl
@[simp] theorem updChan_ucode (c : Nat) (f : ChanSt → ChanSt) (s : State) : (updChan c f s).ucode = s.ucode := rfl
@[simp] theorem updChan_frames (c : Nat) (f : ChanSt → ChanSt) (s : State) : (updChan c f s).frames = s.frames := rfl
@[simp] theorem updChan_trapHw (c : Nat) (f : ChanSt → ChanSt) (s : State) : (updChan c f s).trapHw = s.trapHw := rfl
@[simp] theorem updChan_fab (c : Nat) (f : ChanSt → ChanSt) (s : State) : (updChan c f s).fab = s.fab := rfl
@[simp] theorem updChan_egr (c : Nat) (f : ChanSt → ChanSt) (s : State) : (updChan c f s).egr = s.egr := rfl
@[simp] theorem updChan_sec (c : Nat) (f : ChanSt → ChanSt) (s : State) : (updChan c f s).sec = s.sec := rfl
@[simp] theorem updChan_qcp (c : Nat) (f : ChanSt → ChanSt) (s : State) : (updChan c f s).qcp = s.qcp := rfl
@[simp] theorem updChan_agents (c : Nat) (f : ChanSt → ChanSt) (s : State) : (updChan c f s).agents = s.agents := rfl
@[simp] theorem updChan_evc (c : Nat) (f : ChanSt → ChanSt) (s : State) : (updChan c f s).evc = s.evc := rfl
@[simp] theorem updChan_world (c : Nat) (f : ChanSt → ChanSt) (s : State) : (updChan c f s).world = s.world := rfl
@[simp] theorem updChan_mode (c : Nat) (f : ChanSt → ChanSt) (s : State) : (updChan c f s).mode = s.mode := rfl
@[simp] theorem updChan_pmu (c : Nat) (f : ChanSt → ChanSt) (s : State) : (updChan c f s).pmu = s.pmu := rfl
@[simp] theorem updChan_log (c : Nat) (f : ChanSt → ChanSt) (s : State) : (updChan c f s).log = s.log := rfl
@[simp] theorem updChan_mmc (c : Nat) (f : ChanSt → ChanSt) (s : State) : (updChan c f s).mmc = s.mmc := rfl
@[simp] theorem updChan_late (c : Nat) (f : ChanSt → ChanSt) (s : State) : (updChan c f s).late = s.late := rfl
@[simp] theorem updChan_ran (c : Nat) (f : ChanSt → ChanSt) (s : State) : (updChan c f s).ran = s.ran := rfl
@[simp] theorem updChan_ctrs (c : Nat) (f : ChanSt → ChanSt) (s : State) : (updChan c f s).ctrs = s.ctrs := rfl

/-! ### updAgent -/

@[simp] theorem updAgent_pending (k : Nat) (f : AgentSt → AgentSt) (s : State) : (updAgent k f s).pending = s.pending := rfl
@[simp] theorem updAgent_fresh (k : Nat) (f : AgentSt → AgentSt) (s : State) : (updAgent k f s).fresh = s.fresh := rfl
@[simp] theorem updAgent_nextFid (k : Nat) (f : AgentSt → AgentSt) (s : State) : (updAgent k f s).nextFid = s.nextFid := rfl
@[simp] theorem updAgent_time (k : Nat) (f : AgentSt → AgentSt) (s : State) : (updAgent k f s).time = s.time := rfl
@[simp] theorem updAgent_clock (k : Nat) (f : AgentSt → AgentSt) (s : State) : (updAgent k f s).clock = s.clock := rfl
@[simp] theorem updAgent_tt (k : Nat) (f : AgentSt → AgentSt) (s : State) : (updAgent k f s).tt = s.tt := rfl
@[simp] theorem updAgent_ports (k : Nat) (f : AgentSt → AgentSt) (s : State) : (updAgent k f s).ports = s.ports := rfl
@[simp] theorem updAgent_ver (k : Nat) (f : AgentSt → AgentSt) (s : State) : (updAgent k f s).ver = s.ver := rfl
@[simp] theorem updAgent_arr (k : Nat) (f : AgentSt → AgentSt) (s : State) : (updAgent k f s).arr = s.arr := rfl
@[simp] theorem updAgent_flow (k : Nat) (f : AgentSt → AgentSt) (s : State) : (updAgent k f s).flow = s.flow := rfl
@[simp] theorem updAgent_ucode (k : Nat) (f : AgentSt → AgentSt) (s : State) : (updAgent k f s).ucode = s.ucode := rfl
@[simp] theorem updAgent_frames (k : Nat) (f : AgentSt → AgentSt) (s : State) : (updAgent k f s).frames = s.frames := rfl
@[simp] theorem updAgent_trapHw (k : Nat) (f : AgentSt → AgentSt) (s : State) : (updAgent k f s).trapHw = s.trapHw := rfl
@[simp] theorem updAgent_fab (k : Nat) (f : AgentSt → AgentSt) (s : State) : (updAgent k f s).fab = s.fab := rfl
@[simp] theorem updAgent_egr (k : Nat) (f : AgentSt → AgentSt) (s : State) : (updAgent k f s).egr = s.egr := rfl
@[simp] theorem updAgent_hbm (k : Nat) (f : AgentSt → AgentSt) (s : State) : (updAgent k f s).hbm = s.hbm := rfl
@[simp] theorem updAgent_sec (k : Nat) (f : AgentSt → AgentSt) (s : State) : (updAgent k f s).sec = s.sec := rfl
@[simp] theorem updAgent_qcp (k : Nat) (f : AgentSt → AgentSt) (s : State) : (updAgent k f s).qcp = s.qcp := rfl
@[simp] theorem updAgent_evc (k : Nat) (f : AgentSt → AgentSt) (s : State) : (updAgent k f s).evc = s.evc := rfl
@[simp] theorem updAgent_world (k : Nat) (f : AgentSt → AgentSt) (s : State) : (updAgent k f s).world = s.world := rfl
@[simp] theorem updAgent_mode (k : Nat) (f : AgentSt → AgentSt) (s : State) : (updAgent k f s).mode = s.mode := rfl
@[simp] theorem updAgent_pmu (k : Nat) (f : AgentSt → AgentSt) (s : State) : (updAgent k f s).pmu = s.pmu := rfl
@[simp] theorem updAgent_log (k : Nat) (f : AgentSt → AgentSt) (s : State) : (updAgent k f s).log = s.log := rfl
@[simp] theorem updAgent_mmc (k : Nat) (f : AgentSt → AgentSt) (s : State) : (updAgent k f s).mmc = s.mmc := rfl
@[simp] theorem updAgent_late (k : Nat) (f : AgentSt → AgentSt) (s : State) : (updAgent k f s).late = s.late := rfl
@[simp] theorem updAgent_ran (k : Nat) (f : AgentSt → AgentSt) (s : State) : (updAgent k f s).ran = s.ran := rfl
@[simp] theorem updAgent_ctrs (k : Nat) (f : AgentSt → AgentSt) (s : State) : (updAgent k f s).ctrs = s.ctrs := rfl

/-! ### updThread -/

@[simp] theorem updThread_pending (k t : Nat) (f : Thread → Thread) (s : State) : (updThread k t f s).pending = s.pending := rfl
@[simp] theorem updThread_fresh (k t : Nat) (f : Thread → Thread) (s : State) : (updThread k t f s).fresh = s.fresh := rfl
@[simp] theorem updThread_nextFid (k t : Nat) (f : Thread → Thread) (s : State) : (updThread k t f s).nextFid = s.nextFid := rfl
@[simp] theorem updThread_time (k t : Nat) (f : Thread → Thread) (s : State) : (updThread k t f s).time = s.time := rfl
@[simp] theorem updThread_clock (k t : Nat) (f : Thread → Thread) (s : State) : (updThread k t f s).clock = s.clock := rfl
@[simp] theorem updThread_tt (k t : Nat) (f : Thread → Thread) (s : State) : (updThread k t f s).tt = s.tt := rfl
@[simp] theorem updThread_ports (k t : Nat) (f : Thread → Thread) (s : State) : (updThread k t f s).ports = s.ports := rfl
@[simp] theorem updThread_ver (k t : Nat) (f : Thread → Thread) (s : State) : (updThread k t f s).ver = s.ver := rfl
@[simp] theorem updThread_arr (k t : Nat) (f : Thread → Thread) (s : State) : (updThread k t f s).arr = s.arr := rfl
@[simp] theorem updThread_flow (k t : Nat) (f : Thread → Thread) (s : State) : (updThread k t f s).flow = s.flow := rfl
@[simp] theorem updThread_ucode (k t : Nat) (f : Thread → Thread) (s : State) : (updThread k t f s).ucode = s.ucode := rfl
@[simp] theorem updThread_frames (k t : Nat) (f : Thread → Thread) (s : State) : (updThread k t f s).frames = s.frames := rfl
@[simp] theorem updThread_trapHw (k t : Nat) (f : Thread → Thread) (s : State) : (updThread k t f s).trapHw = s.trapHw := rfl
@[simp] theorem updThread_fab (k t : Nat) (f : Thread → Thread) (s : State) : (updThread k t f s).fab = s.fab := rfl
@[simp] theorem updThread_egr (k t : Nat) (f : Thread → Thread) (s : State) : (updThread k t f s).egr = s.egr := rfl
@[simp] theorem updThread_hbm (k t : Nat) (f : Thread → Thread) (s : State) : (updThread k t f s).hbm = s.hbm := rfl
@[simp] theorem updThread_sec (k t : Nat) (f : Thread → Thread) (s : State) : (updThread k t f s).sec = s.sec := rfl
@[simp] theorem updThread_qcp (k t : Nat) (f : Thread → Thread) (s : State) : (updThread k t f s).qcp = s.qcp := rfl
@[simp] theorem updThread_evc (k t : Nat) (f : Thread → Thread) (s : State) : (updThread k t f s).evc = s.evc := rfl
@[simp] theorem updThread_world (k t : Nat) (f : Thread → Thread) (s : State) : (updThread k t f s).world = s.world := rfl
@[simp] theorem updThread_mode (k t : Nat) (f : Thread → Thread) (s : State) : (updThread k t f s).mode = s.mode := rfl
@[simp] theorem updThread_pmu (k t : Nat) (f : Thread → Thread) (s : State) : (updThread k t f s).pmu = s.pmu := rfl
@[simp] theorem updThread_log (k t : Nat) (f : Thread → Thread) (s : State) : (updThread k t f s).log = s.log := rfl
@[simp] theorem updThread_mmc (k t : Nat) (f : Thread → Thread) (s : State) : (updThread k t f s).mmc = s.mmc := rfl
@[simp] theorem updThread_late (k t : Nat) (f : Thread → Thread) (s : State) : (updThread k t f s).late = s.late := rfl
@[simp] theorem updThread_ran (k t : Nat) (f : Thread → Thread) (s : State) : (updThread k t f s).ran = s.ran := rfl
@[simp] theorem updThread_ctrs (k t : Nat) (f : Thread → Thread) (s : State) : (updThread k t f s).ctrs = s.ctrs := rfl

/-! ### updUc -/

@[simp] theorem updUc_pending (k : Nat) (f : UcSlice → UcSlice) (s : State) : (updUc k f s).pending = s.pending := rfl
@[simp] theorem updUc_fresh (k : Nat) (f : UcSlice → UcSlice) (s : State) : (updUc k f s).fresh = s.fresh := rfl
@[simp] theorem updUc_nextFid (k : Nat) (f : UcSlice → UcSlice) (s : State) : (updUc k f s).nextFid = s.nextFid := rfl
@[simp] theorem updUc_time (k : Nat) (f : UcSlice → UcSlice) (s : State) : (updUc k f s).time = s.time := rfl
@[simp] theorem updUc_clock (k : Nat) (f : UcSlice → UcSlice) (s : State) : (updUc k f s).clock = s.clock := rfl
@[simp] theorem updUc_tt (k : Nat) (f : UcSlice → UcSlice) (s : State) : (updUc k f s).tt = s.tt := rfl
@[simp] theorem updUc_ports (k : Nat) (f : UcSlice → UcSlice) (s : State) : (updUc k f s).ports = s.ports := rfl
@[simp] theorem updUc_ver (k : Nat) (f : UcSlice → UcSlice) (s : State) : (updUc k f s).ver = s.ver := rfl
@[simp] theorem updUc_arr (k : Nat) (f : UcSlice → UcSlice) (s : State) : (updUc k f s).arr = s.arr := rfl
@[simp] theorem updUc_flow (k : Nat) (f : UcSlice → UcSlice) (s : State) : (updUc k f s).flow = s.flow := rfl
@[simp] theorem updUc_frames (k : Nat) (f : UcSlice → UcSlice) (s : State) : (updUc k f s).frames = s.frames := rfl
@[simp] theorem updUc_trapHw (k : Nat) (f : UcSlice → UcSlice) (s : State) : (updUc k f s).trapHw = s.trapHw := rfl
@[simp] theorem updUc_fab (k : Nat) (f : UcSlice → UcSlice) (s : State) : (updUc k f s).fab = s.fab := rfl
@[simp] theorem updUc_egr (k : Nat) (f : UcSlice → UcSlice) (s : State) : (updUc k f s).egr = s.egr := rfl
@[simp] theorem updUc_hbm (k : Nat) (f : UcSlice → UcSlice) (s : State) : (updUc k f s).hbm = s.hbm := rfl
@[simp] theorem updUc_sec (k : Nat) (f : UcSlice → UcSlice) (s : State) : (updUc k f s).sec = s.sec := rfl
@[simp] theorem updUc_qcp (k : Nat) (f : UcSlice → UcSlice) (s : State) : (updUc k f s).qcp = s.qcp := rfl
@[simp] theorem updUc_agents (k : Nat) (f : UcSlice → UcSlice) (s : State) : (updUc k f s).agents = s.agents := rfl
@[simp] theorem updUc_evc (k : Nat) (f : UcSlice → UcSlice) (s : State) : (updUc k f s).evc = s.evc := rfl
@[simp] theorem updUc_world (k : Nat) (f : UcSlice → UcSlice) (s : State) : (updUc k f s).world = s.world := rfl
@[simp] theorem updUc_mode (k : Nat) (f : UcSlice → UcSlice) (s : State) : (updUc k f s).mode = s.mode := rfl
@[simp] theorem updUc_pmu (k : Nat) (f : UcSlice → UcSlice) (s : State) : (updUc k f s).pmu = s.pmu := rfl
@[simp] theorem updUc_log (k : Nat) (f : UcSlice → UcSlice) (s : State) : (updUc k f s).log = s.log := rfl
@[simp] theorem updUc_mmc (k : Nat) (f : UcSlice → UcSlice) (s : State) : (updUc k f s).mmc = s.mmc := rfl
@[simp] theorem updUc_late (k : Nat) (f : UcSlice → UcSlice) (s : State) : (updUc k f s).late = s.late := rfl
@[simp] theorem updUc_ran (k : Nat) (f : UcSlice → UcSlice) (s : State) : (updUc k f s).ran = s.ran := rfl
@[simp] theorem updUc_ctrs (k : Nat) (f : UcSlice → UcSlice) (s : State) : (updUc k f s).ctrs = s.ctrs := rfl

/-! ### updPin -/

@[simp] theorem updPin_pending (p : Nat) (f : PinSt → PinSt) (s : State) : (updPin p f s).pending = s.pending := rfl
@[simp] theorem updPin_fresh (p : Nat) (f : PinSt → PinSt) (s : State) : (updPin p f s).fresh = s.fresh := rfl
@[simp] theorem updPin_nextFid (p : Nat) (f : PinSt → PinSt) (s : State) : (updPin p f s).nextFid = s.nextFid := rfl
@[simp] theorem updPin_time (p : Nat) (f : PinSt → PinSt) (s : State) : (updPin p f s).time = s.time := rfl
@[simp] theorem updPin_tt (p : Nat) (f : PinSt → PinSt) (s : State) : (updPin p f s).tt = s.tt := rfl
@[simp] theorem updPin_ports (p : Nat) (f : PinSt → PinSt) (s : State) : (updPin p f s).ports = s.ports := rfl
@[simp] theorem updPin_ver (p : Nat) (f : PinSt → PinSt) (s : State) : (updPin p f s).ver = s.ver := rfl
@[simp] theorem updPin_arr (p : Nat) (f : PinSt → PinSt) (s : State) : (updPin p f s).arr = s.arr := rfl
@[simp] theorem updPin_flow (p : Nat) (f : PinSt → PinSt) (s : State) : (updPin p f s).flow = s.flow := rfl
@[simp] theorem updPin_ucode (p : Nat) (f : PinSt → PinSt) (s : State) : (updPin p f s).ucode = s.ucode := rfl
@[simp] theorem updPin_frames (p : Nat) (f : PinSt → PinSt) (s : State) : (updPin p f s).frames = s.frames := rfl
@[simp] theorem updPin_trapHw (p : Nat) (f : PinSt → PinSt) (s : State) : (updPin p f s).trapHw = s.trapHw := rfl
@[simp] theorem updPin_fab (p : Nat) (f : PinSt → PinSt) (s : State) : (updPin p f s).fab = s.fab := rfl
@[simp] theorem updPin_egr (p : Nat) (f : PinSt → PinSt) (s : State) : (updPin p f s).egr = s.egr := rfl
@[simp] theorem updPin_hbm (p : Nat) (f : PinSt → PinSt) (s : State) : (updPin p f s).hbm = s.hbm := rfl
@[simp] theorem updPin_sec (p : Nat) (f : PinSt → PinSt) (s : State) : (updPin p f s).sec = s.sec := rfl
@[simp] theorem updPin_qcp (p : Nat) (f : PinSt → PinSt) (s : State) : (updPin p f s).qcp = s.qcp := rfl
@[simp] theorem updPin_agents (p : Nat) (f : PinSt → PinSt) (s : State) : (updPin p f s).agents = s.agents := rfl
@[simp] theorem updPin_evc (p : Nat) (f : PinSt → PinSt) (s : State) : (updPin p f s).evc = s.evc := rfl
@[simp] theorem updPin_world (p : Nat) (f : PinSt → PinSt) (s : State) : (updPin p f s).world = s.world := rfl
@[simp] theorem updPin_mode (p : Nat) (f : PinSt → PinSt) (s : State) : (updPin p f s).mode = s.mode := rfl
@[simp] theorem updPin_pmu (p : Nat) (f : PinSt → PinSt) (s : State) : (updPin p f s).pmu = s.pmu := rfl
@[simp] theorem updPin_log (p : Nat) (f : PinSt → PinSt) (s : State) : (updPin p f s).log = s.log := rfl
@[simp] theorem updPin_mmc (p : Nat) (f : PinSt → PinSt) (s : State) : (updPin p f s).mmc = s.mmc := rfl
@[simp] theorem updPin_late (p : Nat) (f : PinSt → PinSt) (s : State) : (updPin p f s).late = s.late := rfl
@[simp] theorem updPin_ran (p : Nat) (f : PinSt → PinSt) (s : State) : (updPin p f s).ran = s.ran := rfl
@[simp] theorem updPin_ctrs (p : Nat) (f : PinSt → PinSt) (s : State) : (updPin p f s).ctrs = s.ctrs := rfl

/-! ### updRing -/

@[simp] theorem updRing_pending (w : World) (k : RingKind) (f : RingSt → RingSt) (s : State) : (updRing w k f s).pending = s.pending := rfl
@[simp] theorem updRing_fresh (w : World) (k : RingKind) (f : RingSt → RingSt) (s : State) : (updRing w k f s).fresh = s.fresh := rfl
@[simp] theorem updRing_nextFid (w : World) (k : RingKind) (f : RingSt → RingSt) (s : State) : (updRing w k f s).nextFid = s.nextFid := rfl
@[simp] theorem updRing_time (w : World) (k : RingKind) (f : RingSt → RingSt) (s : State) : (updRing w k f s).time = s.time := rfl
@[simp] theorem updRing_clock (w : World) (k : RingKind) (f : RingSt → RingSt) (s : State) : (updRing w k f s).clock = s.clock := rfl
@[simp] theorem updRing_tt (w : World) (k : RingKind) (f : RingSt → RingSt) (s : State) : (updRing w k f s).tt = s.tt := rfl
@[simp] theorem updRing_ports (w : World) (k : RingKind) (f : RingSt → RingSt) (s : State) : (updRing w k f s).ports = s.ports := rfl
@[simp] theorem updRing_ver (w : World) (k : RingKind) (f : RingSt → RingSt) (s : State) : (updRing w k f s).ver = s.ver := rfl
@[simp] theorem updRing_arr (w : World) (k : RingKind) (f : RingSt → RingSt) (s : State) : (updRing w k f s).arr = s.arr := rfl
@[simp] theorem updRing_flow (w : World) (k : RingKind) (f : RingSt → RingSt) (s : State) : (updRing w k f s).flow = s.flow := rfl
@[simp] theorem updRing_ucode (w : World) (k : RingKind) (f : RingSt → RingSt) (s : State) : (updRing w k f s).ucode = s.ucode := rfl
@[simp] theorem updRing_frames (w : World) (k : RingKind) (f : RingSt → RingSt) (s : State) : (updRing w k f s).frames = s.frames := rfl
@[simp] theorem updRing_trapHw (w : World) (k : RingKind) (f : RingSt → RingSt) (s : State) : (updRing w k f s).trapHw = s.trapHw := rfl
@[simp] theorem updRing_fab (w : World) (k : RingKind) (f : RingSt → RingSt) (s : State) : (updRing w k f s).fab = s.fab := rfl
@[simp] theorem updRing_egr (w : World) (k : RingKind) (f : RingSt → RingSt) (s : State) : (updRing w k f s).egr = s.egr := rfl
@[simp] theorem updRing_hbm (w : World) (k : RingKind) (f : RingSt → RingSt) (s : State) : (updRing w k f s).hbm = s.hbm := rfl
@[simp] theorem updRing_sec (w : World) (k : RingKind) (f : RingSt → RingSt) (s : State) : (updRing w k f s).sec = s.sec := rfl
@[simp] theorem updRing_agents (w : World) (k : RingKind) (f : RingSt → RingSt) (s : State) : (updRing w k f s).agents = s.agents := rfl
@[simp] theorem updRing_evc (w : World) (k : RingKind) (f : RingSt → RingSt) (s : State) : (updRing w k f s).evc = s.evc := rfl
@[simp] theorem updRing_world (w : World) (k : RingKind) (f : RingSt → RingSt) (s : State) : (updRing w k f s).world = s.world := rfl
@[simp] theorem updRing_mode (w : World) (k : RingKind) (f : RingSt → RingSt) (s : State) : (updRing w k f s).mode = s.mode := rfl
@[simp] theorem updRing_pmu (w : World) (k : RingKind) (f : RingSt → RingSt) (s : State) : (updRing w k f s).pmu = s.pmu := rfl
@[simp] theorem updRing_log (w : World) (k : RingKind) (f : RingSt → RingSt) (s : State) : (updRing w k f s).log = s.log := rfl
@[simp] theorem updRing_mmc (w : World) (k : RingKind) (f : RingSt → RingSt) (s : State) : (updRing w k f s).mmc = s.mmc := rfl
@[simp] theorem updRing_late (w : World) (k : RingKind) (f : RingSt → RingSt) (s : State) : (updRing w k f s).late = s.late := rfl
@[simp] theorem updRing_ran (w : World) (k : RingKind) (f : RingSt → RingSt) (s : State) : (updRing w k f s).ran = s.ran := rfl
@[simp] theorem updRing_ctrs (w : World) (k : RingKind) (f : RingSt → RingSt) (s : State) : (updRing w k f s).ctrs = s.ctrs := rfl

/-! ### setFrame -/

@[simp] theorem setFrame_pending (f : Frame) (s : State) : (setFrame f s).pending = s.pending := rfl
@[simp] theorem setFrame_fresh (f : Frame) (s : State) : (setFrame f s).fresh = s.fresh := rfl
@[simp] theorem setFrame_nextFid (f : Frame) (s : State) : (setFrame f s).nextFid = s.nextFid := rfl
@[simp] theorem setFrame_time (f : Frame) (s : State) : (setFrame f s).time = s.time := rfl
@[simp] theorem setFrame_clock (f : Frame) (s : State) : (setFrame f s).clock = s.clock := rfl
@[simp] theorem setFrame_tt (f : Frame) (s : State) : (setFrame f s).tt = s.tt := rfl
@[simp] theorem setFrame_ports (f : Frame) (s : State) : (setFrame f s).ports = s.ports := rfl
@[simp] theorem setFrame_ver (f : Frame) (s : State) : (setFrame f s).ver = s.ver := rfl
@[simp] theorem setFrame_arr (f : Frame) (s : State) : (setFrame f s).arr = s.arr := rfl
@[simp] theorem setFrame_flow (f : Frame) (s : State) : (setFrame f s).flow = s.flow := rfl
@[simp] theorem setFrame_ucode (f : Frame) (s : State) : (setFrame f s).ucode = s.ucode := rfl
@[simp] theorem setFrame_trapHw (f : Frame) (s : State) : (setFrame f s).trapHw = s.trapHw := rfl
@[simp] theorem setFrame_fab (f : Frame) (s : State) : (setFrame f s).fab = s.fab := rfl
@[simp] theorem setFrame_egr (f : Frame) (s : State) : (setFrame f s).egr = s.egr := rfl
@[simp] theorem setFrame_hbm (f : Frame) (s : State) : (setFrame f s).hbm = s.hbm := rfl
@[simp] theorem setFrame_sec (f : Frame) (s : State) : (setFrame f s).sec = s.sec := rfl
@[simp] theorem setFrame_qcp (f : Frame) (s : State) : (setFrame f s).qcp = s.qcp := rfl
@[simp] theorem setFrame_agents (f : Frame) (s : State) : (setFrame f s).agents = s.agents := rfl
@[simp] theorem setFrame_evc (f : Frame) (s : State) : (setFrame f s).evc = s.evc := rfl
@[simp] theorem setFrame_world (f : Frame) (s : State) : (setFrame f s).world = s.world := rfl
@[simp] theorem setFrame_mode (f : Frame) (s : State) : (setFrame f s).mode = s.mode := rfl
@[simp] theorem setFrame_pmu (f : Frame) (s : State) : (setFrame f s).pmu = s.pmu := rfl
@[simp] theorem setFrame_log (f : Frame) (s : State) : (setFrame f s).log = s.log := rfl
@[simp] theorem setFrame_mmc (f : Frame) (s : State) : (setFrame f s).mmc = s.mmc := rfl
@[simp] theorem setFrame_late (f : Frame) (s : State) : (setFrame f s).late = s.late := rfl
@[simp] theorem setFrame_ran (f : Frame) (s : State) : (setFrame f s).ran = s.ran := rfl
@[simp] theorem setFrame_ctrs (f : Frame) (s : State) : (setFrame f s).ctrs = s.ctrs := rfl

/-! ### dropFrame -/

@[simp] theorem dropFrame_pending (n : Nat) (s : State) : (dropFrame n s).pending = s.pending := rfl
@[simp] theorem dropFrame_fresh (n : Nat) (s : State) : (dropFrame n s).fresh = s.fresh := rfl
@[simp] theorem dropFrame_nextFid (n : Nat) (s : State) : (dropFrame n s).nextFid = s.nextFid := rfl
@[simp] theorem dropFrame_time (n : Nat) (s : State) : (dropFrame n s).time = s.time := rfl
@[simp] theorem dropFrame_clock (n : Nat) (s : State) : (dropFrame n s).clock = s.clock := rfl
@[simp] theorem dropFrame_tt (n : Nat) (s : State) : (dropFrame n s).tt = s.tt := rfl
@[simp] theorem dropFrame_ports (n : Nat) (s : State) : (dropFrame n s).ports = s.ports := rfl
@[simp] theorem dropFrame_ver (n : Nat) (s : State) : (dropFrame n s).ver = s.ver := rfl
@[simp] theorem dropFrame_arr (n : Nat) (s : State) : (dropFrame n s).arr = s.arr := rfl
@[simp] theorem dropFrame_flow (n : Nat) (s : State) : (dropFrame n s).flow = s.flow := rfl
@[simp] theorem dropFrame_ucode (n : Nat) (s : State) : (dropFrame n s).ucode = s.ucode := rfl
@[simp] theorem dropFrame_trapHw (n : Nat) (s : State) : (dropFrame n s).trapHw = s.trapHw := rfl
@[simp] theorem dropFrame_fab (n : Nat) (s : State) : (dropFrame n s).fab = s.fab := rfl
@[simp] theorem dropFrame_egr (n : Nat) (s : State) : (dropFrame n s).egr = s.egr := rfl
@[simp] theorem dropFrame_hbm (n : Nat) (s : State) : (dropFrame n s).hbm = s.hbm := rfl
@[simp] theorem dropFrame_sec (n : Nat) (s : State) : (dropFrame n s).sec = s.sec := rfl
@[simp] theorem dropFrame_qcp (n : Nat) (s : State) : (dropFrame n s).qcp = s.qcp := rfl
@[simp] theorem dropFrame_agents (n : Nat) (s : State) : (dropFrame n s).agents = s.agents := rfl
@[simp] theorem dropFrame_evc (n : Nat) (s : State) : (dropFrame n s).evc = s.evc := rfl
@[simp] theorem dropFrame_world (n : Nat) (s : State) : (dropFrame n s).world = s.world := rfl
@[simp] theorem dropFrame_mode (n : Nat) (s : State) : (dropFrame n s).mode = s.mode := rfl
@[simp] theorem dropFrame_pmu (n : Nat) (s : State) : (dropFrame n s).pmu = s.pmu := rfl
@[simp] theorem dropFrame_log (n : Nat) (s : State) : (dropFrame n s).log = s.log := rfl
@[simp] theorem dropFrame_mmc (n : Nat) (s : State) : (dropFrame n s).mmc = s.mmc := rfl
@[simp] theorem dropFrame_late (n : Nat) (s : State) : (dropFrame n s).late = s.late := rfl
@[simp] theorem dropFrame_ran (n : Nat) (s : State) : (dropFrame n s).ran = s.ran := rfl
@[simp] theorem dropFrame_ctrs (n : Nat) (s : State) : (dropFrame n s).ctrs = s.ctrs := rfl

/-! ### enterMode -/

@[simp] theorem enterMode_pending (m : Mode) (s : State) : (enterMode m s).pending = s.pending := rfl
@[simp] theorem enterMode_fresh (m : Mode) (s : State) : (enterMode m s).fresh = s.fresh := rfl
@[simp] theorem enterMode_nextFid (m : Mode) (s : State) : (enterMode m s).nextFid = s.nextFid := rfl
@[simp] theorem enterMode_time (m : Mode) (s : State) : (enterMode m s).time = s.time := rfl
@[simp] theorem enterMode_clock (m : Mode) (s : State) : (enterMode m s).clock = s.clock := rfl
@[simp] theorem enterMode_tt (m : Mode) (s : State) : (enterMode m s).tt = s.tt := rfl
@[simp] theorem enterMode_ports (m : Mode) (s : State) : (enterMode m s).ports = s.ports := rfl
@[simp] theorem enterMode_ver (m : Mode) (s : State) : (enterMode m s).ver = s.ver := rfl
@[simp] theorem enterMode_arr (m : Mode) (s : State) : (enterMode m s).arr = s.arr := rfl
@[simp] theorem enterMode_flow (m : Mode) (s : State) : (enterMode m s).flow = s.flow := rfl
@[simp] theorem enterMode_ucode (m : Mode) (s : State) : (enterMode m s).ucode = s.ucode := rfl
@[simp] theorem enterMode_frames (m : Mode) (s : State) : (enterMode m s).frames = s.frames := rfl
@[simp] theorem enterMode_trapHw (m : Mode) (s : State) : (enterMode m s).trapHw = s.trapHw := rfl
@[simp] theorem enterMode_fab (m : Mode) (s : State) : (enterMode m s).fab = s.fab := rfl
@[simp] theorem enterMode_egr (m : Mode) (s : State) : (enterMode m s).egr = s.egr := rfl
@[simp] theorem enterMode_hbm (m : Mode) (s : State) : (enterMode m s).hbm = s.hbm := rfl
@[simp] theorem enterMode_sec (m : Mode) (s : State) : (enterMode m s).sec = s.sec := rfl
@[simp] theorem enterMode_qcp (m : Mode) (s : State) : (enterMode m s).qcp = s.qcp := rfl
@[simp] theorem enterMode_agents (m : Mode) (s : State) : (enterMode m s).agents = s.agents := rfl
@[simp] theorem enterMode_world (m : Mode) (s : State) : (enterMode m s).world = s.world := rfl
@[simp] theorem enterMode_pmu (m : Mode) (s : State) : (enterMode m s).pmu = s.pmu := rfl
@[simp] theorem enterMode_log (m : Mode) (s : State) : (enterMode m s).log = s.log := rfl
@[simp] theorem enterMode_mmc (m : Mode) (s : State) : (enterMode m s).mmc = s.mmc := rfl
@[simp] theorem enterMode_late (m : Mode) (s : State) : (enterMode m s).late = s.late := rfl
@[simp] theorem enterMode_ran (m : Mode) (s : State) : (enterMode m s).ran = s.ran := rfl
@[simp] theorem enterMode_ctrs (m : Mode) (s : State) : (enterMode m s).ctrs = s.ctrs := rfl

/-! ### updPort, which changes nothing where there is no such port -/

@[simp] theorem updPort_pending (p : Nat) (g : PortSt → PortSt) (s : State) : (updPort p g s).pending = s.pending := by unfold updPort; split <;> rfl
@[simp] theorem updPort_fresh (p : Nat) (g : PortSt → PortSt) (s : State) : (updPort p g s).fresh = s.fresh := by unfold updPort; split <;> rfl
@[simp] theorem updPort_nextFid (p : Nat) (g : PortSt → PortSt) (s : State) : (updPort p g s).nextFid = s.nextFid := by unfold updPort; split <;> rfl
@[simp] theorem updPort_time (p : Nat) (g : PortSt → PortSt) (s : State) : (updPort p g s).time = s.time := by unfold updPort; split <;> rfl
@[simp] theorem updPort_clock (p : Nat) (g : PortSt → PortSt) (s : State) : (updPort p g s).clock = s.clock := by unfold updPort; split <;> rfl
@[simp] theorem updPort_tt (p : Nat) (g : PortSt → PortSt) (s : State) : (updPort p g s).tt = s.tt := by unfold updPort; split <;> rfl
@[simp] theorem updPort_ver (p : Nat) (g : PortSt → PortSt) (s : State) : (updPort p g s).ver = s.ver := by unfold updPort; split <;> rfl
@[simp] theorem updPort_arr (p : Nat) (g : PortSt → PortSt) (s : State) : (updPort p g s).arr = s.arr := by unfold updPort; split <;> rfl
@[simp] theorem updPort_flow (p : Nat) (g : PortSt → PortSt) (s : State) : (updPort p g s).flow = s.flow := by unfold updPort; split <;> rfl
@[simp] theorem updPort_ucode (p : Nat) (g : PortSt → PortSt) (s : State) : (updPort p g s).ucode = s.ucode := by unfold updPort; split <;> rfl
@[simp] theorem updPort_frames (p : Nat) (g : PortSt → PortSt) (s : State) : (updPort p g s).frames = s.frames := by unfold updPort; split <;> rfl
@[simp] theorem updPort_trapHw (p : Nat) (g : PortSt → PortSt) (s : State) : (updPort p g s).trapHw = s.trapHw := by unfold updPort; split <;> rfl
@[simp] theorem updPort_fab (p : Nat) (g : PortSt → PortSt) (s : State) : (updPort p g s).fab = s.fab := by unfold updPort; split <;> rfl
@[simp] theorem updPort_egr (p : Nat) (g : PortSt → PortSt) (s : State) : (updPort p g s).egr = s.egr := by unfold updPort; split <;> rfl
@[simp] theorem updPort_hbm (p : Nat) (g : PortSt → PortSt) (s : State) : (updPort p g s).hbm = s.hbm := by unfold updPort; split <;> rfl
@[simp] theorem updPort_sec (p : Nat) (g : PortSt → PortSt) (s : State) : (updPort p g s).sec = s.sec := by unfold updPort; split <;> rfl
@[simp] theorem updPort_qcp (p : Nat) (g : PortSt → PortSt) (s : State) : (updPort p g s).qcp = s.qcp := by unfold updPort; split <;> rfl
@[simp] theorem updPort_agents (p : Nat) (g : PortSt → PortSt) (s : State) : (updPort p g s).agents = s.agents := by unfold updPort; split <;> rfl
@[simp] theorem updPort_evc (p : Nat) (g : PortSt → PortSt) (s : State) : (updPort p g s).evc = s.evc := by unfold updPort; split <;> rfl
@[simp] theorem updPort_world (p : Nat) (g : PortSt → PortSt) (s : State) : (updPort p g s).world = s.world := by unfold updPort; split <;> rfl
@[simp] theorem updPort_mode (p : Nat) (g : PortSt → PortSt) (s : State) : (updPort p g s).mode = s.mode := by unfold updPort; split <;> rfl
@[simp] theorem updPort_pmu (p : Nat) (g : PortSt → PortSt) (s : State) : (updPort p g s).pmu = s.pmu := by unfold updPort; split <;> rfl
@[simp] theorem updPort_log (p : Nat) (g : PortSt → PortSt) (s : State) : (updPort p g s).log = s.log := by unfold updPort; split <;> rfl
@[simp] theorem updPort_mmc (p : Nat) (g : PortSt → PortSt) (s : State) : (updPort p g s).mmc = s.mmc := by unfold updPort; split <;> rfl
@[simp] theorem updPort_late (p : Nat) (g : PortSt → PortSt) (s : State) : (updPort p g s).late = s.late := by unfold updPort; split <;> rfl
@[simp] theorem updPort_ran (p : Nat) (g : PortSt → PortSt) (s : State) : (updPort p g s).ran = s.ran := by unfold updPort; split <;> rfl
@[simp] theorem updPort_ctrs (p : Nat) (g : PortSt → PortSt) (s : State) : (updPort p g s).ctrs = s.ctrs := by unfold updPort; split <;> rfl

/-! ### Draws and deferred writes -/

@[simp] theorem draws_pending (n : Nat) (s : State) : (draws n s).pending = s.pending := rfl
@[simp] theorem draws_nextFid (n : Nat) (s : State) : (draws n s).nextFid = s.nextFid := rfl
@[simp] theorem draws_time (n : Nat) (s : State) : (draws n s).time = s.time := rfl
@[simp] theorem draws_clock (n : Nat) (s : State) : (draws n s).clock = s.clock := rfl
@[simp] theorem draws_tt (n : Nat) (s : State) : (draws n s).tt = s.tt := rfl
@[simp] theorem draws_ports (n : Nat) (s : State) : (draws n s).ports = s.ports := rfl
@[simp] theorem draws_ver (n : Nat) (s : State) : (draws n s).ver = s.ver := rfl
@[simp] theorem draws_arr (n : Nat) (s : State) : (draws n s).arr = s.arr := rfl
@[simp] theorem draws_flow (n : Nat) (s : State) : (draws n s).flow = s.flow := rfl
@[simp] theorem draws_ucode (n : Nat) (s : State) : (draws n s).ucode = s.ucode := rfl
@[simp] theorem draws_frames (n : Nat) (s : State) : (draws n s).frames = s.frames := rfl
@[simp] theorem draws_trapHw (n : Nat) (s : State) : (draws n s).trapHw = s.trapHw := rfl
@[simp] theorem draws_fab (n : Nat) (s : State) : (draws n s).fab = s.fab := rfl
@[simp] theorem draws_egr (n : Nat) (s : State) : (draws n s).egr = s.egr := rfl
@[simp] theorem draws_hbm (n : Nat) (s : State) : (draws n s).hbm = s.hbm := rfl
@[simp] theorem draws_sec (n : Nat) (s : State) : (draws n s).sec = s.sec := rfl
@[simp] theorem draws_qcp (n : Nat) (s : State) : (draws n s).qcp = s.qcp := rfl
@[simp] theorem draws_agents (n : Nat) (s : State) : (draws n s).agents = s.agents := rfl
@[simp] theorem draws_evc (n : Nat) (s : State) : (draws n s).evc = s.evc := rfl
@[simp] theorem draws_world (n : Nat) (s : State) : (draws n s).world = s.world := rfl
@[simp] theorem draws_mode (n : Nat) (s : State) : (draws n s).mode = s.mode := rfl
@[simp] theorem draws_pmu (n : Nat) (s : State) : (draws n s).pmu = s.pmu := rfl
@[simp] theorem draws_log (n : Nat) (s : State) : (draws n s).log = s.log := rfl
@[simp] theorem draws_mmc (n : Nat) (s : State) : (draws n s).mmc = s.mmc := rfl
@[simp] theorem draws_ctrs (n : Nat) (s : State) : (draws n s).ctrs = s.ctrs := rfl
@[simp] theorem draws_late (n : Nat) (s : State) : (draws n s).late = s.late := rfl
@[simp] theorem draws_ran (n : Nat) (s : State) : (draws n s).ran = s.ran := rfl
@[simp] theorem deferWrite_pending (c : Late) (s : State) : (deferWrite c s).pending = s.pending := rfl
@[simp] theorem deferWrite_fresh (c : Late) (s : State) : (deferWrite c s).fresh = s.fresh := rfl
@[simp] theorem deferWrite_nextFid (c : Late) (s : State) : (deferWrite c s).nextFid = s.nextFid := rfl
@[simp] theorem deferWrite_time (c : Late) (s : State) : (deferWrite c s).time = s.time := rfl
@[simp] theorem deferWrite_clock (c : Late) (s : State) : (deferWrite c s).clock = s.clock := rfl
@[simp] theorem deferWrite_tt (c : Late) (s : State) : (deferWrite c s).tt = s.tt := rfl
@[simp] theorem deferWrite_ports (c : Late) (s : State) : (deferWrite c s).ports = s.ports := rfl
@[simp] theorem deferWrite_ver (c : Late) (s : State) : (deferWrite c s).ver = s.ver := rfl
@[simp] theorem deferWrite_arr (c : Late) (s : State) : (deferWrite c s).arr = s.arr := rfl
@[simp] theorem deferWrite_flow (c : Late) (s : State) : (deferWrite c s).flow = s.flow := rfl
@[simp] theorem deferWrite_ucode (c : Late) (s : State) : (deferWrite c s).ucode = s.ucode := rfl
@[simp] theorem deferWrite_frames (c : Late) (s : State) : (deferWrite c s).frames = s.frames := rfl
@[simp] theorem deferWrite_trapHw (c : Late) (s : State) : (deferWrite c s).trapHw = s.trapHw := rfl
@[simp] theorem deferWrite_fab (c : Late) (s : State) : (deferWrite c s).fab = s.fab := rfl
@[simp] theorem deferWrite_egr (c : Late) (s : State) : (deferWrite c s).egr = s.egr := rfl
@[simp] theorem deferWrite_hbm (c : Late) (s : State) : (deferWrite c s).hbm = s.hbm := rfl
@[simp] theorem deferWrite_sec (c : Late) (s : State) : (deferWrite c s).sec = s.sec := rfl
@[simp] theorem deferWrite_qcp (c : Late) (s : State) : (deferWrite c s).qcp = s.qcp := rfl
@[simp] theorem deferWrite_agents (c : Late) (s : State) : (deferWrite c s).agents = s.agents := rfl
@[simp] theorem deferWrite_evc (c : Late) (s : State) : (deferWrite c s).evc = s.evc := rfl
@[simp] theorem deferWrite_world (c : Late) (s : State) : (deferWrite c s).world = s.world := rfl
@[simp] theorem deferWrite_mode (c : Late) (s : State) : (deferWrite c s).mode = s.mode := rfl
@[simp] theorem deferWrite_pmu (c : Late) (s : State) : (deferWrite c s).pmu = s.pmu := rfl
@[simp] theorem deferWrite_log (c : Late) (s : State) : (deferWrite c s).log = s.log := rfl
@[simp] theorem deferWrite_mmc (c : Late) (s : State) : (deferWrite c s).mmc = s.mmc := rfl
@[simp] theorem deferWrite_ctrs (c : Late) (s : State) : (deferWrite c s).ctrs = s.ctrs := rfl
@[simp] theorem deferWrite_ran (c : Late) (s : State) : (deferWrite c s).ran = s.ran := rfl
@[simp] theorem draws_fresh (n : Nat) (s : State) : (draws n s).fresh = s.fresh + n := rfl
@[simp] theorem deferWrite_late (c : Late) (s : State) : (deferWrite c s).late = s.late ++ [c] := rfl

/-! ### Reading what was written -/

theorem ctr_bumpBy (c c' : Ctr) (i j i' j' n : Nat) (s : State) :
    ctr (bumpBy c i j n s) c' i' j' = if (c, i, j) = (c', i', j') then ctr s c i j + n else ctr s c' i' j' := by
  simp only [ctr, bumpBy, tget_tset]
theorem ctr_clearCtr (c c' : Ctr) (i j i' j' : Nat) (s : State) :
    ctr (clearCtr c i j s) c' i' j' = if (c, i, j) = (c', i', j') then 0 else ctr s c' i' j' := by
  simp only [ctr, clearCtr, tget_tset]
theorem ctr_maxCtr (c c' : Ctr) (i j v i' j' : Nat) (s : State) :
    ctr (maxCtr c i j v s) c' i' j' = if (c, i, j) = (c', i', j') then max (ctr s c i j) v else ctr s c' i' j' := by
  simp only [ctr, maxCtr, tget_tset]
theorem mem_raise (n m : Nat) (s : State) : m ∈ (raise n s).evc.setNow ↔ m = n ∨ m ∈ s.evc.setNow := by
  simp only [raise, insertNew]
  split
  · constructor
    · exact Or.inr
    · rintro (rfl | h)
      · assumption
      · exact h
  · simp [or_comm]
theorem portOf_setPort (p q : Nat) (x : PortSt) (s : State) :
    portOf (setPort p x s) q = if p = q then some x else portOf s q := by
  simp only [portOf, setPort, tfind_tset]
theorem portOf_updPort (p q : Nat) (f : PortSt → PortSt) (s : State) :
    portOf (updPort p f s) q = if p = q then (portOf s q).map f else portOf s q := by
  unfold updPort
  split
  · rename_i x hx
    rw [portOf_setPort]
    split
    · rename_i h; subst h; rw [hx]; rfl
    · rfl
  · rename_i hx
    split
    · rename_i h; subst h; rw [hx]; rfl
    · rfl
theorem bufOf_updBuf (k n : Nat) (f : BufSt → BufSt) (s : State) :
    bufOf (updBuf k f s) n = if k = n then f (bufOf s k) else bufOf s n := by
  simp only [bufOf, updBuf, tget_tset]
theorem sideOf_updSide (k n : Nat) (f : SideSt → SideSt) (s : State) :
    sideOf (updSide k f s) n = if k = n then f (sideOf s k) else sideOf s n := by
  simp only [sideOf, updSide, tget_tset]
theorem chanOf_updChan (k n : Nat) (f : ChanSt → ChanSt) (s : State) :
    chanOf (updChan k f s) n = if k = n then f (chanOf s k) else chanOf s n := by
  simp only [chanOf, updChan, tget_tset]
theorem agentOf_updAgent (k n : Nat) (f : AgentSt → AgentSt) (s : State) :
    agentOf (updAgent k f s) n = if k = n then f (agentOf s k) else agentOf s n := by
  simp only [agentOf, updAgent, tget_tset]
theorem ucOf_updUc (k n : Nat) (f : UcSlice → UcSlice) (s : State) :
    ucOf (updUc k f s) n = if k = n then f (ucOf s k) else ucOf s n := by
  simp only [ucOf, updUc, tget_tset]
theorem pinOf_updPin (k n : Nat) (f : PinSt → PinSt) (s : State) :
    pinOf (updPin k f s) n = if k = n then f (pinOf s k) else pinOf s n := by
  simp only [pinOf, updPin, tget_tset]
theorem queueOf_updQueue (p q p' q' : Nat) (f : QueueSt → QueueSt) (s : State) :
    queueOf (updQueue p q f s) p' q' = if (p, q) = (p', q') then f (queueOf s p q) else queueOf s p' q' := by
  simp only [queueOf, updQueue, tget_tset]
theorem ringOf_updRing (w w' : World) (k k' : RingKind) (f : RingSt → RingSt) (s : State) :
    ringOf (updRing w k f s) w' k' = if (w, k) = (w', k') then f (ringOf s w k) else ringOf s w' k' := by
  simp only [ringOf, updRing, tget_tset]
theorem laneOf_setLane (l n : Nat) (x : LaneSt) (s : State) : laneOf (setLane l x s) n = if l = n then x else laneOf s n := by
  simp only [laneOf, setLane, tget_tset]
theorem cartOf_setCart (c n : Nat) (x : CartSt) (s : State) : cartOf (setCart c x s) n = if c = n then x else cartOf s n := by
  simp only [cartOf, setCart, tget_tset]

end Sys2Proof.Machine
end

