-- ==== Sys2Proof/Laws/Time.lean ====
section
/-! SUPPORT. What the passage of time does to the clock: each shared operation's lemma says which fields of `time` it can
change. -/

namespace Sys2Proof.Machine

/-- A fold whose steps leave the clock alone leaves it alone. -/
theorem foldl_time {α : Type} (f : State → α → State) (hf : ∀ s a, (f s a).time = s.time) (l : List α) (s : State) :
    (l.foldl f s).time = s.time := by
  induction l generalizing s with
  | nil => rfl
  | cons a l ih => rw [List.foldl_cons, ih, hf]

@[simp] theorem countOrbit_time (s : State) : (countOrbit s).time = s.time := by
  simp only [countOrbit]
  exact foldl_time (fun (s : State) (c : Nat) => logSum .optics ("LIT_MS " ++ toString c) 1 s) (fun _ _ => rfl) _ s

@[simp] theorem occStart_time (s : State) : (occStart s).time = s.time := rfl

/-- The end of a cycle moves the clock by that cycle. -/
@[simp] theorem endCycle_time (s : State) : (endCycle s).time = s.time.advance 1 := rfl

/-- Passing cycles moves only the cycle number and the time counter. -/
theorem passCycles_time (n : Nat) (s : State) : (passCycles n s).time = s.time.advance n := by
  induction n generalizing s with
  | zero => simp [passCycles, TimeSt.advance]
  | succ n ih =>
    simp only [passCycles]
    split
    · rfl
    · rw [ih]
      simp only [endCycle_time, TimeSt.advance, TimeSt.mk.injEq, true_and]
      constructor <;> ring

theorem skipShots_time (a b : Nat) (s : State) : (skipShots a b s).time = s.time := by
  unfold skipShots
  generalize List.range 4 = l
  induction l generalizing s with
  | nil => rfl
  | cons p l ih =>
    simp only [List.foldl_cons, ih]
    split
    · split <;> rfl
    · rfl

/-- A final reply leaves the clock alone. -/
theorem finish_time (h : Hdr) (code : Nat) (st : Status) (d : Option Detail) (rs : List RField) (s : State) :
    (finish h code st d rs s).time = s.time := by
  simp only [finish, tabletFree, answer, settleRing, bump, bumpBy, updRing]
  repeat' split
  all_goals rfl

/-- A time step moves the counter, the orbit, the headway index and the headway's length, or nothing. -/
theorem applyTimeStep_time (s : State) :
    (applyTimeStep s).time = s.time ∨
      ∃ p : PendingStep, s.clock.step = some p ∧ p.target = s.time.orbit ∧ (applyTimeStep s).time = { s.time with
        tc := (((s.time.tc : Int) + p.cycles * unitsPerCycle) % (tcSpan : Int)).toNat
        orbit := (stepGrid s.time.orbit p.cycles).1
        headway := (stepGrid s.time.orbit p.cycles).2.1
        hwLen := (stepGrid s.time.orbit p.cycles).2.2 } := by
  unfold applyTimeStep
  split
  · exact Or.inl rfl
  · split
    · exact Or.inl rfl
    · rename_i p hp ht
      exact Or.inr ⟨p, hp, not_not.mp ht, by simp only [raise, finish_time, skipShots_time]⟩

/-- The grid a step leaves is in range (R241). -/
theorem stepGrid_range (n : Nat) (c : Int) :
    (stepGrid n c).1 < 2 ^ 32 ∧ (stepGrid n c).2.1 < 6250 ∧ 256 ≤ (stepGrid n c).2.2 ∧ (stepGrid n c).2.2 < 512 := by
  simp only [stepGrid]
  have h1 : (c % 1600000).toNat < 1600000 := by omega
  have h2 : (c % 1600000).toNat / 256 < 6250 := by omega
  repeat' split
  all_goals (refine ⟨?_, ?_, ?_, ?_⟩ <;> dsimp only <;> omega)

/-- Only a time step moves the clock at an orbit boundary. -/
theorem orbitEffects_time (s : State) :
    ∃ u : State, u.time = s.time ∧ (orbitEffects s).time = (applyTimeStep u).time :=
  ⟨slewOrbit (countOrbit s), by simp only [slewOrbit, countOrbit_time], by simp only [orbitEffects, atClock]⟩

/-- A headway boundary moves the clock to the next headway, and beyond it only what an orbit boundary does. -/
theorem enterHeadway_time (s : State) :
    ∃ u : State, u.time = s.time.nextHeadway ∧
      (enterHeadway s).time = (if s.time.headway < 6249 then u else orbitEffects u).time :=
  ⟨{ s with time := s.time.nextHeadway }, by simp only, by simp only [enterHeadway, atClock]⟩

/-- A block boundary moves only the block count. -/
theorem enterBlock_time (s : State) : (enterBlock s).time = { s.time with blkCount := s.time.blkCount + 1 } := by
  simp only [enterBlock, atClock]

end Sys2Proof.Machine
end

