-- ==== Sys2Proof/Tests/Slice0.lean ====
section
/-! SUPPORT. This model's own tests: the spec's worked examples on single operations, one ill-formed term for each check of
WellFormed, and for each obligation with hypotheses a state and operands that meet each clause's hypotheses together. -/

open Sys2Proof Sys2Proof.Machine

namespace Sys2Proof.Tests

set_option Elab.async false

/-! ### Small states the tests share -/

/-- A header on the secure ring. -/
def hS : Hdr := ⟨.secure, 1, 7, false, false, 0⟩
/-- A header on the non-secure ring. -/
def hN : Hdr := ⟨.nonSecure, 2, 7, false, false, 0⟩
/-- A module in SERVICE with nothing configured. -/
def svc : State := { State.reset with mode := { ModeSt.init with mode := .service, zeroed := true } }
/-- A module in BOOT whose HBM is zeroed. -/
def booted : State := { State.reset with mode := { ModeSt.init with zeroed := true } }
/-- Port 0 in service: one lane, its link up. -/
def prt : PortSt := { PortSt.init 0 1 9216 with link := true }
/-- `svc` with port 0. -/
def svp : State := { svc with ports := { svc.ports with map := [⟨0, 1, 9216⟩], ports := [(0, prt)] } }
/-- `svc` in another mode, and in a phase of DRAIN. -/
def inMode (m : Mode) : State := { svc with mode := { svc.mode with mode := m } }
def inDrain (p : DrainPhase) : State := { svc with mode := { svc.mode with mode := .drain, phase := p } }
/-- A calendar entry whose windows R217 allows. -/
def calE : CalEnt := ⟨0, 221, 326, 333, 358⟩
def aggE : QAgg := ⟨1, 0, 4, 0, false, true, false, 0, 1, 1, 5⟩
/-- A timetable image with one aggregate, which TT_LOAD accepts on `svc`. -/
def imgF (f : Features) : TtImage where
  magic := 0x48545432
  format := 2
  stepping := 0xB0
  version := 1
  length := 19568
  aggCount := 1
  variantCount := 0
  guardNs := 50
  portDigest := 0
  digest := 0
  intact := true
  dir := [.reserve ⟨1, [⟨0, 0, 0, 1, 1⟩]⟩, .meter [⟨0, 0, 1, 0x00002000080000C8⟩],
    .qmap ⟨[aggE], [⟨0, 0, 1, 0, 0, 0⟩], []⟩, .hbmcal (List.replicate 384 calE), .spare (List.replicate 32 ⟨0, 0, 0⟩),
    .demand [⟨1, [⟨0x20000001, 1⟩]⟩], .elastic (List.replicate 12 ⟨312500, 0, 0, 16, 0⟩),
    .code [⟨1, 0xFFFFFFFF, 1⟩, ⟨2, 0xFFFFFFFF, 2⟩, ⟨3, 0xFFFFFFFF, 3⟩], .features f].map
      (fun b => ⟨b, true⟩) ++ List.replicate 7 ⟨.unused, true⟩
def img0 : TtImage := imgF ⟨2097152, 4096, 0, 0, []⟩
/-- The bytes of `img0` (Tables 1-6, 1-7, 1-12 to 1-23): the header before IMAGE_DIGEST, and what follows it. -/
def ttFront : List Byte :=
  leNum 4 0x48545432 ++ leNum 2 2 ++ leNum 2 0xB0 ++ leNum 4 1 ++ leNum 4 19568 ++ leNum 4 1 ++ leNum 2 0 ++ leNum 2 50 ++
    (List.range 48).map (fun i => (sha384 (Config.portBytes [])).getD i 0)
def ttEntry (type off len : Nat) : List Byte := leNum 4 type ++ leNum 4 off ++ leNum 4 len ++ leNum 4 0
def ttDir : List Byte :=
  ttEntry 1 384 8208 ++ ttEntry 2 8592 32 ++ ttEntry 3 8624 144 ++ ttEntry 4 8768 6144 ++ ttEntry 5 14912 3072 ++ ttEntry 6 17984 32 ++
    ttEntry 8 18016 192 ++ ttEntry 9 18208 184 ++ ttEntry 10 18400 1168 ++ List.replicate 112 0
def ttCode (kind : Nat) : List Byte := leNum 4 kind ++ leNum 4 0xFFFFFFFF ++ List.replicate 47 0 ++ leNum 1 kind
def ttBack : List Byte := List.flatten (
  [leNum 8 0, ttDir, leNum 16 1, [0, 1], List.replicate 8190 0, leNum 16 1, leNum 4 0, leNum 4 1, leNum 8 0x00002000080000C8,
   leNum 4 1, leNum 4 1, leNum 8 0, leNum 2 1, [0, 4, 0, 2], leNum 2 0, leNum 2 1, leNum 2 1, leNum 2 5, leNum 2 0,
   leNum 4 0, leNum 2 1, List.replicate 106 0] ++
  (List.replicate 384 [leNum 2 0, leNum 2 221, leNum 2 326, leNum 2 333, leNum 2 358, leNum 6 0]).flatten ++
  [List.replicate 3072 0, leNum 16 1, leNum 2 1, leNum 2 1, leNum 4 0, leNum 4 0x20000001, leNum 4 1] ++
  (List.replicate 12 [leNum 4 312500, [0, 0], leNum 2 16, leNum 8 0]).flatten ++
  [leNum 16 3, ttCode 1, ttCode 2, ttCode 3, List.replicate 8 0, leNum 4 2097152, leNum 2 4096, leNum 2 0, List.replicate 1160 0])
/-- The image with its IMAGE_DIGEST field zero, and with its digest. -/
def ttCore : List Byte := ttFront ++ List.replicate 48 0 ++ ttBack
def ttBytes : List Byte := ttFront ++ sha384 ttCore ++ ttBack
/-- Microcode and agent images of the digests `img0` names, on every slice. -/
def uimg (action : Bool) (d : Nat) : UcodeImage := ⟨action, 0xB0, true, ⟨.dvorhel, true, true⟩, d, [], [], [], [], [], []⟩
def aimg : AgentImage := ⟨⟨.dvorhel, true, true⟩, 3, [], []⟩
/-- `img0` staged, with every image it names in place. -/
def svt : State := { svc with
  tt := { svc.tt with staged := some img0 }
  ucode := { svc.ucode with slices := allSlices.map (fun k => (k, { UcSlice.init with pAct := some (uimg false 1), aAct := some (uimg true 2) })) }
  agents := allSlices.map (fun k => (k, { AgentSt.init with image := some aimg })) }
/-- A commit of version 1 that waits for orbit 1. -/
def pcm : PendingCommit := ⟨hS, 1, 1, false, []⟩
/-- `svc` 10 cycles before the end of the orbit. -/
def nearOrbit (s : State) : State := { s with time := { s.time with now := 1599990, headway := 6249, hwStart := 1599744 } }
/-- An earlier command of the secure ring, in execution. -/
def ent (timeout : Nat) : ExecEnt := ⟨⟨.secure, 5, 9, true, false, timeout⟩, 0x0102, .fetched, 0, 0, none⟩
def withExec (l : List ExecEnt) (s : State) : State := { s with qcp := { s.qcp with exec := l } }
/-- Every ring that exists, 64 slots, enabled, with `prod` written. -/
def rings (prod : Nat) (s : State) : State :=
  { s with qcp := { s.qcp with rings := allRings.map (fun r => (r, { RingSt.init with log2 := 8, enable := true, prod := prod })) } }
def sa0 : SaParams := ⟨.xpn256, List.replicate 32 0, 0, 0, 1⟩
def rxc : ScSt := ⟨0, false, 7, [(1, ⟨sa0, 1, false, false⟩)], none, none, none, none⟩
def txc : ScSt := ⟨0, true, 7, [(1, ⟨sa0, 1, false, false⟩)], none, none, none, none⟩
/-- Port 0 protects its frames: receive channel 256 and transmit channel 0, with an association each. -/
def secPort (s : State) : State := { s with
  ports := { s.ports with ports := [(0, { prt with pol := ⟨.confidential, true, 0, .strict, 0⟩ })] }
  sec := { s.sec with chans := [(256, rxc), (0, txc)] } }
def bind0 : InbandBind := ⟨0, .secure, 0, 4⟩
def bound (s : State) : State := { s with qcp := { s.qcp with inband := some bind0 } }
/-- A command's first 32 bytes: 32 bytes long, its opcode two equal bytes. -/
def slt (op : Byte) : List Byte := [1, 0, op, op, 0, 0, 0, 0, 32] ++ List.replicate 23 0
def rpl : Reply := ⟨.ok, hS, 0x0101, 0, none, [], none, none⟩
/-- A state meets a row's hypotheses: `P` holds, the command starts, `pre` holds after its fetch, and its reply fits. -/
abbrev CanComplete (P : Prop) (h : Hdr) (op : State → Op) (pre : State → Prop) (rs : State → List RField) : Prop :=
  ∃ s w, P ∧ starts (op s) h w s = true ∧ pre (atFetch (op s) h s) ∧
    replyFits (atFetch (op s) h s) h.ring none (rs (atFetch (op s) h s)) = true
/-- The same of a row whose reply comes later. -/
abbrev CanDefer (P : Prop) (h : Hdr) (op : State → Op) (pre : State → Prop) : Prop :=
  ∃ s w, P ∧ starts (op s) h w s = true ∧ pre (atFetch (op s) h s)
def withMode (f : ModeSt → ModeSt) (s : State) : State := { s with mode := f s.mode }
def withMmc (f : MmcSt → MmcSt) (s : State) : State := { s with mmc := f s.mmc }
def withAgent (f : AgentSt → AgentSt) (s : State) : State := updAgent 0 f s
/-- Source 2016 pending for the service processor, source 1474 for the host. -/
def evs (s : State) : State := { s with evc := { s.evc with
  pend := [2016, 1474], prio := [(252, 3), (184, 0x300)], enable := [((false, 46), 0xFFFFFFFF), ((true, 63), 0xFFFFFFFF)] } }
def opened (s : State) : State := { s with ver := { s.ver with opened := some 1 } }
def withClock (f : ClockSt → ClockSt) (s : State) : State := { s with clock := f s.clock }
def withPin (n : Nat) (p : PinSt) (s : State) : State := withClock (fun c => { c with pins := [(n, p)] }) s
def withPorts (f : PortsSt → PortsSt) (s : State) : State := { s with ports := f s.ports }
def withPrt (f : PortSt → PortSt) : State := { svp with ports := { svp.ports with ports := [(0, f prt)] } }
def stp (target : Nat) : PendingStep := ⟨hS, 8, 0, target, false⟩
/-- Guaranteed aggregate 1 enters and leaves through port 0. -/
def svg : State := { svp with tt := { svp.tt with active := some img0, aggs := [aggE] } }
/-- Slice 0 holds rule 16383 in every version. -/
def ruled (s : State) : State :=
  let r : Row := ⟨true, 15, .rule 7 7 false 5 6⟩
  { s with arr := { s.arr with live := [((0, .rule, 16383), r)], shadow := [((0, .rule, 16383), r)] } }
/-- Every slice holds row 3 of an array in every version, with no content of its own. -/
def tabled (a : Arr) : State :=
  let b : Body := if a = .mcast then .mcast 0 [] 3 else .action 0
  let t : Tab (Nat × Arr × Nat) Row := allSlices.map (fun k => ((k, a, 3), ⟨true, 15, b⟩))
  { opened svc with arr := { svc.arr with live := t, shadow := t } }
/-- Version 1 is open and holds 10.0.0.0/8 in routing table 255. -/
def routed : State :=
  let ps := (planAll (fun k p => planAdd k 1 255 false (10#128 <<< 24) 8 3 p) (opened svc)).getD []
  let t := ps.flatMap (fun e => e.2.rows.filter (fun r => r.1.1 == e.1))
  { opened svc with arr := { svc.arr with live := t, shadow := t } }

/-- An arriving frame of 64 bytes on port 0. -/
def frm : RxFrame := ⟨0, 64, List.replicate 60 0, false, 0, false, false, false, [], none, true, [], []⟩
/-- A frame of EtherType 0x88B5. -/
def frmB : RxFrame := { frm with bytes := List.replicate 12 0 ++ [0x88, 0xB5] ++ List.replicate 46 0 }
def withTt (s : State) : State := { s with tt := { s.tt with active := some img0 } }
/-- A frame inside the module, with its header slot. -/
def fr0 : Frame := { Frame.init 0 0 64 (List.replicate 60 0) with slot := some 0 }
def withFrame (f : Frame) (s : State) : State := { s with frames := [f] }
def atNow (n : Nat) (s : State) : State := { s with time := { s.time with now := n } }
/-- Slice 0 runs action microcode whose only word asks for an HBM flow lookup at A2. -/
def hbmUc (s : State) : State := { s with ucode := { s.ucode with
  slices := [(0, { UcSlice.init with aAct := some { uimg true 2 with awords := [(0, BitVec.ofNat 512 (2 ^ 70 + 2 ^ 79))] } })] } }
def rec0 : FlowRec := ⟨5, 0, 0, 7, false, false, false, false, 0, false, 0, 0, 0, 0, none⟩
/-- Record `rec0` in row 0 of a slice. -/
def withRec (k : Nat) (s : State) : State := { s with flow := { s.flow with resident := [((k, 0), rec0)] } }
/-- Row 0 of slice 0 idle since orbit 0, at orbit 120,001, and a message for slice 0. -/
def msgd (l : List LearnMsg) : State :=
  let s := withRec 0 svp
  { s with time := { s.time with orbit := 120001 }, flow := { s.flow with ring := l.map (fun m => ⟨0, 1, 0, m⟩) } }
def key0 : FlowKey := ⟨0, 5⟩
/-- The same in orbit 0, where no record is idle. -/
def young (s : State) : State := { s with time := { s.time with orbit := 0 } }
def wb0 : WriteBack := ⟨3, 0, key0, 0, 64, none, false, 0, 0⟩
def fl0 : Flush := ⟨hN, 0, 0, [], [], 0⟩
def cel : Cell := ⟨5, 0, true, true, true, false, 0, 3, 0, 0, 0, false, 0, 64⟩
def cellIn (s : State) : State := atNow 96 { s with fab := { s.fab with transit := [cel] } }
/-- A preemptable frame on port 0's wire, and an express frame whose first bit is due in Q0. -/
def wr0 : WireSt := ⟨5, 2000, 1000, 0, true, 4, false⟩
def prw : PortSt := { prt with wire := some wr0, wireFree := 20000, preOn := true }
def expr : State := { svp with
  ports := { svp.ports with ports := [(0, prw)] }
  frames := [{ Frame.init 7 0 64 (List.replicate 60 0) with queue := 0, stage := .queued, elig := some 0, tailKnown := true, tcycle := some 0, zcycle := some 0 }]
  egr := { svp.egr with queues := [((0, 0), { QueueSt.init with items := [7] })] } }
/-- A siding cell of frame 0, read 288 cycles ago. -/
def scl (pos : Nat) : SideCell := ⟨0, 0, pos, true, 0, none, 0, 4, 0, 0, false, true, some 0⟩
def sided (pos hw : Nat) : State :=
  let s := atNow 288 (withFrame { fr0 with stage := .siding, queue := 4 } svp)
  { s with time := { s.time with hwCount := hw }, egr := { s.egr with sides := [(0, ⟨[scl pos], []⟩)] } }
/-- The same with the frame's first cell back on die. -/
def sidedSent : State := { sided 1 400000 with frames := [{ fr0 with stage := .siding, queue := 4, sent := 1 }] }
def withChan (c : Nat) (x : ChanSt) (s : State) : State := { s with hbm := { s.hbm with chans := [(c, x)] } }
def frozen : ChanSt := { ChanSt.init with st := .frozen, diag := some ⟨1, 2, 3, 4, 5, 6, 7, 8⟩ }
def la0 (r : Ring) (h : Hdr) : LaCtx := ⟨r, h, .gcm, false, List.replicate 32 0, 0, 0, 0, 0, [], none⟩
/-- Lookaside context 15 open for the non-secure ring, or assigned to the secure world and open for its ring. -/
def laN : State := { svp with sec := { svp.sec with la := [(15, la0 .nonSecure hN)] } }
def laS : State := { svp with sec := { svp.sec with la := [(15, la0 .secure hS)] }, world := { svp.world with attrs := [((.laContext, 15), .secure)] } }
def salted (s : State) : State := { s with world := { s.world with salt := some 1 } }
/-- Record `rec0` in the first slot of its own bucket. -/
def inBucket (s : State) : State := { salted s with flow := { s.flow with
  hbm := [((homeOf (hashOfKey (salted s) 5), 2 * bucketOf (hashOfKey (salted s) 5) 2097152), rec0)] } }
/-- An agent image whose only word is `w`; T0 is its one thread, with or without a deadlock routine. -/
def agi (w : BitVec 256) (dl : Bool) : AgentImage :=
  ⟨⟨.dvorhel, true, true⟩, 3, [(0, w)], ⟨true, true, 0, 1, dl, 2, 0xFFFFFFFF⟩ :: List.replicate 7 ⟨false, false, 0, 0, false, 0, 0⟩⟩
/-- Agent 0 runs word `w` on T0, in cycle `n`. -/
def ag (w : BitVec 256) (n : Nat) (f : Thread → Thread) (g : AgentSt → AgentSt) : State :=
  atNow n { svp with agents := [(0, g { AgentSt.init with image := some (agi w false), threads := [(0, f { Thread.init with enabled := true })] })] }
/-- Agent 0 with thread 0 open to the non-secure world's debug grant. -/
def dbgd (f : Thread → Thread) : State := { ag 0 0 f id with world := { svp.world with dbgNs := true } }
/-- A word of a class and SUBOP, with other fields. -/
def mw (cls sub other : Nat) : BitVec 256 := BitVec.ofNat 256 (cls + sub * 2 ^ 48 + other)
def tsk (st : TaskState) : Task := { Task.init with st := st }
/-- Agent 0 holds task 0 in a state. -/
def tasked (st : TaskState) : State := { svp with agents := [(0, { AgentSt.init with tasks := [(0, tsk st)] })] }
def ten : TraceEnt := ⟨0, 1, true, 0, 0, 0, 0, 0⟩

/-! ### The spec's worked examples, one operation each -/

/-- 00_scope, the worked example on port 608. -/
theorem test_port_608 : engineOfLane 608 = 38 ∧ sliceOfLane 608 = 19 ∧ primaryCart 38 = 4 ∧ secondaryCart 38 = 12 ∧
    widthOk 608 8 = true ∧ widthOk 622 2 = true ∧ widthOk 623 2 = false := by decide
/-- 01, the worked example of one aggregate: 1,500 bytes take 12 cycles of a 1.6TbE port. -/
theorem test_serialisation : lastBitCycle 1500 8 + 1 = 12 ∧ bitsPerCycle 8 = 1000 := by decide
/-- Table 7-1's chunking: 192 bytes in the head cell, 256 in each later one; 9,000 bytes are 36 cells, 500 bytes 3. -/
theorem test_cells : cellsOf 9000 = 36 ∧ cellsOf 500 = 3 ∧ cellsOf 192 = 1 ∧ cellsOf 193 = 2 := by decide
/-- 03, the worked example on one hash. -/
theorem test_hash_fields : homeOf 0x9C3E5A27 = 7 ∧ ecmpPick 0x9C3E5A27 6 = 3 ∧ lagPick 0x9C3E5A27 4 = 2 := by decide
/-- The eight-byte vector of SipHash-2-4 under the key 00 to 0F. -/
theorem test_siphash_vector :
    sipHash (leWord [0, 1, 2, 3, 4, 5, 6, 7]) (leWord [8, 9, 10, 11, 12, 13, 14, 15]) [0, 1, 2, 3, 4, 5, 6, 7] =
      0x93f5f5799a932462#64 := by decide +kernel
/-- A TCP packet over IPv4 in an untagged frame, its header checksum given. -/
def tcpFrame (sa da : List Byte) (sp dp csum : List Byte) : List Byte :=
  [2, 0, 0, 0, 0, 1, 2, 0, 0, 0, 0, 2, 0x08, 0x00] ++ [0x45, 0, 0, 40, 0, 0, 0, 0, 64, 6] ++ csum ++ sa ++ da ++ sp ++ dp ++
    List.replicate 8 0 ++ [0x50, 0x02] ++ List.replicate 6 0
/-- 03, the worked example on one flow: both directions build the block it gives. -/
theorem test_flow_block :
    blockOf (recognise (tcpFrame [10, 1, 2, 3] [192, 0, 2, 9] [0x9C, 0x40] [0x01, 0xBB] [0xAC, 0xC3]) false) =
        hashBlock 0x0A010203 0xC0000209 443 40000 6 0 ∧
      blockOf (recognise (tcpFrame [192, 0, 2, 9] [10, 1, 2, 3] [0x01, 0xBB] [0x9C, 0x40] [0xAC, 0xC3]) false) =
        hashBlock 0x0A010203 0xC0000209 443 40000 6 0 := by decide +kernel
/-- The pivot rows of Table 4-5, in plane 0. -/
def pivots45 : Tab (Nat × Arr × Nat) Row :=
  let row (l : Nat) (n : Nat) : (Nat × Arr × Nat) × Row := ((0, .pivot, n), ⟨true, 1, .pivot 0 false 0 l 0 []⟩)
  ([4091, 4092, 4093, 4094, 4095, 4096, 4097].map (row 25)) ++ ([4098, 4099, 4100, 4101, 4102, 4103].map (row 24)) ++
    ([4104, 4105, 4106].map (row 22)) ++ ([4107, 4108, 4109].map (row 21)) ++ [row 20 4110]
/-- The rows its steps touch, in order. -/
def touched (p : Option Plan) : List Nat := (p.map (fun p => p.steps.map (fun st => st.row))).getD []
/-- Table 4-6: the rows the insertion touches, step by step, and its two moves. -/
theorem test_pivot_insertion :
    touched (insertPivot 0 (.pivot 0 false 0 22 9 []) 22 1 ⟨pivots45, [], 0, 0⟩) =
        [4111, 4111, 4111, 4110, 4110, 4110, 4110, 4107, 4107, 4107, 4107] ∧
      (insertPivot 0 (.pivot 0 false 0 22 9 []) 22 1 ⟨pivots45, [], 0, 0⟩).map (fun p => p.moves) = some 2 := by
  decide +kernel
/-- A module with a 200GbE port 0 and a 1.6TbE port 8. -/
def twoPorts : State := { svc with ports := { svc.ports with
  ports := [(0, { PortSt.init 0 1 9216 with link := true }), (8, { PortSt.init 8 8 9216 with link := true })] } }
/-- Table 6-10, first row: X is 517 cycles; the way back stores the frame first. -/
theorem test_start_delay : startDelay twoPorts 0 8 = 517 ∧ storeFirst twoPorts 0 8 false = false ∧
    storeFirst twoPorts 8 0 false = true := by decide +kernel
/-- Table 6-10, second row: the last bit of 1,500 bytes arrives in cycle 11. -/
theorem test_last_bit : lastBitCycle 1500 8 = 11 ∧ lastBitCycle 9000 8 = 71 ∧ lastBitCycle 9216 1 = 589 := by decide
/-- 07, the worked example: the requests and pointers of lane 0. -/
def match07 : Match := ⟨[((2, 5), 1), ((9, 5), 1), ((9, 6), 1), ((17, 5), 1)], [], [((0, 5), 9)], [((0, 9), 6)], []⟩
/-- 07, the worked example: sub-box (4, 0) goes to (9, 6) and (17, 5); only the first iteration moves pointers. -/
theorem test_sub_box :
    ((matchBox 0 4 [] [] [] match07).grants.map (fun g => (g.i, g.dests))) = [(9, [6]), (17, [5])] ∧
      (matchBox 0 4 [] [] [] match07).gp = [((0, 5), 9), ((0, 6), 10)] ∧ (matchBox 0 4 [] [] [] match07).ap = [((0, 9), 7)] := by
  decide +kernel
/-- 07, the worked example: a cell injected in cycle 19 through intermediate 4 reaches slice 5 in cycle 49; slice 9's cell
for slice 6, injected in cycle 27, leaves the intermediate in cycle 42 and so arrives in cycle 50. -/
theorem test_cell_path (c : Cell) :
    arrivalOf { c with inj := 19, via := 4, src := 17, dst := 5 } = 49 ∧
      arrivalOf { c with inj := 27, via := 4, src := 9, dst := 6 } = 50 := by
  simp [arrivalOf]
/-- 08, the worked example: 8,206 cells exceed a threshold of 8,192, 8,173 do not. -/
theorem test_threshold : overAlpha 0 8206 8192 = true ∧ overAlpha 0 8173 8192 = false ∧ overAlpha (-1) 8193 16384 = true ∧
    overAlpha 1 16385 8192 = true := by decide
/-- 09, Table 9-4: SLOPE 65,536 in packet mode, HI 4, LO 1, enabled. -/
def shaped : BitVec 64 := BitVec.ofNat 64 (65536 + 4 * 2 ^ 27 + 2 ^ 39 + 2 ^ 60)
/-- 09, Table 9-4: a packet sent at credit 4.000 leaves 3.125 after 32 cycles; −0.500 becomes −0.375, and 0 at cycle 256. -/
theorem test_shaper_credit : mHi shaped = 4 * 2 ^ 24 ∧ accrue shaped true 32 (3 * 2 ^ 24) = 3 * 2 ^ 24 + 2 ^ 21 ∧
    accrue shaped true 32 (-(2 ^ 23)) = -(3 * 2 ^ 21) ∧ accrue shaped true 128 (-(2 ^ 23)) = 0 ∧
    mCharge shaped 980 = 2 ^ 24 := by decide +kernel
/-- 09, Table 9-7's bins: 40,960 cells and 312,500 delay units. -/
theorem test_hist_bins : histBin 40960 = 16 ∧ histBin 312500 = 19 ∧ histBin 0 = 0 ∧ histBin 1 = 1 := by decide +kernel
/-- 11, the worked example on three steps. -/
theorem test_time_steps : stepGrid 41200100 1975 = (41200100, 8, 329) ∧ stepGrid 41200100 (-480) = (41200099, 6249, 480) ∧
    stepGrid 41200100 (-160) = (41200100, 0, 416) := by decide +kernel
/-- 12, the worked example: the reset thresholds of GCM-AES-256. -/
theorem test_pn_limits (c : ScSt) (hs : c.soft = none) (hh : c.hard = none) :
    softOf c .gcm256 = 3221225472 ∧ hardOf c .gcm256 = 4294967295 := by
  rw [softOf, hardOf, hs, hh]
  decide
/-- 20, the worked example: a command ring of 256 slots with 3 commands copied. -/
def ring20 : RingSt := { RingSt.init with log2 := 8, enable := true, prod := 3, cons := 3 }
/-- 20, the worked example: 300 is refused; 2 is accepted and makes the ring hold 255 slots. -/
theorem test_ring_prod :
    (ringOf (doorbell .nonSecure 300 (updRing .nonSecure .command (fun _ => ring20) svc)) .nonSecure .command).prod = 3 ∧
      ringHeld (ringOf (doorbell .nonSecure 2 (updRing .nonSecure .command (fun _ => ring20) svc)) .nonSecure .command) = 255 := by
  decide +kernel
/-- 15, the worked example: once source 1,440 is disabled, a claim returns 0x7FF. -/
theorem test_claim_after_disable :
    (claim false (enableWrite 45 1 (prioWrite 180 1 (evcEnd (raise 1440 svc))))).1 % 2048 = 1440 ∧
      (claim false (enableWrite 45 0 (enableWrite 45 1 (prioWrite 180 1 (evcEnd (raise 1440 svc)))))).1 % 2048 = 0x7FF := by decide +kernel
/-- 17, the worked example: AGENT_RESET conflicts with a flush's ageing tablet, UCODE_LOAD does not. -/
theorem test_tablet_pairs : compatible .ag .ar = false ∧ compatible .ag .ul = true ∧ compatible .ul .ag = true := by decide
/-- 19, the worked example: with a largest age limit of 10 ms the in-flight time is 11 orbits. -/
theorem test_inflight : inflightOrbits 62500 = 11 := by decide
/-- No word spells a command, and no word changes a state's queue. -/
theorem test_no_table_words (n w : Nat) : decodeTableWord n w = none ∧ State.reset.withFetchWord n w = State.reset := ⟨rfl, rfl⟩
/-- The core is this model. -/
theorem test_core : Sys2Proof.core.reset = State.reset := rfl
/-- FIPS 197, appendix C.1 and C.3: AES-128 and the inverse of AES-256 under the keys 00 01 02 …. -/
theorem test_aes_vectors :
    aesEnc (beBytes 16 0x000102030405060708090a0b0c0d0e0f) 0x00112233445566778899aabbccddeeff#128 =
        0x69c4e0d86a7b0430d8cdb78070b4c55a#128 ∧
      aesDec (beBytes 32 0x000102030405060708090a0b0c0d0e0f101112131415161718191a1b1c1d1e1f)
        0x8ea2b7ca516745bfeafc49904b496089#128 = 0x00112233445566778899aabbccddeeff#128 := by decide +kernel
/-- The GCM specification's test case 2: the first GHASH step of a zero key's hash key. -/
theorem test_ghash_vector :
    ghashStep 0x66e94bd4ef8a2c3b884cfa59ca342b2e#128 0 0x0388dace60b6a392f328c2b971b2fe78#128 =
      0x5e2ec746917062882c85b0685353deb7#128 := by decide +kernel
/-- SP 800-38B, the example of an empty message under AES-128. -/
theorem test_cmac_vector :
    aesEnc (beBytes 16 0x2b7e151628aed2a6abf7158809cf4f3c) (cmacLast (beBytes 16 0x2b7e151628aed2a6abf7158809cf4f3c) false []) =
      0xbb1d6929e95937287fa37d129b756746#128 := by decide +kernel
/-- FIPS 180-4's example for SHA-384: the message "abc". -/
theorem test_sha384 : beNat (sha384 [0x61, 0x62, 0x63]) =
    0xcb00753f45a35e8bb5a03d699ac65007272c32ab0eded1631a8b605a43ff5bed8086072ba1e7cc2358baeca134c825a7 := by decide +kernel

/-- RFC 3394, section 4.6: 256 bits of key data under a 256-bit key, wrapped. -/
theorem test_key_wrap_vector :
    keyWrap (beBytes 32 0x000102030405060708090a0b0c0d0e0f101112131415161718191a1b1c1d1e1f)
        (beBytes 32 0x00112233445566778899aabbccddeeff000102030405060708090a0b0c0d0e0f) =
      beBytes 40 0x28c9f404c4b810f4cbccb35cfb87f8263f5786e2d80ed326cbc7f0e71a99f43bfb988b9b7a02dd21 := by decide +kernel
/-- R236: a rewrite of four bytes of a nine-byte payload is made good in its last two bytes. -/
theorem test_udp6_repair :
    onesBetween (setBytes [1, 2, 3, 4, 9, 8, 7, 6, 5] 7
        (beBytes 2 (udp6Repair [1, 2, 3, 4, 5, 6, 7, 6, 5] [1, 2, 3, 4, 9, 8, 7, 6, 5] 0 9))) 0 9 =
      onesBetween [1, 2, 3, 4, 5, 6, 7, 6, 5] 0 9 := by decide +kernel
/-- R308: of one cycle's entries a READY stands before a START; an entry of an earlier cycle stands first. -/
theorem test_trace_order :
    ((recordEntry [⟨4, 4, false, 1, 9, 0, 0, 0⟩, ⟨5, 3, false, 1, 40, 2, 3, 0⟩] ⟨5, 1, true, 0, 41, 2, 3, 0⟩).map
      (fun e => e.event)) = [4, 1, 3] := by decide

/-! ### WellFormed refuses each ill-formed term -/

/-- A header whose sequence number does not fit its field. -/
def badH : Hdr := { hS with seq := 2 ^ 32 }
theorem badH_wf : badH.wf = false := by decide
theorem test_wf_header : (∀ h : Hdr, ({ h with seq := 2 ^ 32 } : Hdr).wf = false) ∧ (∀ h : Hdr, ({ h with tag := 2 ^ 64 } : Hdr).wf = false) ∧
    (∀ h : Hdr, ({ h with timeoutUs := 2 ^ 32 } : Hdr).wf = false) := by
  refine ⟨?_, ?_, ?_⟩ <;> intro h <;> simp [Hdr.wf]

/-- Each check of WellFormed refuses a term that breaks it, part 1. -/
theorem test_wf_1 :
    (∀ (x1 : List Byte), (Instr.ttLoad badH x1).wf = false) ∧
    (∀ (x1 : Nat) (x2 : Nat), (Instr.ttCommit badH x1 x2).wf = false) ∧
    (∀ (x0 : Hdr) (x2 : Nat), (Instr.ttCommit x0 (2 ^ 64) x2).wf = false) ∧
    (∀ (x0 : Hdr) (x1 : Nat), (Instr.ttCommit x0 x1 (2 ^ 64)).wf = false) ∧
    (∀ (x1 : Nat), (Instr.ttAbort badH x1).wf = false) ∧
    (∀ (x0 : Hdr), (Instr.ttAbort x0 (2 ^ 64)).wf = false) ∧
    ((Instr.ttStatus badH).wf = false) ∧
    (∀ (x1 : Nat) (x2 : Nat), (Instr.ttShedRead badH x1 x2).wf = false) ∧
    (∀ (x0 : Hdr) (x2 : Nat), (Instr.ttShedRead x0 (2 ^ 64) x2).wf = false) ∧
    (∀ (x0 : Hdr) (x1 : Nat), (Instr.ttShedRead x0 x1 (2 ^ 64)).wf = false) ∧
    (∀ (x1 : Nat) (x2 : Nat), (Instr.ttAggRead badH x1 x2).wf = false) ∧
    (∀ (x0 : Hdr) (x2 : Nat), (Instr.ttAggRead x0 (2 ^ 64) x2).wf = false) ∧
    (∀ (x0 : Hdr) (x1 : Nat), (Instr.ttAggRead x0 x1 (2 ^ 64)).wf = false) ∧
    (∀ f : RxFrame, (Instr.frameReceive { f with port := 1024 }).wf = false) ∧
    (∀ f : RxFrame, (Instr.frameReceive { f with bitOff := 8 }).wf = false) ∧
    (∀ f : RxFrame, (Instr.frameReceive { f with len := f.bytes.length - 1, bytes := 0 :: f.bytes }).wf = false) ∧
    (∀ (x1 : Nat), (Instr.cellInject (32) x1).wf = false) ∧
    (∀ (x0 : Nat), (Instr.cellInject x0 (3)).wf = false) ∧
    (∀ (x1 : Option CellFault), (Instr.cellRelease (32) x1).wf = false) ∧
    ((Instr.egressSelect (1024)).wf = false) ∧
    (∀ (x1 : Bool), (Instr.sidingReadReturn (32) x1).wf = false) ∧
    ((Instr.histSample (32)).wf = false) ∧
    ((Instr.updateSlot (32)).wf = false) ∧
    (∀ (x1 : Arr) (x2 : Nat) (x3 : Bool), (Instr.arrayRepaired (32) x1 x2 x3).wf = false) ∧
    (∀ (x1 : Nat) (x2 : Bool), (Instr.ucodeScrubRewrite (32) x1 x2).wf = false) ∧
    (∀ (x0 : Nat) (x2 : Bool), (Instr.ucodeScrubRewrite x0 (20480) x2).wf = false) ∧
    ((Instr.learnRequestArrive (32)).wf = false) ∧
    ((Instr.pairAnswer (32)).wf = false) ∧
    ((Instr.pairAge (32)).wf = false) ∧
    ((Instr.pairDelete (32)).wf = false) ∧
    ((Instr.ageingSweep (32)).wf = false) ∧
    (∀ (x1 : Nat) (x2 : Nat), (Instr.rowActivationTrigger (384) x1 x2).wf = false) ∧
    (∀ (x0 : Nat) (x2 : Nat), (Instr.rowActivationTrigger x0 (32) x2).wf = false) ∧
    (∀ (x0 : Nat) (x1 : Nat), (Instr.rowActivationTrigger x0 x1 (16384)).wf = false) ∧
    (∀ (x1 : Nat) (x2 : Nat) (x3 : Nat) (x4 : Nat) (x5 : Nat) (x6 : Nat), (Instr.hbmFreeze (384) x1 x2 x3 x4 x5 x6).wf = false) ∧
    ((Instr.linkDown (1024)).wf = false) ∧
    ((Instr.linkUp (1024)).wf = false) ∧
    ((Instr.laneLost (1024)).wf = false) ∧
    (∀ (x1 : Bool), (Instr.cartFault (16) x1).wf = false) ∧
    (∀ (x1 : Bool), (Instr.preemptVerifyDone (1024) x1).wf = false) := by
  refine ⟨?_, ?_, ?_, ?_, ?_, ?_, ?_, ?_, ?_, ?_, ?_, ?_, ?_, ?_, ?_, ?_, ?_, ?_, ?_, ?_, ?_, ?_, ?_, ?_, ?_, ?_, ?_, ?_, ?_, ?_, ?_, ?_, ?_, ?_, ?_, ?_, ?_, ?_, ?_, ?_⟩ <;> intros <;> simp [Instr.wf, RxFrame.wf, badH_wf]

/-- Each check of WellFormed refuses a term that breaks it, part 2. -/
theorem test_wf_2 :
    ((Instr.timeIoPeriodicEdge (6)).wf = false) ∧
    ((Instr.timeIoOneShot (6)).wf = false) ∧
    (∀ (x1 : Bool) (x2 : Nat), (Instr.timeIoCapture (6) x1 x2).wf = false) ∧
    (∀ (x0 : Nat) (x1 : Bool), (Instr.timeIoCapture x0 x1 (8)).wf = false) ∧
    ((Instr.moduleInfo badH).wf = false) ∧
    (∀ (x1 : List Byte), (Instr.qcpEcho badH x1).wf = false) ∧
    (∀ (x1 : Nat) (x2 : Nat), (Instr.qcpCancel badH x1 x2).wf = false) ∧
    (∀ (x0 : Hdr) (x2 : Nat), (Instr.qcpCancel x0 (2 ^ 64) x2).wf = false) ∧
    (∀ (x0 : Hdr) (x1 : Nat), (Instr.qcpCancel x0 x1 (2 ^ 64)).wf = false) ∧
    (∀ (x1 : Nat) (x2 : World) (x3 : Nat) (x4 : Nat) (x5 : Bool), (Instr.qcpInbandSet badH x1 x2 x3 x4 x5).wf = false) ∧
    (∀ (x0 : Hdr) (x2 : World) (x3 : Nat) (x4 : Nat) (x5 : Bool), (Instr.qcpInbandSet x0 (2 ^ 64) x2 x3 x4 x5).wf = false) ∧
    (∀ (x0 : Hdr) (x1 : Nat) (x2 : World) (x4 : Nat) (x5 : Bool), (Instr.qcpInbandSet x0 x1 x2 (2 ^ 64) x4 x5).wf = false) ∧
    (∀ (x0 : Hdr) (x1 : Nat) (x2 : World) (x3 : Nat) (x5 : Bool), (Instr.qcpInbandSet x0 x1 x2 x3 (2 ^ 64) x5).wf = false) ∧
    (∀ (x1 : Bool), (Instr.qcpStats badH x1).wf = false) ∧
    (∀ (x0 : World), (Instr.commandFetch ⟨x0, [1]⟩).wf = false) ∧
    (∀ (x0 : Ring) (x2 : Nat), (Instr.commandTimeout x0 (4294967296) x2).wf = false) ∧
    (∀ (x0 : Ring) (x1 : Nat), (Instr.commandTimeout x0 x1 (18446744073709551616)).wf = false) ∧
    (∀ f : InbandFrame, (Instr.inbandCommand { f with port := 1024 }).wf = false) ∧
    ((Instr.modeStatus badH).wf = false) ∧
    (∀ (x1 : Mode) (x2 : Nat), (Instr.modeSet badH x1 x2).wf = false) ∧
    (∀ (x0 : Hdr) (x1 : Mode), (Instr.modeSet x0 x1 (2 ^ 64)).wf = false) ∧
    (∀ (x1 : Domain) (x2 : Nat), (Instr.tabletStatus badH x1 x2).wf = false) ∧
    (∀ (x0 : Hdr) (x1 : Domain), (Instr.tabletStatus x0 x1 (2 ^ 64)).wf = false) ∧
    ((Instr.moduleReset badH).wf = false) ∧
    ((Instr.calibrationDone [1024]).wf = false) ∧
    ((Instr.sliceHalt (32)).wf = false) ∧
    ((Instr.hbmZeroingDone [384]).wf = false) ∧
    (∀ (x1 : List MapEnt), (Instr.portMapSet badH x1).wf = false) ∧
    (∀ (x1 : Bool), (Instr.portMapGet badH x1).wf = false) ∧
    (∀ (x1 : Nat) (x2 : Bool) (x3 : Bool), (Instr.portAdmin badH x1 x2 x3).wf = false) ∧
    (∀ (x0 : Hdr) (x2 : Bool) (x3 : Bool), (Instr.portAdmin x0 (2 ^ 64) x2 x3).wf = false) ∧
    (∀ (x1 : Nat) (x2 : Nat), (Instr.portStatus badH x1 x2).wf = false) ∧
    (∀ (x0 : Hdr) (x2 : Nat), (Instr.portStatus x0 (2 ^ 64) x2).wf = false) ∧
    (∀ (x0 : Hdr) (x1 : Nat), (Instr.portStatus x0 x1 (2 ^ 64)).wf = false) ∧
    (∀ (x1 : Nat) (x2 : Bool), (Instr.portCounters badH x1 x2).wf = false) ∧
    (∀ (x0 : Hdr) (x2 : Bool), (Instr.portCounters x0 (2 ^ 64) x2).wf = false) := by
  refine ⟨?_, ?_, ?_, ?_, ?_, ?_, ?_, ?_, ?_, ?_, ?_, ?_, ?_, ?_, ?_, ?_, ?_, ?_, ?_, ?_, ?_, ?_, ?_, ?_, ?_, ?_, ?_, ?_, ?_, ?_, ?_, ?_, ?_, ?_, ?_, ?_⟩ <;> intros <;> simp [Instr.wf, badH_wf]

/-- Each check of WellFormed refuses a term that breaks it, part 3. -/
theorem test_wf_3 :
    (∀ (x1 : Nat) (x2 : Nat), (Instr.laneStatus badH x1 x2).wf = false) ∧
    (∀ (x0 : Hdr) (x2 : Nat), (Instr.laneStatus x0 (2 ^ 64) x2).wf = false) ∧
    (∀ (x0 : Hdr) (x1 : Nat), (Instr.laneStatus x0 x1 (2 ^ 64)).wf = false) ∧
    (∀ (x1 : Nat) (x2 : Bool), (Instr.laneRecal badH x1 x2).wf = false) ∧
    (∀ (x0 : Hdr) (x2 : Bool), (Instr.laneRecal x0 (2 ^ 64) x2).wf = false) ∧
    ((Instr.laneRecalDone (1024)).wf = false) ∧
    (∀ (x1 : Nat) (x2 : Nat) (x3 : Nat) (x4 : Nat), (Instr.fecThreshSet badH x1 x2 x3 x4).wf = false) ∧
    (∀ (x0 : Hdr) (x2 : Nat) (x3 : Nat) (x4 : Nat), (Instr.fecThreshSet x0 (2 ^ 64) x2 x3 x4).wf = false) ∧
    (∀ (x0 : Hdr) (x1 : Nat) (x3 : Nat) (x4 : Nat), (Instr.fecThreshSet x0 x1 (2 ^ 64) x3 x4).wf = false) ∧
    (∀ (x0 : Hdr) (x1 : Nat) (x2 : Nat) (x4 : Nat), (Instr.fecThreshSet x0 x1 x2 (2 ^ 64) x4).wf = false) ∧
    (∀ (x0 : Hdr) (x1 : Nat) (x2 : Nat) (x3 : Nat), (Instr.fecThreshSet x0 x1 x2 x3 (2 ^ 64)).wf = false) ∧
    (∀ (x1 : Nat), (Instr.cartHandover badH x1).wf = false) ∧
    (∀ (x0 : Hdr), (Instr.cartHandover x0 (2 ^ 64)).wf = false) ∧
    ((Instr.cartHandoverDone (16)).wf = false) ∧
    (∀ (x1 : Nat) (x2 : Bool), (Instr.cartRestore badH x1 x2).wf = false) ∧
    (∀ (x0 : Hdr) (x2 : Bool), (Instr.cartRestore x0 (2 ^ 64) x2).wf = false) ∧
    (∀ (x1 : Bool), (Instr.cartRestoreDone (16) x1).wf = false) ∧
    ((Instr.cartStatus badH).wf = false) ∧
    (∀ (x1 : Nat) (x2 : Bool), (Instr.portParseSet badH x1 x2).wf = false) ∧
    (∀ (x0 : Hdr) (x2 : Bool), (Instr.portParseSet x0 (2 ^ 64) x2).wf = false) ∧
    (∀ (x1 : Nat) (x2 : Bool), (Instr.parseCounters badH x1 x2).wf = false) ∧
    (∀ (x0 : Hdr) (x2 : Bool), (Instr.parseCounters x0 (2 ^ 64) x2).wf = false) ∧
    (∀ (x1 : W64), (Instr.hashSaltSet badH x1).wf = false) ∧
    (∀ (x1 : List Byte), (Instr.hashProbe badH x1).wf = false) ∧
    ((Instr.ruleVersionOpen badH).wf = false) ∧
    (∀ (x1 : Nat), (Instr.ruleVersionCommit badH x1).wf = false) ∧
    (∀ (x0 : Hdr), (Instr.ruleVersionCommit x0 (2 ^ 64)).wf = false) ∧
    (∀ (x1 : Nat), (Instr.ruleVersionDiscard badH x1).wf = false) ∧
    (∀ (x0 : Hdr), (Instr.ruleVersionDiscard x0 (2 ^ 64)).wf = false) ∧
    (∀ (x1 : Nat), (Instr.ruleVersionRetire badH x1).wf = false) ∧
    (∀ (x0 : Hdr), (Instr.ruleVersionRetire x0 (2 ^ 64)).wf = false) ∧
    ((Instr.ruleVersionStatus badH).wf = false) ∧
    (∀ (x1 : Nat) (x2 : W32) (x3 : Nat) (x4 : Nat) (x5 : Bool) (x6 : Nat) (x7 : Nat) (x8 : BitVec 960) (x9 : BitVec 960), (Instr.ruleAdd badH x1 x2 x3 x4 x5 x6 x7 x8 x9).wf = false) ∧
    (∀ (x0 : Hdr) (x2 : W32) (x3 : Nat) (x4 : Nat) (x5 : Bool) (x6 : Nat) (x7 : Nat) (x8 : BitVec 960) (x9 : BitVec 960), (Instr.ruleAdd x0 (2 ^ 64) x2 x3 x4 x5 x6 x7 x8 x9).wf = false) ∧
    (∀ (x0 : Hdr) (x1 : Nat) (x2 : W32) (x4 : Nat) (x5 : Bool) (x6 : Nat) (x7 : Nat) (x8 : BitVec 960) (x9 : BitVec 960), (Instr.ruleAdd x0 x1 x2 (2 ^ 64) x4 x5 x6 x7 x8 x9).wf = false) ∧
    (∀ (x0 : Hdr) (x1 : Nat) (x2 : W32) (x3 : Nat) (x5 : Bool) (x6 : Nat) (x7 : Nat) (x8 : BitVec 960) (x9 : BitVec 960), (Instr.ruleAdd x0 x1 x2 x3 (2 ^ 64) x5 x6 x7 x8 x9).wf = false) ∧
    (∀ (x0 : Hdr) (x1 : Nat) (x2 : W32) (x3 : Nat) (x4 : Nat) (x5 : Bool) (x7 : Nat) (x8 : BitVec 960) (x9 : BitVec 960), (Instr.ruleAdd x0 x1 x2 x3 x4 x5 (2 ^ 64) x7 x8 x9).wf = false) ∧
    (∀ (x0 : Hdr) (x1 : Nat) (x2 : W32) (x3 : Nat) (x4 : Nat) (x5 : Bool) (x6 : Nat) (x8 : BitVec 960) (x9 : BitVec 960), (Instr.ruleAdd x0 x1 x2 x3 x4 x5 x6 (2 ^ 64) x8 x9).wf = false) ∧
    (∀ (x1 : Nat) (x2 : W32) (x3 : Nat), (Instr.ruleRemove badH x1 x2 x3).wf = false) ∧
    (∀ (x0 : Hdr) (x2 : W32) (x3 : Nat), (Instr.ruleRemove x0 (2 ^ 64) x2 x3).wf = false) := by
  refine ⟨?_, ?_, ?_, ?_, ?_, ?_, ?_, ?_, ?_, ?_, ?_, ?_, ?_, ?_, ?_, ?_, ?_, ?_, ?_, ?_, ?_, ?_, ?_, ?_, ?_, ?_, ?_, ?_, ?_, ?_, ?_, ?_, ?_, ?_, ?_, ?_, ?_, ?_, ?_, ?_⟩ <;> intros <;> simp [Instr.wf, badH_wf]

/-- Each check of WellFormed refuses a term that breaks it, part 4. -/
theorem test_wf_4 :
    (∀ (x0 : Hdr) (x1 : Nat) (x2 : W32), (Instr.ruleRemove x0 x1 x2 (2 ^ 64)).wf = false) ∧
    (∀ (x1 : Nat) (x2 : W32) (x3 : Nat) (x4 : Nat) (x5 : Nat) (x6 : Bool) (x7 : Nat) (x8 : Nat) (x9 : BitVec 960) (x10 : BitVec 960), (Instr.ruleChange badH x1 x2 x3 x4 x5 x6 x7 x8 x9 x10).wf = false) ∧
    (∀ (x0 : Hdr) (x2 : W32) (x3 : Nat) (x4 : Nat) (x5 : Nat) (x6 : Bool) (x7 : Nat) (x8 : Nat) (x9 : BitVec 960) (x10 : BitVec 960), (Instr.ruleChange x0 (2 ^ 64) x2 x3 x4 x5 x6 x7 x8 x9 x10).wf = false) ∧
    (∀ (x0 : Hdr) (x1 : Nat) (x2 : W32) (x4 : Nat) (x5 : Nat) (x6 : Bool) (x7 : Nat) (x8 : Nat) (x9 : BitVec 960) (x10 : BitVec 960), (Instr.ruleChange x0 x1 x2 (2 ^ 64) x4 x5 x6 x7 x8 x9 x10).wf = false) ∧
    (∀ (x0 : Hdr) (x1 : Nat) (x2 : W32) (x3 : Nat) (x5 : Nat) (x6 : Bool) (x7 : Nat) (x8 : Nat) (x9 : BitVec 960) (x10 : BitVec 960), (Instr.ruleChange x0 x1 x2 x3 (2 ^ 64) x5 x6 x7 x8 x9 x10).wf = false) ∧
    (∀ (x0 : Hdr) (x1 : Nat) (x2 : W32) (x3 : Nat) (x4 : Nat) (x6 : Bool) (x7 : Nat) (x8 : Nat) (x9 : BitVec 960) (x10 : BitVec 960), (Instr.ruleChange x0 x1 x2 x3 x4 (2 ^ 64) x6 x7 x8 x9 x10).wf = false) ∧
    (∀ (x0 : Hdr) (x1 : Nat) (x2 : W32) (x3 : Nat) (x4 : Nat) (x5 : Nat) (x6 : Bool) (x8 : Nat) (x9 : BitVec 960) (x10 : BitVec 960), (Instr.ruleChange x0 x1 x2 x3 x4 x5 x6 (2 ^ 64) x8 x9 x10).wf = false) ∧
    (∀ (x0 : Hdr) (x1 : Nat) (x2 : W32) (x3 : Nat) (x4 : Nat) (x5 : Nat) (x6 : Bool) (x7 : Nat) (x9 : BitVec 960) (x10 : BitVec 960), (Instr.ruleChange x0 x1 x2 x3 x4 x5 x6 x7 (2 ^ 64) x9 x10).wf = false) ∧
    (∀ (x1 : Nat) (x2 : Nat) (x3 : Nat) (x4 : Bool) (x5 : BitVec 960), (Instr.ruleSearch badH x1 x2 x3 x4 x5).wf = false) ∧
    (∀ (x0 : Hdr) (x2 : Nat) (x3 : Nat) (x4 : Bool) (x5 : BitVec 960), (Instr.ruleSearch x0 (2 ^ 64) x2 x3 x4 x5).wf = false) ∧
    (∀ (x0 : Hdr) (x1 : Nat) (x3 : Nat) (x4 : Bool) (x5 : BitVec 960), (Instr.ruleSearch x0 x1 (2 ^ 64) x3 x4 x5).wf = false) ∧
    (∀ (x0 : Hdr) (x1 : Nat) (x2 : Nat) (x4 : Bool) (x5 : BitVec 960), (Instr.ruleSearch x0 x1 x2 (2 ^ 64) x4 x5).wf = false) ∧
    (∀ (x1 : Nat) (x2 : Nat) (x3 : Nat) (x4 : Bool) (x5 : BitVec 960) (x6 : BitVec 960) (x7 : Nat) (x8 : Nat), (Instr.ruleIter badH x1 x2 x3 x4 x5 x6 x7 x8).wf = false) ∧
    (∀ (x0 : Hdr) (x2 : Nat) (x3 : Nat) (x4 : Bool) (x5 : BitVec 960) (x6 : BitVec 960) (x7 : Nat) (x8 : Nat), (Instr.ruleIter x0 (2 ^ 64) x2 x3 x4 x5 x6 x7 x8).wf = false) ∧
    (∀ (x0 : Hdr) (x1 : Nat) (x3 : Nat) (x4 : Bool) (x5 : BitVec 960) (x6 : BitVec 960) (x7 : Nat) (x8 : Nat), (Instr.ruleIter x0 x1 (2 ^ 64) x3 x4 x5 x6 x7 x8).wf = false) ∧
    (∀ (x0 : Hdr) (x1 : Nat) (x2 : Nat) (x4 : Bool) (x5 : BitVec 960) (x6 : BitVec 960) (x7 : Nat) (x8 : Nat), (Instr.ruleIter x0 x1 x2 (2 ^ 64) x4 x5 x6 x7 x8).wf = false) ∧
    (∀ (x0 : Hdr) (x1 : Nat) (x2 : Nat) (x3 : Nat) (x4 : Bool) (x5 : BitVec 960) (x6 : BitVec 960) (x8 : Nat), (Instr.ruleIter x0 x1 x2 x3 x4 x5 x6 (2 ^ 64) x8).wf = false) ∧
    (∀ (x0 : Hdr) (x1 : Nat) (x2 : Nat) (x3 : Nat) (x4 : Bool) (x5 : BitVec 960) (x6 : BitVec 960) (x7 : Nat), (Instr.ruleIter x0 x1 x2 x3 x4 x5 x6 x7 (2 ^ 64)).wf = false) ∧
    (∀ (x1 : Nat) (x2 : Nat), (Instr.ruleRead badH x1 x2).wf = false) ∧
    (∀ (x0 : Hdr) (x2 : Nat), (Instr.ruleRead x0 (2 ^ 64) x2).wf = false) ∧
    (∀ (x0 : Hdr) (x1 : Nat), (Instr.ruleRead x0 x1 (2 ^ 64)).wf = false) ∧
    (∀ (x1 : List (Nat × World)), (Instr.rulePartitionSet badH x1).wf = false) ∧
    (∀ (x1 : Nat), (Instr.arrayStatus badH x1).wf = false) ∧
    (∀ (x0 : Hdr), (Instr.arrayStatus x0 (2 ^ 64)).wf = false) ∧
    (∀ (x1 : W32) (x2 : Bool), (Instr.arrayStealSet badH x1 x2).wf = false) ∧
    (∀ (x1 : Nat) (x2 : W32) (x3 : Nat) (x4 : BitVec 48), (Instr.actionAdd badH x1 x2 x3 x4).wf = false) ∧
    (∀ (x0 : Hdr) (x2 : W32) (x3 : Nat) (x4 : BitVec 48), (Instr.actionAdd x0 (2 ^ 64) x2 x3 x4).wf = false) ∧
    (∀ (x0 : Hdr) (x1 : Nat) (x2 : W32) (x4 : BitVec 48), (Instr.actionAdd x0 x1 x2 (2 ^ 64) x4).wf = false) ∧
    (∀ (x1 : Nat) (x2 : W32) (x3 : Nat), (Instr.actionRemove badH x1 x2 x3).wf = false) ∧
    (∀ (x0 : Hdr) (x2 : W32) (x3 : Nat), (Instr.actionRemove x0 (2 ^ 64) x2 x3).wf = false) ∧
    (∀ (x0 : Hdr) (x1 : Nat) (x2 : W32), (Instr.actionRemove x0 x1 x2 (2 ^ 64)).wf = false) ∧
    (∀ (x1 : Nat) (x2 : W32) (x3 : Nat) (x4 : NextHop), (Instr.nexthopAdd badH x1 x2 x3 x4).wf = false) ∧
    (∀ (x0 : Hdr) (x2 : W32) (x3 : Nat) (x4 : NextHop), (Instr.nexthopAdd x0 (2 ^ 64) x2 x3 x4).wf = false) ∧
    (∀ (x0 : Hdr) (x1 : Nat) (x2 : W32) (x4 : NextHop), (Instr.nexthopAdd x0 x1 x2 (2 ^ 64) x4).wf = false) ∧
    (∀ (x1 : Nat) (x2 : W32) (x3 : Nat), (Instr.nexthopRemove badH x1 x2 x3).wf = false) ∧
    (∀ (x0 : Hdr) (x2 : W32) (x3 : Nat), (Instr.nexthopRemove x0 (2 ^ 64) x2 x3).wf = false) ∧
    (∀ (x0 : Hdr) (x1 : Nat) (x2 : W32), (Instr.nexthopRemove x0 x1 x2 (2 ^ 64)).wf = false) ∧
    (∀ (x1 : Nat) (x2 : W32) (x3 : Nat) (x4 : List Nat), (Instr.ecmpAdd badH x1 x2 x3 x4).wf = false) ∧
    (∀ (x0 : Hdr) (x2 : W32) (x3 : Nat) (x4 : List Nat), (Instr.ecmpAdd x0 (2 ^ 64) x2 x3 x4).wf = false) ∧
    (∀ (x0 : Hdr) (x1 : Nat) (x2 : W32) (x4 : List Nat), (Instr.ecmpAdd x0 x1 x2 (2 ^ 64) x4).wf = false) := by
  refine ⟨?_, ?_, ?_, ?_, ?_, ?_, ?_, ?_, ?_, ?_, ?_, ?_, ?_, ?_, ?_, ?_, ?_, ?_, ?_, ?_, ?_, ?_, ?_, ?_, ?_, ?_, ?_, ?_, ?_, ?_, ?_, ?_, ?_, ?_, ?_, ?_, ?_, ?_, ?_, ?_⟩ <;> intros <;> simp [Instr.wf, badH_wf]

/-- Each check of WellFormed refuses a term that breaks it, part 5. -/
theorem test_wf_5 :
    (∀ (x0 : Hdr) (x1 : Nat) (x2 : W32) (x3 : Nat), (Instr.ecmpAdd x0 x1 x2 x3 [2 ^ 64]).wf = false) ∧
    (∀ (x1 : Nat) (x2 : W32) (x3 : Nat), (Instr.ecmpRemove badH x1 x2 x3).wf = false) ∧
    (∀ (x0 : Hdr) (x2 : W32) (x3 : Nat), (Instr.ecmpRemove x0 (2 ^ 64) x2 x3).wf = false) ∧
    (∀ (x0 : Hdr) (x1 : Nat) (x2 : W32), (Instr.ecmpRemove x0 x1 x2 (2 ^ 64)).wf = false) ∧
    (∀ (x1 : Nat) (x2 : Nat) (x3 : List Nat), (Instr.lagAdd badH x1 x2 x3).wf = false) ∧
    (∀ (x0 : Hdr) (x2 : Nat) (x3 : List Nat), (Instr.lagAdd x0 (2 ^ 64) x2 x3).wf = false) ∧
    (∀ (x0 : Hdr) (x1 : Nat) (x3 : List Nat), (Instr.lagAdd x0 x1 (2 ^ 64) x3).wf = false) ∧
    (∀ (x0 : Hdr) (x1 : Nat) (x2 : Nat), (Instr.lagAdd x0 x1 x2 [2 ^ 64]).wf = false) ∧
    (∀ (x1 : Nat) (x2 : Nat), (Instr.lagRemove badH x1 x2).wf = false) ∧
    (∀ (x0 : Hdr) (x2 : Nat), (Instr.lagRemove x0 (2 ^ 64) x2).wf = false) ∧
    (∀ (x0 : Hdr) (x1 : Nat), (Instr.lagRemove x0 x1 (2 ^ 64)).wf = false) ∧
    (∀ (x1 : Nat) (x2 : Bool), (Instr.excCounters badH x1 x2).wf = false) ∧
    (∀ (x0 : Hdr) (x2 : Bool), (Instr.excCounters x0 (2 ^ 64) x2).wf = false) ∧
    (∀ (x1 : Nat) (x2 : Nat) (x3 : List (Nat × Nat)), (Instr.mcastAdd badH x1 x2 x3).wf = false) ∧
    (∀ (x0 : Hdr) (x2 : Nat) (x3 : List (Nat × Nat)), (Instr.mcastAdd x0 (2 ^ 64) x2 x3).wf = false) ∧
    (∀ (x0 : Hdr) (x1 : Nat) (x3 : List (Nat × Nat)), (Instr.mcastAdd x0 x1 (2 ^ 64) x3).wf = false) ∧
    (∀ (x0 : Hdr) (x1 : Nat) (x2 : Nat), (Instr.mcastAdd x0 x1 x2 [(2 ^ 64, 0)]).wf = false) ∧
    (∀ (x0 : Hdr) (x1 : Nat) (x2 : Nat), (Instr.mcastAdd x0 x1 x2 [(0, 2 ^ 64)]).wf = false) ∧
    (∀ (x1 : Nat) (x2 : Nat), (Instr.mcastRemove badH x1 x2).wf = false) ∧
    (∀ (x0 : Hdr) (x2 : Nat), (Instr.mcastRemove x0 (2 ^ 64) x2).wf = false) ∧
    (∀ (x0 : Hdr) (x1 : Nat), (Instr.mcastRemove x0 x1 (2 ^ 64)).wf = false) ∧
    (∀ (x1 : Nat) (x2 : Bool), (Instr.fabricCounters badH x1 x2).wf = false) ∧
    (∀ (x0 : Hdr) (x2 : Bool), (Instr.fabricCounters x0 (2 ^ 64) x2).wf = false) ∧
    (∀ (x1 : Nat) (x2 : Nat), (Instr.fabricStatus badH x1 x2).wf = false) ∧
    (∀ (x0 : Hdr) (x2 : Nat), (Instr.fabricStatus x0 (2 ^ 64) x2).wf = false) ∧
    (∀ (x0 : Hdr) (x1 : Nat), (Instr.fabricStatus x0 x1 (2 ^ 64)).wf = false) ∧
    (∀ (x1 : Nat) (x2 : Nat) (x3 : Bool) (x4 : BitVec 128) (x5 : Nat) (x6 : BitVec 24), (Instr.routeAdd badH x1 x2 x3 x4 x5 x6).wf = false) ∧
    (∀ (x0 : Hdr) (x2 : Nat) (x3 : Bool) (x4 : BitVec 128) (x5 : Nat) (x6 : BitVec 24), (Instr.routeAdd x0 (2 ^ 64) x2 x3 x4 x5 x6).wf = false) ∧
    (∀ (x0 : Hdr) (x1 : Nat) (x3 : Bool) (x4 : BitVec 128) (x5 : Nat) (x6 : BitVec 24), (Instr.routeAdd x0 x1 (2 ^ 64) x3 x4 x5 x6).wf = false) ∧
    (∀ (x0 : Hdr) (x1 : Nat) (x2 : Nat) (x3 : Bool) (x4 : BitVec 128) (x6 : BitVec 24), (Instr.routeAdd x0 x1 x2 x3 x4 (2 ^ 64) x6).wf = false) ∧
    (∀ (x1 : Nat) (x2 : Nat) (x3 : Bool) (x4 : BitVec 128) (x5 : Nat), (Instr.routeRemove badH x1 x2 x3 x4 x5).wf = false) ∧
    (∀ (x0 : Hdr) (x2 : Nat) (x3 : Bool) (x4 : BitVec 128) (x5 : Nat), (Instr.routeRemove x0 (2 ^ 64) x2 x3 x4 x5).wf = false) ∧
    (∀ (x0 : Hdr) (x1 : Nat) (x3 : Bool) (x4 : BitVec 128) (x5 : Nat), (Instr.routeRemove x0 x1 (2 ^ 64) x3 x4 x5).wf = false) ∧
    (∀ (x0 : Hdr) (x1 : Nat) (x2 : Nat) (x3 : Bool) (x4 : BitVec 128), (Instr.routeRemove x0 x1 x2 x3 x4 (2 ^ 64)).wf = false) ∧
    (∀ (x1 : Nat) (x2 : Nat) (x3 : Bool) (x4 : BitVec 128) (x5 : Nat) (x6 : BitVec 24), (Instr.routeChange badH x1 x2 x3 x4 x5 x6).wf = false) ∧
    (∀ (x0 : Hdr) (x2 : Nat) (x3 : Bool) (x4 : BitVec 128) (x5 : Nat) (x6 : BitVec 24), (Instr.routeChange x0 (2 ^ 64) x2 x3 x4 x5 x6).wf = false) ∧
    (∀ (x0 : Hdr) (x1 : Nat) (x3 : Bool) (x4 : BitVec 128) (x5 : Nat) (x6 : BitVec 24), (Instr.routeChange x0 x1 (2 ^ 64) x3 x4 x5 x6).wf = false) ∧
    (∀ (x0 : Hdr) (x1 : Nat) (x2 : Nat) (x3 : Bool) (x4 : BitVec 128) (x6 : BitVec 24), (Instr.routeChange x0 x1 x2 x3 x4 (2 ^ 64) x6).wf = false) ∧
    (∀ (x1 : Nat) (x2 : Nat) (x3 : Bool) (x4 : BitVec 128), (Instr.routeLookup badH x1 x2 x3 x4).wf = false) ∧
    (∀ (x0 : Hdr) (x2 : Nat) (x3 : Bool) (x4 : BitVec 128), (Instr.routeLookup x0 (2 ^ 64) x2 x3 x4).wf = false) := by
  refine ⟨?_, ?_, ?_, ?_, ?_, ?_, ?_, ?_, ?_, ?_, ?_, ?_, ?_, ?_, ?_, ?_, ?_, ?_, ?_, ?_, ?_, ?_, ?_, ?_, ?_, ?_, ?_, ?_, ?_, ?_, ?_, ?_, ?_, ?_, ?_, ?_, ?_, ?_, ?_, ?_⟩ <;> intros <;> simp [Instr.wf, badH_wf]

/-- Each check of WellFormed refuses a term that breaks it, part 6. -/
theorem test_wf_6 :
    (∀ (x0 : Hdr) (x1 : Nat) (x3 : Bool) (x4 : BitVec 128), (Instr.routeLookup x0 x1 (2 ^ 64) x3 x4).wf = false) ∧
    ((Instr.routeStatus badH).wf = false) ∧
    (∀ (x1 : Nat), (Instr.routeHoleSet badH x1).wf = false) ∧
    (∀ (x0 : Hdr), (Instr.routeHoleSet x0 (2 ^ 64)).wf = false) ∧
    (∀ (x1 : Nat) (x2 : BitVec 304), (Instr.flowSearch badH x1 x2).wf = false) ∧
    (∀ (x0 : Hdr) (x2 : BitVec 304), (Instr.flowSearch x0 (2 ^ 64) x2).wf = false) ∧
    (∀ (x1 : BitVec 32) (x2 : BitVec 356) (x3 : BitVec 356) (x4 : Nat), (Instr.flowNext badH x1 x2 x3 x4).wf = false) ∧
    (∀ (x0 : Hdr) (x1 : BitVec 32) (x2 : BitVec 356) (x3 : BitVec 356), (Instr.flowNext x0 x1 x2 x3 (2 ^ 64)).wf = false) ∧
    (∀ (x1 : Nat) (x2 : BitVec 256), (Instr.flowFlushPort badH x1 x2).wf = false) ∧
    (∀ (x0 : Hdr) (x2 : BitVec 256), (Instr.flowFlushPort x0 (2 ^ 64) x2).wf = false) ∧
    ((Instr.flowFlushDone (1024)).wf = false) ∧
    (∀ (x1 : FlowRec) (x2 : Bool), (Instr.flowInsert badH x1 x2).wf = false) ∧
    (∀ (x1 : BitVec 32) (x2 : Nat) (x3 : BitVec 304), (Instr.flowDelete badH x1 x2 x3).wf = false) ∧
    (∀ (x0 : Hdr) (x1 : BitVec 32) (x3 : BitVec 304), (Instr.flowDelete x0 x1 (2 ^ 64) x3).wf = false) ∧
    (∀ (x1 : Nat) (x2 : Nat), (Instr.flowZoneSet badH x1 x2).wf = false) ∧
    (∀ (x0 : Hdr) (x2 : Nat), (Instr.flowZoneSet x0 (2 ^ 64) x2).wf = false) ∧
    (∀ (x0 : Hdr) (x1 : Nat), (Instr.flowZoneSet x0 x1 (2 ^ 64)).wf = false) ∧
    (∀ (x1 : Nat), (Instr.flowSweepSet badH x1).wf = false) ∧
    (∀ (x0 : Hdr), (Instr.flowSweepSet x0 (2 ^ 64)).wf = false) ∧
    (∀ (x1 : Nat) (x2 : Nat), (Instr.flowLearnLimit badH x1 x2).wf = false) ∧
    (∀ (x0 : Hdr) (x2 : Nat), (Instr.flowLearnLimit x0 (2 ^ 64) x2).wf = false) ∧
    (∀ (x0 : Hdr) (x1 : Nat), (Instr.flowLearnLimit x0 x1 (2 ^ 64)).wf = false) ∧
    (∀ (x1 : Nat), (Instr.flowStatus badH x1).wf = false) ∧
    (∀ (x0 : Hdr), (Instr.flowStatus x0 (2 ^ 64)).wf = false) ∧
    (∀ (x1 : Nat) (x2 : Bool), (Instr.flowCounters badH x1 x2).wf = false) ∧
    (∀ (x0 : Hdr) (x2 : Bool), (Instr.flowCounters x0 (2 ^ 64) x2).wf = false) ∧
    (∀ (x1 : Bool) (x2 : W32) (x3 : UcodeImage), (Instr.ucodeLoad badH x1 x2 x3).wf = false) ∧
    (∀ (x1 : Bool) (x2 : Bool) (x3 : W32), (Instr.ucodeSwap badH x1 x2 x3).wf = false) ∧
    (∀ (x1 : Nat), (Instr.ucodeStatus badH x1).wf = false) ∧
    (∀ (x0 : Hdr), (Instr.ucodeStatus x0 (2 ^ 64)).wf = false) ∧
    (∀ (x1 : Nat) (x2 : Nat) (x3 : BitVec 64), (Instr.queueShaperSet badH x1 x2 x3).wf = false) ∧
    (∀ (x0 : Hdr) (x2 : Nat) (x3 : BitVec 64), (Instr.queueShaperSet x0 (2 ^ 64) x2 x3).wf = false) ∧
    (∀ (x0 : Hdr) (x1 : Nat) (x3 : BitVec 64), (Instr.queueShaperSet x0 x1 (2 ^ 64) x3).wf = false) ∧
    (∀ (x1 : Nat) (x2 : Nat), (Instr.queueShaperGet badH x1 x2).wf = false) ∧
    (∀ (x0 : Hdr) (x2 : Nat), (Instr.queueShaperGet x0 (2 ^ 64) x2).wf = false) ∧
    (∀ (x0 : Hdr) (x1 : Nat), (Instr.queueShaperGet x0 x1 (2 ^ 64)).wf = false) ∧
    (∀ (x1 : Nat) (x2 : Nat) (x3 : Nat), (Instr.queueWeightSet badH x1 x2 x3).wf = false) ∧
    (∀ (x0 : Hdr) (x2 : Nat) (x3 : Nat), (Instr.queueWeightSet x0 (2 ^ 64) x2 x3).wf = false) ∧
    (∀ (x0 : Hdr) (x1 : Nat) (x3 : Nat), (Instr.queueWeightSet x0 x1 (2 ^ 64) x3).wf = false) ∧
    (∀ (x0 : Hdr) (x1 : Nat) (x2 : Nat), (Instr.queueWeightSet x0 x1 x2 (2 ^ 64)).wf = false) := by
  refine ⟨?_, ?_, ?_, ?_, ?_, ?_, ?_, ?_, ?_, ?_, ?_, ?_, ?_, ?_, ?_, ?_, ?_, ?_, ?_, ?_, ?_, ?_, ?_, ?_, ?_, ?_, ?_, ?_, ?_, ?_, ?_, ?_, ?_, ?_, ?_, ?_, ?_, ?_, ?_, ?_⟩ <;> intros <;> simp [Instr.wf, badH_wf]

/-- Each check of WellFormed refuses a term that breaks it, part 7. -/
theorem test_wf_7 :
    (∀ (x1 : Nat) (x2 : Bool) (x3 : Bool), (Instr.preemptSet badH x1 x2 x3).wf = false) ∧
    (∀ (x0 : Hdr) (x2 : Bool) (x3 : Bool), (Instr.preemptSet x0 (2 ^ 64) x2 x3).wf = false) ∧
    (∀ (x1 : Nat) (x2 : Nat), (Instr.preemptStatus badH x1 x2).wf = false) ∧
    (∀ (x0 : Hdr) (x2 : Nat), (Instr.preemptStatus x0 (2 ^ 64) x2).wf = false) ∧
    (∀ (x0 : Hdr) (x1 : Nat), (Instr.preemptStatus x0 x1 (2 ^ 64)).wf = false) ∧
    (∀ (x1 : W32) (x2 : Nat), (Instr.histConfig badH x1 x2).wf = false) ∧
    (∀ (x0 : Hdr) (x1 : W32), (Instr.histConfig x0 x1 (2 ^ 64)).wf = false) ∧
    (∀ (x1 : Nat) (x2 : Nat) (x3 : Bool), (Instr.histRead badH x1 x2 x3).wf = false) ∧
    (∀ (x0 : Hdr) (x2 : Nat) (x3 : Bool), (Instr.histRead x0 (2 ^ 64) x2 x3).wf = false) ∧
    (∀ (x0 : Hdr) (x1 : Nat) (x3 : Bool), (Instr.histRead x0 x1 (2 ^ 64) x3).wf = false) ∧
    (∀ (x1 : Nat), (Instr.apogeeRead badH x1).wf = false) ∧
    (∀ (x0 : Hdr), (Instr.apogeeRead x0 (2 ^ 64)).wf = false) ∧
    (∀ (x1 : Nat) (x2 : Bool), (Instr.queueCounters badH x1 x2).wf = false) ∧
    (∀ (x0 : Hdr) (x2 : Bool), (Instr.queueCounters x0 (2 ^ 64) x2).wf = false) ∧
    (∀ (x1 : Nat) (x2 : Nat), (Instr.bufStatus badH x1 x2).wf = false) ∧
    (∀ (x0 : Hdr) (x2 : Nat), (Instr.bufStatus x0 (2 ^ 64) x2).wf = false) ∧
    (∀ (x0 : Hdr) (x1 : Nat), (Instr.bufStatus x0 x1 (2 ^ 64)).wf = false) ∧
    (∀ (x1 : Bool) (x2 : Nat) (x3 : Bool), (Instr.bufCounters badH x1 x2 x3).wf = false) ∧
    (∀ (x0 : Hdr) (x1 : Bool) (x3 : Bool), (Instr.bufCounters x0 x1 (2 ^ 64) x3).wf = false) ∧
    (∀ (x1 : Nat) (x2 : Nat), (Instr.hbmStatus badH x1 x2).wf = false) ∧
    (∀ (x0 : Hdr) (x2 : Nat), (Instr.hbmStatus x0 (2 ^ 64) x2).wf = false) ∧
    (∀ (x0 : Hdr) (x1 : Nat), (Instr.hbmStatus x0 x1 (2 ^ 64)).wf = false) ∧
    (∀ (x1 : BitVec 256) (x2 : HbmOrder), (Instr.hbmOrderSet badH x1 x2).wf = false) ∧
    (∀ (x1 : Nat), (Instr.hbmFreezeRead badH x1).wf = false) ∧
    (∀ (x0 : Hdr), (Instr.hbmFreezeRead x0 (2 ^ 64)).wf = false) ∧
    (∀ (x1 : Nat), (Instr.retrainAndResume badH x1).wf = false) ∧
    (∀ (x0 : Hdr), (Instr.retrainAndResume x0 (2 ^ 64)).wf = false) ∧
    (∀ (x1 : Bool), (Instr.retrainDone (384) x1).wf = false) ∧
    (∀ (x1 : Nat), (Instr.retire badH x1).wf = false) ∧
    (∀ (x0 : Hdr), (Instr.retire x0 (2 ^ 64)).wf = false) ∧
    (∀ (x1 : Nat) (x2 : Nat) (x3 : Nat), (Instr.hbmEccRead badH x1 x2 x3).wf = false) ∧
    (∀ (x0 : Hdr) (x2 : Nat) (x3 : Nat), (Instr.hbmEccRead x0 (2 ^ 64) x2 x3).wf = false) ∧
    (∀ (x0 : Hdr) (x1 : Nat) (x3 : Nat), (Instr.hbmEccRead x0 x1 (2 ^ 64) x3).wf = false) ∧
    (∀ (x0 : Hdr) (x1 : Nat) (x2 : Nat), (Instr.hbmEccRead x0 x1 x2 (2 ^ 64)).wf = false) ∧
    (∀ (x1 : Nat), (Instr.hbmRdThreshSet badH x1).wf = false) ∧
    (∀ (x0 : Hdr), (Instr.hbmRdThreshSet x0 (2 ^ 64)).wf = false) ∧
    ((Instr.timeStatus badH).wf = false) ∧
    (∀ (x1 : List FreqSrc) (x2 : Nat) (x3 : Nat), (Instr.timeSrcSet badH x1 x2 x3).wf = false) ∧
    (∀ (x0 : Hdr) (x1 : List FreqSrc) (x3 : Nat), (Instr.timeSrcSet x0 x1 (2 ^ 64) x3).wf = false) ∧
    (∀ (x0 : Hdr) (x1 : List FreqSrc) (x2 : Nat), (Instr.timeSrcSet x0 x1 x2 (2 ^ 64)).wf = false) := by
  refine ⟨?_, ?_, ?_, ?_, ?_, ?_, ?_, ?_, ?_, ?_, ?_, ?_, ?_, ?_, ?_, ?_, ?_, ?_, ?_, ?_, ?_, ?_, ?_, ?_, ?_, ?_, ?_, ?_, ?_, ?_, ?_, ?_, ?_, ?_, ?_, ?_, ?_, ?_, ?_, ?_⟩ <;> intros <;> simp [Instr.wf, badH_wf]

/-- Each check of WellFormed refuses a term that breaks it, part 8. -/
theorem test_wf_8 :
    (∀ (x1 : Int), (Instr.timeSample badH x1).wf = false) ∧
    (∀ (x1 : Nat), (Instr.timeJumpSet badH x1).wf = false) ∧
    (∀ (x0 : Hdr), (Instr.timeJumpSet x0 (2 ^ 64)).wf = false) ∧
    (∀ (x1 : Option Int) (x2 : Nat), (Instr.timeAcceptStep badH x1 x2).wf = false) ∧
    (∀ (x0 : Hdr) (x1 : Option Int), (Instr.timeAcceptStep x0 x1 (2 ^ 64)).wf = false) ∧
    ((Instr.timeStepAbort badH).wf = false) ∧
    (∀ (x1 : Nat) (x2 : Nat) (x3 : Nat) (x4 : Nat) (x5 : Nat), (Instr.timeHoldoverSet badH x1 x2 x3 x4 x5).wf = false) ∧
    (∀ (x0 : Hdr) (x2 : Nat) (x3 : Nat) (x4 : Nat) (x5 : Nat), (Instr.timeHoldoverSet x0 (2 ^ 64) x2 x3 x4 x5).wf = false) ∧
    (∀ (x0 : Hdr) (x1 : Nat) (x3 : Nat) (x4 : Nat) (x5 : Nat), (Instr.timeHoldoverSet x0 x1 (2 ^ 64) x3 x4 x5).wf = false) ∧
    (∀ (x0 : Hdr) (x1 : Nat) (x2 : Nat) (x4 : Nat) (x5 : Nat), (Instr.timeHoldoverSet x0 x1 x2 (2 ^ 64) x4 x5).wf = false) ∧
    (∀ (x0 : Hdr) (x1 : Nat) (x2 : Nat) (x3 : Nat) (x5 : Nat), (Instr.timeHoldoverSet x0 x1 x2 x3 (2 ^ 64) x5).wf = false) ∧
    (∀ (x0 : Hdr) (x1 : Nat) (x2 : Nat) (x3 : Nat) (x4 : Nat), (Instr.timeHoldoverSet x0 x1 x2 x3 x4 (2 ^ 64)).wf = false) ∧
    (∀ (x1 : Nat) (x2 : List Byte) (x3 : Bool) (x4 : Nat) (x5 : Bool), (Instr.ptpTx badH x1 x2 x3 x4 x5).wf = false) ∧
    (∀ (x0 : Hdr) (x2 : List Byte) (x3 : Bool) (x4 : Nat) (x5 : Bool), (Instr.ptpTx x0 (2 ^ 64) x2 x3 x4 x5).wf = false) ∧
    (∀ (x0 : Hdr) (x1 : Nat) (x2 : List Byte) (x3 : Bool) (x5 : Bool), (Instr.ptpTx x0 x1 x2 x3 (2 ^ 64) x5).wf = false) ∧
    (∀ (x1 : Nat) (x2 : TioFn), (Instr.timeIoSet badH x1 x2).wf = false) ∧
    (∀ (x0 : Hdr) (x2 : TioFn), (Instr.timeIoSet x0 (2 ^ 64) x2).wf = false) ∧
    (∀ (x1 : Nat), (Instr.timeIoRelease badH x1).wf = false) ∧
    (∀ (x0 : Hdr), (Instr.timeIoRelease x0 (2 ^ 64)).wf = false) ∧
    (∀ (x1 : Nat), (Instr.timeIoRead badH x1).wf = false) ∧
    (∀ (x0 : Hdr), (Instr.timeIoRead x0 (2 ^ 64)).wf = false) ∧
    ((Instr.timeRead badH).wf = false) ∧
    (∀ (x1 : Nat) (x2 : SecPolicy), (Instr.macsecPortSet badH x1 x2).wf = false) ∧
    (∀ (x0 : Hdr) (x2 : SecPolicy), (Instr.macsecPortSet x0 (2 ^ 64) x2).wf = false) ∧
    (∀ (x1 : Nat) (x2 : Bool) (x3 : Nat), (Instr.macsecScAdd badH x1 x2 x3).wf = false) ∧
    (∀ (x0 : Hdr) (x2 : Bool) (x3 : Nat), (Instr.macsecScAdd x0 (2 ^ 64) x2 x3).wf = false) ∧
    (∀ (x0 : Hdr) (x1 : Nat) (x2 : Bool), (Instr.macsecScAdd x0 x1 x2 (2 ^ 64)).wf = false) ∧
    (∀ (x1 : Nat), (Instr.macsecScRemove badH x1).wf = false) ∧
    (∀ (x0 : Hdr), (Instr.macsecScRemove x0 (2 ^ 64)).wf = false) ∧
    (∀ (x1 : Nat) (x2 : Nat) (x3 : SaParams), (Instr.macsecSaInstall badH x1 x2 x3).wf = false) ∧
    (∀ (x0 : Hdr) (x2 : Nat) (x3 : SaParams), (Instr.macsecSaInstall x0 (2 ^ 64) x2 x3).wf = false) ∧
    (∀ (x0 : Hdr) (x1 : Nat) (x3 : SaParams), (Instr.macsecSaInstall x0 x1 (2 ^ 64) x3).wf = false) ∧
    (∀ (x1 : Nat) (x2 : Nat), (Instr.macsecSaSelect badH x1 x2).wf = false) ∧
    (∀ (x0 : Hdr) (x2 : Nat), (Instr.macsecSaSelect x0 (2 ^ 64) x2).wf = false) ∧
    (∀ (x0 : Hdr) (x1 : Nat), (Instr.macsecSaSelect x0 x1 (2 ^ 64)).wf = false) ∧
    (∀ (x1 : Nat) (x2 : Nat), (Instr.macsecSaRemove badH x1 x2).wf = false) ∧
    (∀ (x0 : Hdr) (x2 : Nat), (Instr.macsecSaRemove x0 (2 ^ 64) x2).wf = false) ∧
    (∀ (x0 : Hdr) (x1 : Nat), (Instr.macsecSaRemove x0 x1 (2 ^ 64)).wf = false) ∧
    (∀ (x1 : Nat) (x2 : Nat) (x3 : Nat), (Instr.macsecPnLimitsSet badH x1 x2 x3).wf = false) ∧
    (∀ (x0 : Hdr) (x2 : Nat) (x3 : Nat), (Instr.macsecPnLimitsSet x0 (2 ^ 64) x2 x3).wf = false) := by
  refine ⟨?_, ?_, ?_, ?_, ?_, ?_, ?_, ?_, ?_, ?_, ?_, ?_, ?_, ?_, ?_, ?_, ?_, ?_, ?_, ?_, ?_, ?_, ?_, ?_, ?_, ?_, ?_, ?_, ?_, ?_, ?_, ?_, ?_, ?_, ?_, ?_, ?_, ?_, ?_, ?_⟩ <;> intros <;> simp [Instr.wf, badH_wf]

/-- Each check of WellFormed refuses a term that breaks it, part 9. -/
theorem test_wf_9 :
    (∀ (x0 : Hdr) (x1 : Nat) (x3 : Nat), (Instr.macsecPnLimitsSet x0 x1 (2 ^ 64) x3).wf = false) ∧
    (∀ (x0 : Hdr) (x1 : Nat) (x2 : Nat), (Instr.macsecPnLimitsSet x0 x1 x2 (2 ^ 64)).wf = false) ∧
    (∀ (x1 : Nat), (Instr.macsecStatus badH x1).wf = false) ∧
    (∀ (x0 : Hdr), (Instr.macsecStatus x0 (2 ^ 64)).wf = false) ∧
    (∀ (x1 : Nat) (x2 : Bool), (Instr.macsecCounters badH x1 x2).wf = false) ∧
    (∀ (x0 : Hdr) (x2 : Bool), (Instr.macsecCounters x0 (2 ^ 64) x2).wf = false) ∧
    (∀ (x1 : Nat) (x2 : List Byte), (Instr.macsecUnctrlTx badH x1 x2).wf = false) ∧
    (∀ (x0 : Hdr) (x2 : List Byte), (Instr.macsecUnctrlTx x0 (2 ^ 64) x2).wf = false) ∧
    (∀ (x1 : Nat) (x2 : LaMode) (x3 : Bool) (x4 : List Byte) (x5 : BitVec 128), (Instr.laOpen badH x1 x2 x3 x4 x5).wf = false) ∧
    (∀ (x0 : Hdr) (x2 : LaMode) (x3 : Bool) (x4 : List Byte) (x5 : BitVec 128), (Instr.laOpen x0 (2 ^ 64) x2 x3 x4 x5).wf = false) ∧
    (∀ (x1 : Nat) (x2 : Bool) (x3 : List Byte), (Instr.laUpdate badH x1 x2 x3).wf = false) ∧
    (∀ (x0 : Hdr) (x2 : Bool) (x3 : List Byte), (Instr.laUpdate x0 (2 ^ 64) x2 x3).wf = false) ∧
    (∀ (x1 : Nat) (x2 : BitVec 128), (Instr.laFinal badH x1 x2).wf = false) ∧
    (∀ (x0 : Hdr) (x2 : BitVec 128), (Instr.laFinal x0 (2 ^ 64) x2).wf = false) ∧
    (∀ (x1 : Nat), (Instr.laSave badH x1).wf = false) ∧
    (∀ (x0 : Hdr), (Instr.laSave x0 (2 ^ 64)).wf = false) ∧
    (∀ (x1 : Nat) (x2 : List Byte), (Instr.laRestore badH x1 x2).wf = false) ∧
    (∀ (x0 : Hdr) (x2 : List Byte), (Instr.laRestore x0 (2 ^ 64) x2).wf = false) ∧
    (∀ (x1 : Nat), (Instr.laClose badH x1).wf = false) ∧
    (∀ (x0 : Hdr), (Instr.laClose x0 (2 ^ 64)).wf = false) ∧
    (∀ (x1 : WObj) (x2 : Nat) (x3 : Nat) (x4 : World), (Instr.worldAssign badH x1 x2 x3 x4).wf = false) ∧
    (∀ (x0 : Hdr) (x1 : WObj) (x3 : Nat) (x4 : World), (Instr.worldAssign x0 x1 (2 ^ 64) x3 x4).wf = false) ∧
    (∀ (x0 : Hdr) (x1 : WObj) (x2 : Nat) (x4 : World), (Instr.worldAssign x0 x1 x2 (2 ^ 64) x4).wf = false) ∧
    ((Instr.worldLock badH).wf = false) ∧
    (∀ (x1 : WObj) (x2 : Nat) (x3 : Nat), (Instr.worldStatus badH x1 x2 x3).wf = false) ∧
    (∀ (x0 : Hdr) (x1 : WObj) (x3 : Nat), (Instr.worldStatus x0 x1 (2 ^ 64) x3).wf = false) ∧
    (∀ (x0 : Hdr) (x1 : WObj) (x2 : Nat), (Instr.worldStatus x0 x1 x2 (2 ^ 64)).wf = false) ∧
    (∀ (x1 : Nat) (x2 : List Byte), (Instr.keyStoreWrite badH x1 x2).wf = false) ∧
    (∀ (x0 : Hdr) (x2 : List Byte), (Instr.keyStoreWrite x0 (2 ^ 64) x2).wf = false) ∧
    ((Instr.keyStoreZero badH).wf = false) ∧
    (∀ (x1 : Lifecycle) (x2 : LcAuth), (Instr.lifecycleSet badH x1 x2).wf = false) ∧
    (∀ (x1 : Nat) (x2 : Nat), (Instr.ownerKeyEnroll badH x1 x2).wf = false) ∧
    (∀ (x0 : Hdr) (x2 : Nat), (Instr.ownerKeyEnroll x0 (2 ^ 64) x2).wf = false) ∧
    (∀ (x0 : Hdr) (x1 : Nat), (Instr.ownerKeyEnroll x0 x1 (2 ^ 64)).wf = false) ∧
    (∀ (x1 : Nat), (Instr.ownerKeyRevoke badH x1).wf = false) ∧
    (∀ (x0 : Hdr), (Instr.ownerKeyRevoke x0 (2 ^ 64)).wf = false) ∧
    ((Instr.authChallenge badH).wf = false) ∧
    (∀ (x1 : DebugScope) (x2 : Token), (Instr.debugAuth badH x1 x2).wf = false) ∧
    (∀ (x1 : DebugScope), (Instr.debugRevoke badH x1).wf = false) ∧
    (∀ (x1 : List Byte), (Instr.moduleAttest badH x1).wf = false) := by
  refine ⟨?_, ?_, ?_, ?_, ?_, ?_, ?_, ?_, ?_, ?_, ?_, ?_, ?_, ?_, ?_, ?_, ?_, ?_, ?_, ?_, ?_, ?_, ?_, ?_, ?_, ?_, ?_, ?_, ?_, ?_, ?_, ?_, ?_, ?_, ?_, ?_, ?_, ?_, ?_, ?_⟩ <;> intros <;> simp [Instr.wf, badH_wf]

/-- Each check of WellFormed refuses a term that breaks it, part 10. -/
theorem test_wf_10 :
    (∀ (x1 : Bool) (x2 : FwImage), (Instr.fwImageWrite badH x1 x2).wf = false) ∧
    ((Instr.fwImageCommitSvn badH).wf = false) ∧
    (∀ (x1 : W32) (x2 : AgentImage), (Instr.agentImageLoad badH x1 x2).wf = false) ∧
    (∀ (x1 : Bool), (Instr.fwSwitch badH x1).wf = false) ∧
    (∀ (x1 : Nat), (Instr.agentStatus badH x1).wf = false) ∧
    (∀ (x0 : Hdr), (Instr.agentStatus x0 (2 ^ 64)).wf = false) ∧
    (∀ (x1 : Nat), (Instr.agentReset badH x1).wf = false) ∧
    (∀ (x0 : Hdr), (Instr.agentReset x0 (2 ^ 64)).wf = false) ∧
    ((Instr.agentResetDone (32)).wf = false) ∧
    (∀ (x1 : Nat) (x2 : Bool), (Instr.agentCounters badH x1 x2).wf = false) ∧
    (∀ (x0 : Hdr) (x2 : Bool), (Instr.agentCounters x0 (2 ^ 64) x2).wf = false) ∧
    (∀ (x1 : Nat) (x2 : Nat) (x3 : Nat) (x4 : Bool) (x5 : List W64), (Instr.taskCreate badH x1 x2 x3 x4 x5).wf = false) ∧
    (∀ (x0 : Hdr) (x2 : Nat) (x3 : Nat) (x4 : Bool) (x5 : List W64), (Instr.taskCreate x0 (2 ^ 64) x2 x3 x4 x5).wf = false) ∧
    (∀ (x0 : Hdr) (x1 : Nat) (x3 : Nat) (x4 : Bool) (x5 : List W64), (Instr.taskCreate x0 x1 (2 ^ 64) x3 x4 x5).wf = false) ∧
    (∀ (x0 : Hdr) (x1 : Nat) (x2 : Nat) (x4 : Bool) (x5 : List W64), (Instr.taskCreate x0 x1 x2 (2 ^ 64) x4 x5).wf = false) ∧
    (∀ (x1 : Nat) (x2 : Nat), (Instr.taskReady badH x1 x2).wf = false) ∧
    (∀ (x0 : Hdr) (x2 : Nat), (Instr.taskReady x0 (2 ^ 64) x2).wf = false) ∧
    (∀ (x0 : Hdr) (x1 : Nat), (Instr.taskReady x0 x1 (2 ^ 64)).wf = false) ∧
    (∀ (x1 : Nat) (x2 : Nat), (Instr.taskCancel badH x1 x2).wf = false) ∧
    (∀ (x0 : Hdr) (x2 : Nat), (Instr.taskCancel x0 (2 ^ 64) x2).wf = false) ∧
    (∀ (x0 : Hdr) (x1 : Nat), (Instr.taskCancel x0 x1 (2 ^ 64)).wf = false) ∧
    (∀ (x1 : Nat) (x2 : Nat), (Instr.taskRead badH x1 x2).wf = false) ∧
    (∀ (x0 : Hdr) (x2 : Nat), (Instr.taskRead x0 (2 ^ 64) x2).wf = false) ∧
    (∀ (x0 : Hdr) (x1 : Nat), (Instr.taskRead x0 x1 (2 ^ 64)).wf = false) ∧
    (∀ (x1 : Nat) (x2 : Nat), (Instr.taskFree badH x1 x2).wf = false) ∧
    (∀ (x0 : Hdr) (x2 : Nat), (Instr.taskFree x0 (2 ^ 64) x2).wf = false) ∧
    (∀ (x0 : Hdr) (x1 : Nat), (Instr.taskFree x0 x1 (2 ^ 64)).wf = false) ∧
    (∀ (x1 : Nat), (Instr.traceRead badH x1).wf = false) ∧
    (∀ (x0 : Hdr), (Instr.traceRead x0 (2 ^ 64)).wf = false) ∧
    (∀ (x1 : Nat) (x2 : Nat) (x3 : Nat) (x4 : Bool), (Instr.traceStream badH x1 x2 x3 x4).wf = false) ∧
    (∀ (x0 : Hdr) (x2 : Nat) (x3 : Nat) (x4 : Bool), (Instr.traceStream x0 (2 ^ 64) x2 x3 x4).wf = false) ∧
    (∀ (x0 : Hdr) (x1 : Nat) (x3 : Nat) (x4 : Bool), (Instr.traceStream x0 x1 (2 ^ 64) x3 x4).wf = false) ∧
    (∀ (x0 : Hdr) (x1 : Nat) (x2 : Nat) (x4 : Bool), (Instr.traceStream x0 x1 x2 (2 ^ 64) x4).wf = false) ∧
    (∀ (x1 : Nat) (x2 : Nat), (Instr.dbgHalt badH x1 x2).wf = false) ∧
    (∀ (x0 : Hdr) (x2 : Nat), (Instr.dbgHalt x0 (2 ^ 64) x2).wf = false) ∧
    (∀ (x0 : Hdr) (x1 : Nat), (Instr.dbgHalt x0 x1 (2 ^ 64)).wf = false) ∧
    (∀ (x1 : Nat) (x2 : Nat), (Instr.dbgResume badH x1 x2).wf = false) ∧
    (∀ (x0 : Hdr) (x2 : Nat), (Instr.dbgResume x0 (2 ^ 64) x2).wf = false) ∧
    (∀ (x0 : Hdr) (x1 : Nat), (Instr.dbgResume x0 x1 (2 ^ 64)).wf = false) ∧
    (∀ (x1 : Nat) (x2 : Nat), (Instr.dbgStep badH x1 x2).wf = false) := by
  refine ⟨?_, ?_, ?_, ?_, ?_, ?_, ?_, ?_, ?_, ?_, ?_, ?_, ?_, ?_, ?_, ?_, ?_, ?_, ?_, ?_, ?_, ?_, ?_, ?_, ?_, ?_, ?_, ?_, ?_, ?_, ?_, ?_, ?_, ?_, ?_, ?_, ?_, ?_, ?_, ?_⟩ <;> intros <;> simp [Instr.wf, badH_wf]

/-- Each check of WellFormed refuses a term that breaks it, part 11. -/
theorem test_wf_11 :
    (∀ (x0 : Hdr) (x2 : Nat), (Instr.dbgStep x0 (2 ^ 64) x2).wf = false) ∧
    (∀ (x0 : Hdr) (x1 : Nat), (Instr.dbgStep x0 x1 (2 ^ 64)).wf = false) ∧
    (∀ (x1 : Nat) (x2 : Nat), (Instr.dbgRead badH x1 x2).wf = false) ∧
    (∀ (x0 : Hdr) (x2 : Nat), (Instr.dbgRead x0 (2 ^ 64) x2).wf = false) ∧
    (∀ (x0 : Hdr) (x1 : Nat), (Instr.dbgRead x0 x1 (2 ^ 64)).wf = false) ∧
    (∀ (x1 : Nat) (x2 : Nat) (x3 : Nat) (x4 : BitVec 16) (x5 : List W64), (Instr.dbgWrite badH x1 x2 x3 x4 x5).wf = false) ∧
    (∀ (x0 : Hdr) (x2 : Nat) (x3 : Nat) (x4 : BitVec 16) (x5 : List W64), (Instr.dbgWrite x0 (2 ^ 64) x2 x3 x4 x5).wf = false) ∧
    (∀ (x0 : Hdr) (x1 : Nat) (x3 : Nat) (x4 : BitVec 16) (x5 : List W64), (Instr.dbgWrite x0 x1 (2 ^ 64) x3 x4 x5).wf = false) ∧
    (∀ (x0 : Hdr) (x1 : Nat) (x2 : Nat) (x4 : BitVec 16) (x5 : List W64), (Instr.dbgWrite x0 x1 x2 (2 ^ 64) x4 x5).wf = false) ∧
    (∀ (x1 : Nat) (x2 : Nat), (Instr.abortMessage badH x1 x2).wf = false) ∧
    (∀ (x0 : Hdr) (x2 : Nat), (Instr.abortMessage x0 (2 ^ 64) x2).wf = false) ∧
    (∀ (x0 : Hdr) (x1 : Nat), (Instr.abortMessage x0 x1 (2 ^ 64)).wf = false) ∧
    ((Instr.agentNop (32)).wf = false) ∧
    ((Instr.agentAlu (32)).wf = false) ∧
    ((Instr.agentMem (32)).wf = false) ∧
    ((Instr.agentSend (32)).wf = false) ∧
    ((Instr.agentRecv (32)).wf = false) ∧
    ((Instr.agentWait (32)).wf = false) ∧
    (∀ (x1 : Nat), (Instr.agentWaitEnd (32) x1).wf = false) ∧
    (∀ (x0 : Nat), (Instr.agentWaitEnd x0 (8)).wf = false) ∧
    ((Instr.agentTimer (32)).wf = false) ∧
    (∀ (x1 : Nat), (Instr.agentTimerFire (32) x1).wf = false) ∧
    (∀ (x0 : Nat), (Instr.agentTimerFire x0 (8)).wf = false) ∧
    ((Instr.agentTaskTake (32)).wf = false) ∧
    ((Instr.agentTaskDone (32)).wf = false) ∧
    ((Instr.agentTaskReady (32)).wf = false) ∧
    ((Instr.agentTaskCancel (32)).wf = false) ∧
    ((Instr.taskPrefetch (32)).wf = false) ∧
    ((Instr.agentTrap (32)).wf = false) ∧
    ((Instr.agentResume (32)).wf = false) ∧
    ((Instr.agentHbm (32)).wf = false) ∧
    ((Instr.agentRing (32)).wf = false) ∧
    ((Instr.agentFlag (32)).wf = false) ∧
    ((Instr.agentHaltWord (32)).wf = false) ∧
    ((Instr.agentDeadlock (32)).wf = false) ∧
    (∀ (x1 : Nat) (x2 : Bool), (Instr.agentUcodeScrub (32) x1 x2).wf = false) ∧
    (∀ (x0 : Nat) (x2 : Bool), (Instr.agentUcodeScrub x0 (8192) x2).wf = false) ∧
    ((Instr.traceStreamEntry (32)).wf = false) ∧
    (∀ (x1 : Nat) (x2 : List PmcSet) (x3 : Bool), (Instr.pmuConfig badH x1 x2 x3).wf = false) ∧
    (∀ (x0 : Hdr) (x2 : List PmcSet) (x3 : Bool), (Instr.pmuConfig x0 (2 ^ 64) x2 x3).wf = false) := by
  refine ⟨?_, ?_, ?_, ?_, ?_, ?_, ?_, ?_, ?_, ?_, ?_, ?_, ?_, ?_, ?_, ?_, ?_, ?_, ?_, ?_, ?_, ?_, ?_, ?_, ?_, ?_, ?_, ?_, ?_, ?_, ?_, ?_, ?_, ?_, ?_, ?_, ?_, ?_, ?_, ?_⟩ <;> intros <;> simp [Instr.wf, badH_wf]

/-- Each check of WellFormed refuses a term that breaks it, part 12. -/
theorem test_wf_12 :
    (∀ (x1 : BitVec 46) (x2 : Bool) (x3 : Bool), (Instr.pmuRead badH x1 x2 x3).wf = false) ∧
    (∀ (x1 : BitVec 46), (Instr.pmuSnapshot badH x1).wf = false) ∧
    (∀ (x1 : Bool), (Instr.pmuUserSet badH x1).wf = false) ∧
    ((Instr.logStatus badH).wf = false) ∧
    (∀ (x1 : LogClass) (x2 : Nat) (x3 : Nat), (Instr.logRead badH x1 x2 x3).wf = false) ∧
    (∀ (x0 : Hdr) (x1 : LogClass) (x3 : Nat), (Instr.logRead x0 x1 (2 ^ 64) x3).wf = false) ∧
    (∀ (x0 : Hdr) (x1 : LogClass) (x2 : Nat), (Instr.logRead x0 x1 x2 (2 ^ 64)).wf = false) ∧
    (∀ (x1 : List Byte), (Instr.logAnnotate badH x1).wf = false) ∧
    (∀ (x0 : Bool) (x2 : W32), (Instr.evcPendingWrite x0 (64) x2).wf = false) ∧
    (∀ (x0 : World), (Instr.commandDoorbell x0 (4294967296)).wf = false) ∧
    (∀ (x0 : World) (x1 : RingKind), (Instr.ringHeadWrite x0 x1 (4294967296)).wf = false) ∧
    (∀ (x0 : World) (x1 : RingKind) (x3 : Nat), (Instr.ringConfigWrite x0 x1 (18446744073709551616) x3).wf = false) ∧
    (∀ (x0 : World) (x1 : RingKind) (x2 : Nat), (Instr.ringConfigWrite x0 x1 x2 (4294967296)).wf = false) ∧
    (∀ (x0 : World) (x2 : Nat), (Instr.traceHeadWrite x0 (32) x2).wf = false) ∧
    (∀ (x0 : World) (x1 : Nat), (Instr.traceHeadWrite x0 x1 (4294967296)).wf = false) ∧
    (∀ (x0 : World) (x2 : W32), (Instr.registerWrite x0 (67108864) x2).wf = false) ∧
    ((Instr.cartInsert (16)).wf = false) ∧
    ((Instr.cartRemove (16)).wf = false) := by
  refine ⟨?_, ?_, ?_, ?_, ?_, ?_, ?_, ?_, ?_, ?_, ?_, ?_, ?_, ?_, ?_, ?_, ?_, ?_⟩ <;> intros <;> simp [Instr.wf, badH_wf]

/-- Data longer than a command can carry is refused. -/
theorem test_wf_lengths :
    (∀ f : InbandFrame, 9216 < f.payload.length → (Instr.inbandCommand f).wf = false) ∧
    (∀ (d : List Byte) (x0 : Hdr), 16384 < d.length → (Instr.qcpEcho x0 d).wf = false) ∧
    (∀ (d : List Byte) (x0 : Hdr), 16384 < d.length → (Instr.hashProbe x0 d).wf = false) ∧
    (∀ (d : List Byte) (x0 : Hdr) (x1 : Nat) (x3 : Bool) (x4 : Nat) (x5 : Bool), 16384 < d.length → (Instr.ptpTx x0 x1 d x3 x4 x5).wf = false) ∧
    (∀ (d : List Byte) (x0 : Hdr) (x1 : Nat), 16384 < d.length → (Instr.macsecUnctrlTx x0 x1 d).wf = false) ∧
    (∀ (d : List Byte) (x0 : Hdr) (x1 : Nat) (x2 : LaMode) (x3 : Bool) (x5 : BitVec 128), 16384 < d.length → (Instr.laOpen x0 x1 x2 x3 d x5).wf = false) ∧
    (∀ (d : List Byte) (x0 : Hdr) (x1 : Nat) (x2 : Bool), 2 ^ 32 ≤ d.length → (Instr.laUpdate x0 x1 x2 d).wf = false) ∧
    (∀ (d : List Byte) (x0 : Hdr) (x1 : Nat), 16384 < d.length → (Instr.laRestore x0 x1 d).wf = false) ∧
    (∀ (d : List Byte) (x0 : Hdr) (x1 : Nat), 16384 < d.length → (Instr.keyStoreWrite x0 x1 d).wf = false) ∧
    (∀ (d : List Byte) (x0 : Hdr), 16384 < d.length → (Instr.moduleAttest x0 d).wf = false) ∧
    (∀ (d : List Byte) (x0 : Hdr), 16384 < d.length → (Instr.logAnnotate x0 d).wf = false) := by
  refine ⟨?_, ?_, ?_, ?_, ?_, ?_, ?_, ?_, ?_, ?_, ?_⟩ <;> intros <;> simp only [Instr.wf, Bool.and_eq_false_iff, decide_eq_false_iff_not] <;> omega

/-! ### The hypotheses of the statements are met -/

/-- The hypotheses of EmptyQueuePassesOneCycle are met, clause by clause. -/
theorem wit_EmptyQueuePassesOneCycle :
    State.reset.pending = [] :=
  rfl

/-- The hypotheses of CommandsKeepQueueAndClock are met, clause by clause. -/
theorem wit_CommandsKeepQueueAndClock :
    ∃ t, exec (.agentNop 0) svc = .next t ∧ isBoundary (.agentNop 0) = false :=
  ⟨_, rfl, rfl⟩

/-- The hypotheses of StepKeepsGridWhole are met, clause by clause. -/
theorem wit_StepKeepsGridWhole :
    GridWhole State.reset ∧ ∃ t, step State.reset = .next t :=
  by unfold GridWhole; exact ⟨by decide, _, rfl⟩

/-- The hypotheses of BoundaryRowsComplete are met, clause by clause. -/
theorem wit_BoundaryRowsComplete :
    ∃ s : State, GridWhole s ∧ s.time.headway < 6249 :=
  ⟨State.reset, by unfold GridWhole; decide, by decide⟩

/-- The hypotheses of ChecksRefuseInOrder are met, clause by clause. -/
theorem wit_ChecksRefuseInOrder :
    (∃ s : State, protocolRuns s = false) ∧
    (∃ s : State, s.qcp.exec.any (isFetched { hS with ring := .inband } 0x0101) = false ∧ execLimit .inband ≤ inExec s
      .inband) ∧
    (∃ s : State, protocolRuns s = true ∧ ringWorld s .secure = some .secure ∧ (s.qcp.exec.any (isFetched hS 0x0101) = true ∨
      (inExec s .secure < execLimit .secure ∧ s.mmc.perst = false)) ∧ heldBack hS 0x0101 (atFetch ({ code := 0x0101 } : Op) hS
      s) = true) ∧
    (∃ s : State, examined ({ code := 0x0301, world := .secure } : Op) hN .nonSecure s = true ∧ worldOk .secure .nonSecure =
      false) ∧
    (∃ s : State, examined ({ code := 0x0301, world := .secure } : Op) hS .secure s = true ∧ worldOk .secure .secure = true ∧
      modeAllows (atFetch ({ code := 0x0301, world := .secure } : Op) hS s) ({ code := 0x0301, world := .secure } : Op) = false) ∧
    (∃ s : State, examined ({ code := 0x0925, world := .secure, lifeOk := false } : Op) hS .secure s = true ∧ worldOk .secure
      .secure = true ∧ modeAllows (atFetch ({ code := 0x0925, world := .secure, lifeOk := false } : Op) hS s)
      ({ code := 0x0925, world := .secure, lifeOk := false } : Op) = true) ∧
    (∃ s : State, ∃ h, examined ({ code := 0x0301, host := true } : Op) h .secure s = true ∧ modeAllows (atFetch
      ({ code := 0x0301, host := true } : Op) h s) ({ code := 0x0301, host := true } : Op) = true ∧ h.ring = .inband) ∧
    (∃ s : State, starts ({ code := 0x0101 } : Op) hS .secure s = true ∧ (∃ u, badParam 0x20 = .refuse .badParam u) ∧
      replyFits (atFetch ({ code := 0x0101 } : Op) hS s) .secure none [⟨"X", 4096, [0, 0, 0, 0]⟩] = false) ∧
    (∃ s : State, ∃ op : Op, s.mode.mode = .halt ∧ op.reads = false ∧ op.code ≠ 0x0113) :=
  ⟨⟨inMode .standby, by decide +kernel⟩,
    ⟨withExec (List.replicate 64 ⟨{ hS with ring := .inband }, 0x0102, .fetched, 0, 0, none⟩) svc, by decide +kernel⟩,
    ⟨withExec [⟨{ hS with seq := 5 }, 0x0102, .fetched, 0, 0, none⟩] svc, by decide +kernel⟩,
    ⟨svc, by decide +kernel⟩,
    ⟨inMode .halt, by decide +kernel⟩,
    ⟨svc, by decide +kernel⟩,
    ⟨bound svc, { hS with ring := .inband }, by decide +kernel⟩,
    ⟨svc, by decide +kernel, ⟨_, rfl⟩, by decide +kernel⟩,
    ⟨inMode .halt, { code := 1 }, rfl, rfl, by decide⟩⟩

/-- The hypotheses of TabletsFollowTable17_6 are met, clause by clause. -/
theorem wit_TabletsFollowTable17_6 :
    ∃ s : State, ∃ t, tabletConflict .tc [.timetable] s = some t :=
  ⟨withMode (fun m => { m with tablets := [⟨.timetable, .tc, 1, 2, 3, 4⟩] }) svc, ⟨.timetable, .tc, 1, 2, 3, 4⟩, by decide +kernel⟩

/-! ### TT_LOAD reads the bytes of an image -/

theorem ttFront_length : ttFront.length = 0x48 := by decide +kernel

theorem undigested_ttBytes : undigested ttBytes = ttCore := undigested_append _ _ _ ttFront_length (sha384_length _)

theorem ttDir_read : (records 16 16 (ttCore.drop 0x80)).map (readEntry img0.length ttCore) = img0.dir := by decide +kernel

theorem ttPort_read : span ttCore 0x18 48 = sha384 (Config.portBytes []) := by
  rw [← sha384_bytes (Config.portBytes [])]
  rfl

theorem ttBytes_length : ttBytes.length = img0.length := by
  have h : ttBack.length = 19448 := by decide +kernel
  simp only [ttBytes, List.length_append, ttFront_length, sha384_length, h]
  rfl

/-- `img0` with its digests. -/
def img1 : TtImage := { img0 with portDigest := portDigest [], digest := beNat (sha384 ttCore) }

/-- The bytes of `img0` are read as `img0`, with its digests. -/
theorem readImage_ttBytes : readImage ttBytes = img1 := by
  have hd : span ttBytes 0x48 48 = sha384 ttCore := span_digest _ _ _ ttFront_length (sha384_length _)
  have hn : num ttCore 0xC 4 = img0.length := by decide +kernel
  have h1 : num ttCore 0 4 = img0.magic := by decide +kernel
  have h2 : num ttCore 4 2 = img0.format := by decide +kernel
  have h3 : num ttCore 6 2 = img0.stepping := by decide +kernel
  have h4 : num ttCore 8 4 = img0.version := by decide +kernel
  have h5 : num ttCore 0x10 4 = img0.aggCount := by decide +kernel
  have h6 : num ttCore 0x14 2 = img0.variantCount := by decide +kernel
  have h7 : num ttCore 0x16 2 = img0.guardNs := by decide +kernel
  have h8 : clear ttCore 0x78 8 = true := by decide +kernel
  have hp : beNat (sha384 (Config.portBytes [])) = portDigest [] := rfl
  have hi : (img0.length == img0.length && decide (0x180 ≤ img0.length) && beNat (sha384 ttCore) == beNat (sha384 ttCore) && true) =
      img0.intact := by
    rw [beq_self_eq_true, beq_self_eq_true]
    decide +kernel
  simp only [readImage, undigested_ttBytes, hd, hn, h1, h2, h3, h4, h5, h6, h7, h8, ttBytes_length, ttPort_read, ttDir_read, hp, hi, img1]

/-- `svc` once TT_LOAD is fetched. -/
def svl : State := atFetch { code := 0x0301, world := .secure, host := true } hS svc

theorem matches_of {s : State} {i : TtImage} (hp : i.portDigest = portDigest (mapAhead s))
    (hc : (i.stepping == 0x00B0 && (calSections i).all (fun es => calMatches s es && es.all calPlaced)) = true) :
    matchesModule s i = true := by
  unfold matchesModule
  rwa [hp, beq_self_eq_true, Bool.and_true]

/-- TT_LOAD accepts the image on a module with no port. -/
theorem img1_accepted : imageRefusal svl img1 = none := by
  have m : matchesModule svl img1 = true := matches_of rfl (by decide +kernel)
  unfold imageRefusal
  rw [m]
  decide +kernel

/-- The image staged, its commit waiting and its boundary near. -/
def svr : State := nearOrbit { svt with tt := { svt.tt with staged := some img1, commit := some pcm } }

theorem svr_revalidates : revalidates (recountLost svr) pcm img1 = true := by
  have m : matchesModule (recountLost svr) img1 = true := matches_of rfl (by decide +kernel)
  unfold revalidates
  rw [m]
  decide +kernel

/-- The hypotheses of TimetableCommandsComplete are met, clause by clause. -/
theorem wit_TimetableCommandsComplete :
    (∃ h : Hdr, ∃ bytes : List Byte, ∃ img : TtImage, CanComplete (readImage bytes = img) h (fun _ => { code := 0x0301, world := .secure, host := true }) (fun s =>
      s.tt.commit = none ∧ imageRefusal s img = none) (fun _ => [fld "TT_VERSION" img.version])) ∧
    (∃ h : Hdr, ∃ version : Nat, ∃ target : Nat, ∃ n, ∃ i, CanDefer True h (fun s =>
      { code := 0x0302, world := .secure, modeOk := [Mode.boot, .calibrate, .service, .holdover].contains s.mode.mode, lifeOk := s.world.lifecycle != .returned })
      (fun s => s.tt.staged = some i ∧ i.version = version ∧ targetAhead s target = some n ∧ tabletConflict .tc (.timetable
      :: sliceDoms (agentsToReset s i)) s = none)) ∧
    (∃ h : Hdr, ∃ version : Nat, ∃ c, CanComplete True h (fun _ => { code := 0x0303, world := .secure }) (fun s =>
      s.tt.commit = some c ∧ c.version = version ∧ c.irrevocable = false ∧ cyclesToTarget s c.target > 80000) (fun _ => [])) ∧
    (∃ h : Hdr, CanComplete True h (fun _ => { code := 0x0304, reads := true }) (fun _ => True) (fun s => [fld "ACTIVE"
      ((s.tt.active.map (fun i => i.version)).getD 0), fld "STAGED" ((s.tt.staged.map (fun i => i.version)).getD 0), flds
      "VARIANT" s.tt.variant.toList, flag "ALIGN_INVALID" (!s.clock.alignValid), flds "PENDING_TARGET" (s.tt.commit.map (fun
      c => c.target)).toList, classDiag s])) ∧
    (∃ h : Hdr, ∃ first : Nat, ∃ count : Nat, CanComplete True h (fun _ => { code := 0x0305, reads := true }) (fun _ =>
      rangeOk first count 65536 = true) (fun s => ((s.tt.shed.drop first).take count).flatMap shedFlds)) ∧
    (∃ h : Hdr, ∃ first : Nat, ∃ count : Nat, CanComplete True h (fun _ => { code := 0x0306, reads := true }) (fun _ =>
      rangeOk first count 65536 = true) (fun s => (List.range count).map (fun i => flds "AGG" [ctr s .accepted (first + i)
      0, ctr s .demoted (first + i) 0, ctr s .refusedNc (first + i) 0, ctr s .lateAgg (first + i) 0]))) ∧
    (∃ c, ∃ i, ∃ s : State, s.tt.commit = some c ∧ c.irrevocable = false ∧ cyclesToTarget s c.target ≤ 80000 ∧ (recountLost
      s).tt.staged = some i ∧ revalidates (recountLost s) c i = true) :=
  ⟨⟨hS, ttBytes, img1, svc, .secure, readImage_ttBytes, by decide +kernel, ⟨by decide +kernel, img1_accepted⟩, by decide +kernel⟩,
    ⟨hS, 1, 1, 1, img0, svt, .secure, by decide +kernel⟩,
    ⟨hS, 1, pcm, { svt with tt := { svt.tt with commit := some pcm } }, .secure, by decide +kernel⟩,
    ⟨hS, svp, .secure, by decide +kernel⟩,
    ⟨hS, 0, 1, svp, .secure, by decide +kernel⟩,
    ⟨hS, 0, 1, svp, .secure, by decide +kernel⟩,
    ⟨pcm, img1, svr, rfl, rfl, by decide +kernel, rfl, svr_revalidates⟩⟩

/-- The hypotheses of ImagesAreRefusedByTheirBytes are met, clause by clause. -/
theorem wit_ImagesAreRefusedByTheirBytes :
    (∃ h : Hdr, CanDefer True h (fun _ => ttLoadOp) (fun s => s.tt.commit.isSome = true)) ∧
    (∃ h : Hdr, ∃ bytes : List Byte, ∃ s w st d, starts ttLoadOp h w s = true ∧ (atFetch ttLoadOp h s).tt.commit = none ∧
      imageRefusal (atFetch ttLoadOp h s) (readImage bytes) = some (st, d)) ∧
    (∃ bytes : List Byte, num bytes 0 4 ≠ 0x48545432 ∨ num bytes 4 2 ≠ 2 ∨ num bytes 0xC 4 ≠ bytes.length ∨ 268435456 < bytes.length ∨
      beNat (span bytes 0x48 48) ≠ beNat (sha384 (undigested bytes))) ∧
    (∃ s : State, ∃ bytes : List Byte, imageRefusal s (readImage bytes) = none ∧ ∃ es ∈ calSections (readImage bytes), ∃ e,
      es[383]? = some e) :=
  ⟨⟨hS, { svt with tt := { svt.tt with commit := some pcm } }, .secure, by decide +kernel⟩,
    ⟨hS, [], svc, .secure, .badParam, some (.param 0x20), by decide +kernel⟩,
    ⟨[0], by decide +kernel⟩,
    ⟨svl, ttBytes, by rw [readImage_ttBytes]; exact ⟨img1_accepted, List.replicate 384 calE, by decide +kernel, calE, by decide +kernel⟩⟩⟩

/-- The hypotheses of ClaimsTakeTheBestSource are met, clause by clause. -/
theorem wit_ClaimsTakeTheBestSource :
    (∃ s : State, ∃ sp, ∃ n, bestSrc s (evcEligible s sp) = some n ∧ (tget s.evc.stk sp []).length < 16) ∧
    (∃ s : State, ∃ n, n ∈ evcEligible s false) :=
  ⟨⟨evs svc, true, 2016, by decide +kernel⟩,
    ⟨evs svc, 1474, by decide +kernel⟩⟩

/-- The hypotheses of MeterChargesExactly are met, clause by clause. -/
theorem wit_MeterChargesExactly :
    (∃ s : State, ∃ m : MeterSt, m.credit ≤ imCap m.param ∧ m.upto < meterHw s ∧ (meterTake s 64 m).1 = true) ∧
    (∃ s : State, ∃ m : MeterSt, m.credit ≤ imCap m.param ∧ (meterTake s 9217 m).1 = false ∧ imByte m.param = true ∧ 1 ≤ (9217
      : Int) + imOverhead m.param) :=
  ⟨⟨{ svc with time := { svc.time with hwCount := 9 } }, ⟨BitVec.ofNat 64 (2 ^ 26 + 2 ^ 27 + 9216 * 2 ^ 39), 0, 0⟩, by decide +kernel⟩,
    ⟨svc, ⟨BitVec.ofNat 64 (2 ^ 53), 0, 0⟩, by decide +kernel⟩⟩

/-- The hypotheses of HashBlockIsSymmetric are met, clause by clause. -/
theorem wit_HashBlockIsSymmetric :
    ∃ a b p q a' b' p' q' : Nat, a ≤ b ∧ b < 2 ^ 128 ∧ p ≤ q ∧ q < 2 ^ 16 ∧ a' ≤ b' ∧ b' < 2 ^ 128 ∧ p' ≤ q' ∧ q' < 2 ^ 16 ∧
      hashBlock a b p q 6 0 = hashBlock a' b' p' q' 6 0 :=
  ⟨1, 2 ^ 128 - 1, 3, 65535, 1, 2 ^ 128 - 1, 3, 65535, by decide +kernel⟩

/-- The hypotheses of WriteBacksAddUp are met, clause by clause. -/
theorem wit_WriteBacksAddUp :
    (∃ r : FlowRec, ∃ ws : List WriteBack, r.pkts < 2 ^ 48 ∧ r.bytes < 2 ^ 64 ∧ ws.length < 2 ^ 48 ∧ (∀ w ∈ ws, w.user = none)
      ∧ (∀ w ∈ ws, w.ext = false)) ∧
    (∃ w : WriteBack, ∃ r : FlowRec, ∃ e, r.ext = some e ∧ w.ext = true) :=
  ⟨⟨{ rec0 with pkts := 2 ^ 48 - 1 }, [wb0, wb0], by decide, by decide, by decide, by decide, by decide⟩,
    ⟨{ wb0 with ext := true }, { rec0 with ext := some (⟨1, 2, false, false, 0, 0, 0, 0, 0, 0, 0, 0⟩ : FlowExt) }, (⟨1, 2, false, false, 0, 0, 0, 0, 0, 0, 0, 0⟩ : FlowExt), rfl, rfl⟩⟩

/-- The hypotheses of PlacementIsSound are met, clause by clause. -/
theorem wit_PlacementIsSound :
    (∃ rs, placeBlock (List.range 94) [⟨0, 0, 1, 2, 2⟩] = some rs) ∧
    (placeBlock (List.range 94) [⟨0, 0, 1, 2, 3⟩] = none) :=
  ⟨⟨(placeBlock (List.range 94) [⟨0, 0, 1, 2, 2⟩]).getD [], by decide +kernel⟩,
    (by decide +kernel)⟩

/-- The hypotheses of GrantsNeverCollide are met, clause by clause. -/
theorem wit_GrantsNeverCollide :
    ∃ s : State, (computeGrants s (reports s)).grants ≠ [] :=
  ⟨atNow 1 { svc with fab := { svc.fab with halted := (List.range 30).map (· + 2), voqE := [((0, 1), [⟨5, 0, true, true, 0, 0, 0⟩])] } }, by decide +kernel⟩

/-- The hypotheses of AgentMemoryHoldsWhatIsStored are met, clause by clause. -/
theorem wit_AgentMemoryHoldsWhatIsStored :
    (∃ m : List Host.Cell, Memory.wf m = true ∧ m ≠ []) ∧
    (∃ b : Nat, b ∉ wordAddrs 262143) :=
  ⟨⟨memWrite [] 262143 0xFFFFFFFFFFFFFFFF, by decide +kernel, by decide +kernel⟩,
    ⟨7, by decide⟩⟩

/-- The hypotheses of ProtocolRowsComplete are met, clause by clause. -/
theorem wit_ProtocolRowsComplete :
    (∃ h : Hdr, CanComplete True h (fun _ => { code := 0x0101, reads := true }) (fun _ => True) (fun s => identityRec s
      s.fresh)) ∧
    (∃ h : Hdr, ∃ data : List Byte, CanComplete True h (fun _ => { code := 0x0102, reads := true }) (fun _ => data.length ≤
      4064) (fun _ => [bytesFld "DATA" data])) ∧
    (∃ h : Hdr, ∃ seq : Nat, ∃ tag : Nat, ∃ e, CanComplete True h (fun _ => { code := 0x0103, reads := true }) (fun s =>
      s.qcp.exec.find? (fun e => e.hdr.ring == h.ring && e.hdr.seq == seq && e.hdr.tag == tag && !(e.hdr == h && e.opcode ==
      0x0103)) = some e ∧ e.st = .fetched) (fun _ => [])) ∧
    (∃ h : Hdr, ∃ port : Nat, ∃ world : World, ∃ channel : Nat, ∃ queue : Nat, ∃ ps, ∃ c, CanComplete True h (fun _ =>
      { code := 0x0104, world := .secure }) (fun s => portOf s port = some ps ∧ ps.pol.rxValidate = .strict ∧
      ps.pol.txProtect = .confidential ∧ 8250 ≤ ps.maxLen ∧ tfind s.sec.chans channel = some c ∧ c.port = port ∧ c.tx =
      false ∧ 4 ≤ queue ∧ queue ≤ 15) (fun _ => [])) ∧
    (∃ h : Hdr, ∃ port : Nat, ∃ world : World, ∃ b, CanComplete True h (fun _ => { code := 0x0104, world := .secure }) (fun
      s => s.qcp.inband = some b ∧ b.port = port) (fun _ => [])) ∧
    (∃ h : Hdr, ∃ w, CanComplete True h (fun _ => { code := 0x0105, reads := true }) (fun s => ringWorld s h.ring = some w)
      (fun s => [fld "COMMANDS" (ctr s .cmdsFetched (worldIx w) 0), fld "QCP_TIMEOUTS" (ctr s .qcpTimeouts (worldIx w) 0),
      fld "QCP_REPLY_STALL" (ctr s .qcpReplyStall (worldIx w) 0), fld "EXEC_NOW" (inExec s h.ring), fld "EXEC_MAX" (ctr s
      .execMax (worldIx w) 0), fld "TRAP_RING_DROP" (ctr s .trapRingDrop 0 0), fld "INBAND_REFUSED" (ctr s .inbandRefused 0
      0), fld "INBAND_OVERFLOW" (ctr s .inbandOverflow 0 0)])) ∧
    (∃ w : World, ∃ slot : List Byte, ∃ c, ∃ s : State, (c = rawOf (ringOfWorld w) slot) ∧ (mayFetch s w = true ∧
      firstSlotBad c (ringSize (ringOf s w .command)) = false ∧ headerCheck c (some (ringSize (ringOf s w .command))) = none
      ∧ slotsOf c.length ≤ ringHeld (ringOf s w .command))) ∧
    (∃ w : World, ∃ slot : List Byte, ∃ c, ∃ st, ∃ d, ∃ s : State, (c = rawOf (ringOfWorld w) slot) ∧ (mayFetch s w = true ∧
      firstSlotBad c (ringSize (ringOf s w .command)) = false ∧ headerCheck c (some (ringSize (ringOf s w .command))) = some
      (st, d) ∧ slotsOf c.length ≤ ringHeld (ringOf s w .command))) ∧
    (∃ ring : Ring, ∃ seq : Nat, ∃ tag : Nat, ∃ e, ∃ s : State, s.qcp.exec.find? (fun e => e.hdr.ring == ring && e.hdr.seq
      == seq && e.hdr.tag == tag && timedOut s e) = some e) ∧
    (∃ ring : Ring, ∃ seq : Nat, ∃ tag : Nat, ∃ e : ExecEnt, ∃ s : State, s.qcp.exec.find? (fun e => e.hdr.ring == ring &&
      e.hdr.seq == seq && e.hdr.tag == tag && timedOut s e) = some e) ∧
    (∃ w, ∃ r, ∃ rest, ∃ s : State, tget s.qcp.waiting (ringOfWorld w) [] = r :: rest ∧ slotsOf (replyBytes r.detail
      r.results) ≤ ringRoom (ringOf s w .reply)) ∧
    (∃ f : InbandFrame, ∃ b, ∃ s : State, s.qcp.inband = some b ∧ f.port = b.port ∧ ingressOpen s = true ∧ f.channel = some
      b.channel ∧ f.checksOk = true ∧ inbandHeaderOk f = true ∧ inExec s .inband < 64 ∧ headerCheck (inbandCmd f) none =
      none ∧ (inbandCmd f).indirect = false) :=
  ⟨⟨hS, svp, .secure, by decide +kernel⟩,
    ⟨hS, [], svp, .secure, by decide +kernel⟩,
    ⟨hS, 5, 9, ent 0, withExec [ent 0] svc, .secure, by decide +kernel⟩,
    ⟨hS, 0, .nonSecure, 256, 4, { prt with pol := ⟨.confidential, true, 0, .strict, 0⟩ }, rxc, secPort svc, .secure, by decide +kernel⟩,
    ⟨hS, 0, .nonSecure, bind0, bound svc, .secure, by decide +kernel⟩,
    ⟨hS, .secure, svp, .secure, by decide +kernel⟩,
    ⟨.secure, slt 0x01, rawOf .secure (slt 0x01), rings 1 svc, by decide +kernel⟩,
    ⟨.secure, slt 0xFF, rawOf .secure (slt 0xFF), .badOpcode, none, rings 1 svc, by decide +kernel⟩,
    ⟨.secure, 5, 9, ent 1, { withExec [ent 1] svc with time := { svc.time with now := 1600 } }, by decide +kernel⟩,
    ⟨.secure, 5, 9, ent 1, { withExec [ent 1] svc with time := { svc.time with now := 1600 } }, by decide +kernel⟩,
    ⟨.secure, rpl, [], { rings 0 svc with qcp := { (rings 0 svc).qcp with waiting := [(.secure, [rpl])] } }, by decide +kernel⟩,
    ⟨⟨0, some 0, true, 0, [1, 1, 0, 0, 0, 0, 0, 0] ++ slt 0x01⟩, bind0, bound svc, by decide +kernel⟩⟩

/-- The hypotheses of ModeRowsComplete are met, clause by clause. -/
theorem wit_ModeRowsComplete :
    (∃ h : Hdr, CanComplete True h (fun _ => { code := 0x0110, reads := true }) (fun _ => True) (fun s => ⟨"MODE_STATUS", 4,
      [withUndefined (modeWord (drawn s)) modeUndef s.fresh]⟩ :: [fld "MODE_DISCARD" (ctr s .drainModeDiscard 0 0), fld
      "DRAIN_DISCARD" (ctr s .drainDiscard 0 0)])) ∧
    (∃ h : Hdr, ∃ first : Domain, ∃ count : Nat, ∃ ds, CanComplete True h (fun _ => { code := 0x0112, reads := true }) (fun
      _ => domsFrom first count = some ds) (fun s => ds.map (fun d => flds "HOLDERS" ((s.mode.tablets.filter (fun t => t.dom
      == d)).flatMap (fun t => [actCode t.act, t.source, t.opcode, t.seq, t.tag]))))) ∧
    (∃ h : Hdr, ∃ s : State, ∃ w, starts
      { code := 0x0111, world := .secure, modeOk := s.mode.mode == .boot, lifeOk := lifePermits s.world.lifecycle .calibrate }
      h w s = true ∧ (atFetch { code := 0x0111 } h s).mode.zeroed = true) ∧
    (∃ h : Hdr, ∃ s : State, ∃ w, starts
      { code := 0x0111, world := .secure, modeOk := s.mode.mode == .calibrate, lifeOk := lifePermits s.world.lifecycle .service }
      h w s = true ∧ (atFetch { code := 0x0111 } h s).mode.mode = .calibrate ∧ (atFetch { code := 0x0111 } h s).mode.calib =
      none ∧ (atFetch { code := 0x0111 } h s).tt.active.isSome = true ∧ replyFits (atFetch { code := 0x0111 } h s) h.ring
      none [fld "ORBIT" (nextOrbit (atFetch { code := 0x0111 } h s))] = true) ∧
    (∃ h : Hdr, ∃ ms, ∃ s : State, ∃ w, starts
      { code := 0x0111, world := .secure, modeOk := reachable s .drain, lifeOk := lifePermits s.world.lifecycle .drain } h w
      s = true ∧ (((atFetch { code := 0x0111 } h s).mode.mode = .boot → (atFetch { code := 0x0111 } h s).mode.zeroed =
      true)) ∧ ms ≤ 60000) ∧
    (∃ h : Hdr, ∃ s : State, ∃ w, starts
      { code := 0x0111, world := .secure, modeOk := canHalt s, lifeOk := lifePermits s.world.lifecycle .halt } h w s = true
      ∧ (((atFetch { code := 0x0111 } h s).mode.mode = .boot → (atFetch { code := 0x0111 } h s).mode.zeroed = true)) ∧
      replyFits (atFetch { code := 0x0111 } h s) h.ring none [fld "ORBIT" (atFetch { code := 0x0111 } h s).time.orbit] =
      true) ∧
    (∃ h : Hdr, CanComplete True h (fun _ => { code := 0x0113, world := .secure }) (fun _ => True) (fun _ => [])) ∧
    (∃ h, ∃ s : State, s.mode.calib = some h) ∧
    (∃ s : State, s.mode.mode = .drain ∧ s.mode.phase = .hold ∧ s.mode.holdUntil ≤ orbitStart s) ∧
    (∃ s : State, s.mode.mode = .drain ∧ s.mode.phase = .emptying ∧ (s.mode.emptySeen = true ∨ s.mode.emptyAt +
      s.mode.emptyMax ≤ s.time.hwCount)) ∧
    (∃ s : State, s.mode.mode = .drain ∧ s.mode.drain = none ∧ s.mode.phase = .wipe) ∧
    (∃ s : State, s.mode.mode = .drain ∧ s.mode.drain = none ∧ s.mode.phase = .dark) ∧
    (∃ s : State, s.mode.phase = .powerOff) ∧
    (∃ k : Nat, ∃ s : State, k < 32 ∧ sliceHalted s k = false ∧ s.mode.mode ≠ .standby ∧ s.mode.mode ≠ .sanitize) ∧
    (∃ s : State, canHalt s = true) ∧
    (∃ s : State, s.mode.mode = .sanitize ∧ s.mode.phase ≠ .powerOff ∧ s.world.lifecycle ≠ .decommissioned ∧ s.mmc.resetLow
      = false) ∧
    (∃ s : State, s.mode.mode = .sanitize ∧ s.mode.phase ≠ .powerOff ∧ s.world.lifecycle ≠ .decommissioned ∧ s.mmc.resetLow
      = true) ∧
    (∃ s : State, s.mode.mode = .sanitize ∧ s.mode.phase ≠ .powerOff ∧ s.world.lifecycle = .decommissioned) ∧
    (∃ s : State, s.mode.mode = .sanitize ∧ s.mode.phase ≠ .powerOff) ∧
    (∃ s : State, s.mode.zeroed = false ∧ s.mode.mode ≠ .standby) :=
  ⟨⟨hS, svp, .secure, by decide +kernel⟩,
    ⟨hS, .slice 31, 1, [.slice 31], svp, .secure, by decide +kernel⟩,
    ⟨hS, booted, .secure, by decide +kernel⟩,
    ⟨hS, { inMode .calibrate with tt := { svc.tt with active := some img0 } }, .secure, by decide +kernel⟩,
    ⟨hS, 60000, svc, .secure, by decide +kernel⟩,
    ⟨hS, svc, .secure, by decide +kernel⟩,
    ⟨hS, svp, .secure, by decide +kernel⟩,
    ⟨hS, withMode (fun m => { m with calib := some hS }) (inMode .calibrate), by decide +kernel⟩,
    ⟨inDrain .hold, by decide +kernel⟩,
    ⟨withMode (fun m => { m with emptySeen := true }) (inDrain .emptying), by decide +kernel⟩,
    ⟨inDrain .wipe, by decide +kernel⟩,
    ⟨inDrain .dark, by decide +kernel⟩,
    ⟨withMode (fun m => { m with phase := .powerOff }) svc, by decide +kernel⟩,
    ⟨31, svp, by decide +kernel⟩,
    ⟨svp, by decide +kernel⟩,
    ⟨inMode .sanitize, by decide +kernel⟩,
    ⟨withMmc (fun m => { m with resetLow := true }) (inMode .sanitize), by decide +kernel⟩,
    ⟨{ inMode .sanitize with world := { svc.world with lifecycle := .decommissioned } }, by decide +kernel⟩,
    ⟨inMode .sanitize, by decide +kernel⟩,
    ⟨State.reset, by decide +kernel⟩⟩

/-- The hypotheses of PowerRowsComplete are met, clause by clause. -/
theorem wit_PowerRowsComplete :
    (∃ s : State, s.mmc.running = false) ∧
    (∃ s : State, s.mmc.running = true ∧ s.mmc.ready = false) ∧
    (∃ s : State, s.mmc.seated = false) ∧
    (∃ s : State, ∃ t, s.mmc.lowAt = some t ∧ t + 160000000 ≤ s.time.now) ∧
    (∃ s : State, ∀ t, s.mmc.lowAt = some t → s.time.now < t + 160000000) ∧
    (∃ s : State, s.mmc.softStart = true) ∧
    (∃ s : State, s.mmc.softStart = true) ∧
    (∃ s : State, s.mode.mode ≠ .standby ∧ s.mmc.resetLow = false) ∧
    (∃ s : State, s.mode.mode = .standby) ∧
    (∃ s : State, s.mmc.resetLow = true) ∧
    (∃ s : State, s.mode.mode = .sanitize ∧ s.mode.resetHeld = true) ∧
    (∃ s : State, ¬(s.mode.mode = .sanitize ∧ s.mode.resetHeld = true)) ∧
    (∃ s : State, s.mmc.running = true) ∧
    (∃ s : State, s.mmc.running = true) ∧
    (∃ s : State, s.mode.mode = .standby) ∧
    (∃ s : State, s.mmc.running = true) ∧
    (∃ s : State, s.mmc.running = true ∧ s.mode.mode = .standby ∧ s.mmc.pwrEn = true) ∧
    (∃ s : State, s.mmc.running = true) ∧
    (∃ s : State, s.mmc.running = true) ∧
    (∃ s : State, s.mmc.running = true) ∧
    (∃ s : State, s.mmc.holdUp = true) ∧
    (∃ s : State, s.mmc.holdUp = true) :=
  ⟨⟨withMmc (fun m => { m with running := false }) svc, by decide +kernel⟩,
    ⟨withMmc (fun m => { m with ready := false }) svc, by decide +kernel⟩,
    ⟨withMmc (fun m => { m with seated := false }) svc, by decide +kernel⟩,
    ⟨withMmc (fun m => { m with lowAt := some 0 }) (atNow 160000000 svc), 0, by decide +kernel⟩,
    ⟨svp, fun t h => nomatch (show (none : Option Nat) = some t from h)⟩,
    ⟨withMmc (fun m => { m with softStart := true }) svc, by decide +kernel⟩,
    ⟨withMmc (fun m => { m with softStart := true }) svc, by decide +kernel⟩,
    ⟨svp, by decide +kernel⟩,
    ⟨inMode .standby, by decide +kernel⟩,
    ⟨withMmc (fun m => { m with resetLow := true }) svc, by decide +kernel⟩,
    ⟨withMode (fun m => { m with resetHeld := true }) (inMode .sanitize), by decide +kernel⟩,
    ⟨svp, by decide +kernel⟩,
    ⟨svp, by decide +kernel⟩,
    ⟨svp, by decide +kernel⟩,
    ⟨inMode .standby, by decide +kernel⟩,
    ⟨svp, by decide +kernel⟩,
    ⟨inMode .standby, by decide +kernel⟩,
    ⟨svp, by decide +kernel⟩,
    ⟨svp, by decide +kernel⟩,
    ⟨svp, by decide +kernel⟩,
    ⟨withMmc (fun m => { m with holdUp := true }) svc, by decide +kernel⟩,
    ⟨withMmc (fun m => { m with holdUp := true }) svc, by decide +kernel⟩⟩

/-- The hypotheses of BusRowsComplete are met, clause by clause. -/
theorem wit_BusRowsComplete :
    (∃ s : State, s.mmc.ready = true) ∧
    (∃ s : State, s.mmc.ready = true) ∧
    (∃ s : State, s.mmc.ready = true) ∧
    (∃ s : State, s.mmc.ready = true) ∧
    (∃ cls : LogClass, ∃ index : Nat, ∃ r, ∃ s : State, s.mmc.ready = true ∧ (logRecords s cls)[index]? = some r) ∧
    (∃ data : List Byte, ∃ s : State, (data.length ≤ 240) ∧ (s.mmc.ready = true ∧ s.mmc.noImage = true)) ∧
    (∃ s : State, s.mmc.ready = true ∧ s.mmc.noImage = true) ∧
    (∃ s : State, s.mmc.ready = true) :=
  ⟨⟨svp, by decide +kernel⟩,
    ⟨svp, by decide +kernel⟩,
    ⟨svp, by decide +kernel⟩,
    ⟨svp, by decide +kernel⟩,
    ⟨.service, 0, ⟨.service, "", none, 0, []⟩, { svc with log := { svc.log with recs := [⟨.service, "", none, 0, []⟩] } }, by decide +kernel⟩,
    ⟨List.replicate 240 0, withMmc (fun m => { m with noImage := true }) svc, by decide +kernel⟩,
    ⟨withMmc (fun m => { m with noImage := true }) svc, by decide +kernel⟩,
    ⟨svp, by decide +kernel⟩⟩

/-- The hypotheses of RegisterRowsComplete are met, clause by clause. -/
theorem wit_RegisterRowsComplete :
    (∃ s : State, barOpen s = true) ∧
    (∃ s : State, barOpen s = true) ∧
    (∃ s : State, barOpen s = true) ∧
    (∃ s : State, barOpen s = true) ∧
    (∃ s : State, barOpen s = true) ∧
    (∃ s : State, barOpen s = true) ∧
    (∃ slice : Nat, ∃ s : State, barOpen s = true ∧ slice < 32) ∧
    (∃ s : State, barOpen s = true) ∧
    (∃ w : World, ∃ s : State, barOpen s = true ∧ ctr s .barAccessErr (worldIx w) 0 < 2 ^ 32 - 1) ∧
    (∃ w : World, ∃ s : State, barOpen s = true ∧ 2 ^ 32 - 1 ≤ ctr s .barAccessErr (worldIx w) 0) ∧
    (∃ s : State, barOpen s = true) :=
  ⟨⟨svp, by decide +kernel⟩,
    ⟨svp, by decide +kernel⟩,
    ⟨svp, by decide +kernel⟩,
    ⟨svp, by decide +kernel⟩,
    ⟨svp, by decide +kernel⟩,
    ⟨svp, by decide +kernel⟩,
    ⟨31, svp, by decide +kernel⟩,
    ⟨svp, by decide +kernel⟩,
    ⟨.secure, svp, by decide +kernel⟩,
    ⟨.secure, { svc with ctrs := [((.barAccessErr, 1, 0), 2 ^ 32 - 1)] }, by decide +kernel⟩,
    ⟨svp, by decide +kernel⟩⟩

/-- The hypotheses of EventControllerRowsComplete are met, clause by clause. -/
theorem wit_EventControllerRowsComplete :
    (∃ sp : Bool, ∃ n, ∃ s : State, (sp = true ∨ barOpen s = true) ∧ bestSrc (drawn s) (evcEligible (drawn s) sp) = some n ∧
      (tget s.evc.stk sp []).length < 16) ∧
    (∃ sp : Bool, ∃ s : State, (sp = true ∨ barOpen s = true) ∧ evcEligible (drawn s) sp = []) ∧
    (∃ sp : Bool, ∃ n, ∃ s : State, (sp = true ∨ barOpen s = true) ∧ bestSrc (drawn s) (evcEligible (drawn s) sp) = some n ∧
      16 ≤ (tget s.evc.stk sp []).length) ∧
    (∃ sp : Bool, ∃ s : State, sp = true ∨ barOpen s = true) ∧
    (∃ sp : Bool, ∃ s : State, sp = true ∨ barOpen s = true) ∧
    (∃ s : State, lineNow s = true ∧ s.evc.line = false ∧ s.evc.masked = false) ∧
    (∃ s : State, lineNow s = true ∧ s.evc.line = false ∧ s.evc.masked = true) :=
  ⟨⟨true, 2016, evs svc, by decide +kernel⟩,
    ⟨false, svp, by decide +kernel⟩,
    ⟨true, 2016, { evs svc with evc := { (evs svc).evc with stk := [(true, List.replicate 16 1)] } }, by decide +kernel⟩,
    ⟨true, evs svc, by decide +kernel⟩,
    ⟨false, svp, by decide +kernel⟩,
    ⟨{ evs svc with evc := { (evs svc).evc with masked := false } }, by decide +kernel⟩,
    ⟨evs svc, by decide +kernel⟩⟩

/-- The hypotheses of CounterAndLogRowsComplete are met, clause by clause. -/
theorem wit_CounterAndLogRowsComplete :
    (∃ h : Hdr, ∃ block : Nat, ∃ words : List PmcSet, CanComplete True h (fun s =>
      { code := 0x0B01, world := .owned (if block < 46 then some (worldOf s .counterBlock block) else none) }) (fun _ =>
      block < 46 ∧ words.any (fun x => decide (x.counter > 7)) = false ∧ words.find? (fun x => !wordValid block x.word) =
      none) (fun _ => [])) ∧
    (∃ h : Hdr, ∃ blocks : BitVec 46, ∃ snapshot : Bool, CanComplete True h (fun s =>
      { code := 0x0B02, world := blocksRule s h (bitsOf blocks), reads := true }) (fun s => (snapshot && (bitsOf blocks).any
      (fun b => (tfind s.pmu.snapAt b).isNone)) = false) (fun s => (bitsOf blocks).flatMap (fun b => [fld "CYCLE" (if
      snapshot then tget s.pmu.snapAt b 0 else s.time.now - s.pmu.base), flds "PMC" ((List.range 8).map (fun i => tget (if
      snapshot then s.pmu.snap else s.pmu.pmc) (b, i) 0)), flds "CONTROL" ((List.range 8).map (fun i => (tget s.pmu.ctl (b,
      i) 0).toNat))]))) ∧
    (∃ h : Hdr, ∃ blocks : BitVec 46, CanDefer True h (fun s => { code := 0x0B03, world := blocksRule s h (bitsOf blocks) })
      (fun _ => True)) ∧
    (∃ h : Hdr, CanComplete True h (fun _ => { code := 0x0B04, world := .secure }) (fun _ => True) (fun _ => [])) ∧
    (∃ h : Hdr, CanComplete True h (fun _ => { code := 0x0D01, reads := true }) (fun _ => True) (fun s => [fld "USED" (64 *
      (s.log.sums.length + s.log.recs.length)), fld "FREE" (2 ^ 29 - 64 * (s.log.sums.length + s.log.recs.length)), flds
      "RECORDS" (logClasses.map (fun c => (logRecords s c).length)), fld "OVERWRITTEN" (ctr s .logOverwritten 0 0), fld
      "LAST_COMMIT" s.log.commitAt, fld "WEAR" (Config.wear s.fresh)])) ∧
    (∃ h : Hdr, ∃ cls : LogClass, ∃ first : Nat, ∃ count : Nat, CanComplete True h (fun _ =>
      { code := 0x0D02, reads := true }) (fun _ => 1 ≤ count ∧ count ≤ 64) (fun s => (((logRecords s cls).drop first).take
      count).map (fun r => ⟨r.kind, 64, [recWord r]⟩) ++ [fld "NEXT_CURSOR" (first + (((logRecords s cls).drop first).take
      count).length)])) ∧
    (∃ h : Hdr, ∃ note : List Byte, ∃ w, CanComplete True h (fun _ => { code := 0x0D03 }) (fun s => ringWorld s h.ring =
      some w ∧ noteBusy s w = false ∧ 1 ≤ note.length ∧ note.length ≤ 32) (fun s => [fld "RECORD" (logRecords s
      .notes).length])) ∧
    (∃ s : State, s.time.tc / 65536 / 3600000000000 ≠ s.log.commitAt / 65536 / 3600000000000) :=
  ⟨⟨hN, 45, [⟨7, 0x701#64⟩], svp, .nonSecure, by decide +kernel⟩,
    ⟨hN, (2 ^ 45 : BitVec 46), true, { svc with pmu := { svc.pmu with snapAt := [(45, 0)] } }, .nonSecure, by decide +kernel⟩,
    ⟨hN, 1, svp, .nonSecure, by decide +kernel⟩,
    ⟨hS, svp, .secure, by decide +kernel⟩,
    ⟨hS, svp, .secure, by decide +kernel⟩,
    ⟨hS, .service, 0, 64, svp, .secure, by decide +kernel⟩,
    ⟨hS, List.replicate 32 65, .secure, svp, .secure, by decide +kernel⟩,
    ⟨{ svc with time := { svc.time with tc := 65536 * 3600000000000 } }, by decide +kernel⟩⟩

/-- The hypotheses of TimeRowsComplete are met, clause by clause. -/
theorem wit_TimeRowsComplete :
    (∃ h : Hdr, CanComplete True h (fun _ => { code := 0x0801, reads := true }) (fun _ => True) (fun s => [fld "SOURCE"
      (srcRank s.clock.source), flag "HOLDOVER" (s.mode.mode == .holdover), fld "OFFSET" (offsetNow s), flag "ALIGN_INVALID"
      (!s.clock.alignValid), flds "PERSIST_8X" ((s.clock.persist.map (fun p => [if p < 0 then 1 else 0, p.natAbs])).getD
      []), flds "STEP_TARGET" ((s.clock.step.map (fun p => p.target)).toList), fld "JUMP_REFUSED" (ctr s .jumpRefused 0 0),
      fld "CAPTURE_OVF" (ctr s .captureOvf 0 0)])) ∧
    (∃ h : Hdr, CanComplete True h (fun _ => { code := 0x080C, reads := true }) (fun _ => True) (fun s => [⟨"COUNTER", 12,
      [tcWord s.time.tc]⟩, fld "ORBIT" s.time.orbit, fld "HEADWAY" s.time.headway])) ∧
    (∃ h : Hdr, ∃ srcs : List FreqSrc, ∃ pa : Nat, ∃ pb : Nat, CanComplete True h (fun _ =>
      { code := 0x0802, world := .secure }) (fun s => (srcs.contains .synceA && (portOf s pa).isNone) = false ∧
      (srcs.contains .synceB && (portOf s pb).isNone) = false) (fun _ => [])) ∧
    (∃ h : Hdr, ∃ o : Int, CanComplete True h (fun s =>
      { code := 0x0803, world := .nonSecure, modeOk := s.mode.mode != .boot }) (fun s => o.natAbs ≤ s.clock.jt) (fun _ =>
      [flag "ACCEPTED" true])) ∧
    (∃ h : Hdr, ∃ o : Int, CanComplete True h (fun s =>
      { code := 0x0803, world := .nonSecure, modeOk := s.mode.mode != .boot }) (fun s => s.clock.jt < o.natAbs) (fun _ =>
      [flag "ACCEPTED" false])) ∧
    (∃ h : Hdr, ∃ jt : Nat, CanComplete True h (fun _ => { code := 0x0804, world := .secure }) (fun _ => 50 * 65536 ≤ jt ∧
      jt ≤ 1000000 * 65536) (fun _ => [])) ∧
    (∃ h : Hdr, ∃ delta : Option Int, ∃ target : Nat, ∃ d, ∃ n, CanDefer True h (fun s =>
      { code := 0x0805, world := .secure, modeOk := [Mode.boot, .calibrate, .service, .holdover].contains s.mode.mode })
      (fun s => stepAsked s delta = some d ∧ (roundStep d).1 ≠ 0 ∧ targetAhead s target = some n ∧ tabletConflict .ts
      [.timetable] s = none)) ∧
    (∃ h : Hdr, ∃ x, CanComplete True h (fun _ => { code := 0x0806, world := .secure }) (fun s => s.clock.step = some x ∧
      x.irrevocable = false ∧ 80000 < cyclesToTarget s x.target) (fun _ => [])) ∧
    (∃ h : Hdr, ∃ ms : Nat, CanComplete True h (fun _ => { code := 0x0807, world := .secure }) (fun _ => 125 ≤ ms ∧ ms ≤
      16000) (fun _ => [])) ∧
    (∃ h : Hdr, ∃ pin : Nat, ∃ fn : TioFn, CanComplete True h (fun s =>
      { code := 0x0809, world := .owned (pinWorld s pin) }) (fun s => pin < 4 ∧ tioOk s fn = true ∧ (pinNext s pin).holder =
      none) (fun _ => [])) ∧
    (∃ h : Hdr, ∃ pin : Nat, ∃ fn : TioFn, ∃ g, CanComplete True h (fun s =>
      { code := 0x0809, world := .owned (pinWorld s pin) }) (fun s => pin < 4 ∧ tioOk s fn = true ∧ (pinNext s pin).holder =
      some g ∧ g.ring = h.ring) (fun _ => [])) ∧
    (∃ h : Hdr, ∃ pin : Nat, ∃ g, CanComplete True h (fun s => { code := 0x080A, world := .owned (pinWorld s pin) }) (fun s
      => pin < 4 ∧ (pinNext s pin).holder = some g ∧ g.ring = h.ring) (fun _ => [])) ∧
    (∃ s : State, ∃ pin, ∃ x, (s.clock.pinsNx.map (fun e => e.1)).Nodup ∧ tfind s.clock.pinsNx pin = some x) ∧
    (∃ h : Hdr, ∃ pin : Nat, CanComplete True h (fun s =>
      { code := 0x080B, world := .owned (pinWorld s pin), reads := true }) (fun s => pin ≤ 4 ∧ (captures s pin true ||
      captures s pin false) = true) (fun s => [⟨"CAPTURES", 12, (pinOf s pin).captures.map tcWord⟩])) ∧
    (∃ s : State, holdoverDue s = true) ∧
    (∃ x, ∃ s : State, s.clock.step = some x ∧ cyclesToTarget s x.target ≤ 80000) ∧
    (∃ pin : Nat, ∃ per, ∃ ph, ∃ w, ∃ e, ∃ s : State, pin ≤ 5 ∧ periodOf s pin = some (per, ph, w) ∧ 0 < per ∧ droveNow s
      pin = false ∧ e < 8 ∧ periodDue s per ph = some e) ∧
    (∃ s : State, ∃ per, ∃ ph, ∃ e, 0 < per ∧ ph < per ∧ per % 5120 = 0 ∧ s.time.tc % 5120 = 0 ∧ ph % 5120 = 0 ∧ periodDue s
      per ph = some e) ∧
    (∃ pin : Nat, ∃ t, ∃ w, ∃ s : State, pin < 4 ∧ (pinOf s pin).fn = some (.oneShot t w) ∧ (pinOf s pin).fired = false ∧ t
      < s.time.tc + 40960 ∧ (pinOf s pin).skipped = false) ∧
    (∃ pin : Nat, ∃ t, ∃ w, ∃ s : State, pin < 4 ∧ (pinOf s pin).fn = some (.oneShot t w) ∧ (pinOf s pin).fired = false ∧ t
      < s.time.tc + 40960 ∧ (pinOf s pin).skipped = true) ∧
    (∃ pin : Nat, ∃ rising : Bool, ∃ eighth : Nat, ∃ s : State, pin ≤ 4 ∧ eighth ≤ 7 ∧ captures s pin rising = true ∧ (∀ l,
      (pinOf s pin).lastEdge = some l → l + 256 ≤ s.time.now * 8 + eighth) ∧ (pinOf s pin).captures.length < 16) :=
  ⟨⟨hS, svp, .secure, by decide +kernel⟩,
    ⟨hS, svp, .secure, by decide +kernel⟩,
    ⟨hS, [.synceA], 0, 0, svp, .secure, by decide +kernel⟩,
    ⟨hN, -65536000, svp, .nonSecure, by decide +kernel⟩,
    ⟨hN, 65536001, svp, .nonSecure, by decide +kernel⟩,
    ⟨hS, 3276800, svp, .secure, by decide +kernel⟩,
    ⟨hS, some 327680, 0, 2621440, 1, svp, .secure, by decide +kernel⟩,
    ⟨hS, stp 1, withClock (fun c => { c with step := some (stp 1) }) svc, .secure, by decide +kernel⟩,
    ⟨hS, 16000, svp, .secure, by decide +kernel⟩,
    ⟨hN, 3, .capture true false, svp, .nonSecure, by decide +kernel⟩,
    ⟨hN, 3, .periodic 65536000 0 0, hN, withPin 3 { PinSt.init with holder := some hN } svc, .nonSecure, by decide +kernel⟩,
    ⟨hN, 3, hN, withPin 3 { PinSt.init with holder := some hN } svc, .nonSecure, by decide +kernel⟩,
    ⟨withClock (fun c => { c with pinsNx := [(3, PinSt.init)] }) svc, 3, PinSt.init, by decide +kernel⟩,
    ⟨hN, 3, withPin 3 { PinSt.init with fn := some (.capture true false) } svc, .nonSecure, by decide +kernel⟩,
    ⟨{ svc with time := { svc.time with now := 1600000000 } }, by decide +kernel⟩,
    ⟨stp 1, nearOrbit (withClock (fun c => { c with step := some (stp 1) }) svc), by decide +kernel⟩,
    ⟨5, 65536000000000, 0, 6553600000, 0, svp, by decide +kernel⟩,
    ⟨svp, 65536000000000, 0, 0, by decide +kernel⟩,
    ⟨3, 5, 1, withPin 3 { PinSt.init with fn := some (.oneShot 5 1) } svc, by decide +kernel⟩,
    ⟨3, 5, 1, withPin 3 { PinSt.init with fn := some (.oneShot 5 1), skipped := true } svc, by decide +kernel⟩,
    ⟨4, true, 7, withPin 4 { PinSt.init with lastEdge := some 0 } { svc with time := { svc.time with now := 32 } }, ⟨by decide, by decide, by decide +kernel, fun l h => by cases h; decide, by decide +kernel⟩⟩⟩

/-- The hypotheses of PortRowsComplete are met, clause by clause. -/
theorem wit_PortRowsComplete :
    (∃ h : Hdr, ∃ m : List MapEnt, CanComplete True h (fun _ => { code := 0x0201, world := .nonSecure }) (fun s => mapFaults
      m = [] ∧ s.tt.active = none) (fun _ => [flag "STAGED" false])) ∧
    (∃ h : Hdr, ∃ m : List MapEnt, CanComplete True h (fun _ => { code := 0x0201, world := .nonSecure }) (fun s => mapFaults
      m = [] ∧ s.tt.active ≠ none) (fun _ => [flag "STAGED" true])) ∧
    (∃ h : Hdr, CanComplete True h (fun _ => { code := 0x0202 }) (fun _ => True) (fun s => mapFlds s.ports.map)) ∧
    (∃ h : Hdr, ∃ m, CanComplete True h (fun _ => { code := 0x0202 }) (fun s => s.ports.staged = some m) (fun _ => mapFlds
      m)) ∧
    (∃ h : Hdr, ∃ port : Nat, ∃ ps, CanComplete True h (fun _ => { code := 0x0203, world := .nonSecure }) (fun s => portOf s
      port = some ps) (fun _ => [])) ∧
    (∃ h : Hdr, ∃ port : Nat, ∃ ps, CanComplete True h (fun _ => { code := 0x0203, world := .nonSecure }) (fun s => portOf s
      port = some ps ∧ carries s port = none) (fun _ => [])) ∧
    (∃ h : Hdr, ∃ first : Nat, ∃ count : Nat, CanComplete True h (fun _ => { code := 0x0204, reads := true }) (fun _ =>
      rangeOk first count 1024 = true) (fun s => (s.ports.ports.filter (fun e => decide (first ≤ e.1) && decide (e.1 < first
      + count))).flatMap (fun e => [fld "PORT" e.1, flag "LINK" e.2.link, fld "CAUSE" (causeCode e.2.cause), fld "WIDTH"
      e.2.opWidth, fld "LANE" e.2.opLow, flag "HALVE" e.2.halve, flag "DEGRADE" e.2.degrade, flds "LOST" (lostLanes s e.1
      e.2.width)]))) ∧
    (∃ h : Hdr, ∃ port : Nat, CanComplete True h (fun _ => { code := 0x0205, reads := true }) (fun s => (portOf s
      port).isNone = false) (fun s => [flds "COUNTERS" (portCtrs.map (fun c => ctr s c port 0)), flds "CODEWORDS"
      ((List.range 17).map (fun b => ctr s .codewordHist port b))])) ∧
    (∃ h : Hdr, ∃ first : Nat, ∃ count : Nat, CanComplete True h (fun _ => { code := 0x0206, reads := true }) (fun _ =>
      rangeOk first count 1024 = true) (fun s => (List.range count).flatMap (fun i => [fld "ADAPTATION" (Config.adaptation
      (first + i) s.fresh), fld "BER" (laneOf s (first + i)).ber, fld "SYMBOL_ERRORS" (ctr s .symErrors (first + i) 0), flds
      "BURSTS" ((List.range 7).map (fun b => ctr s .burstHist (first + i) b))]))) ∧
    (∃ h : Hdr, ∃ lane : Nat, ∃ p, ∃ ps, CanDefer (lane < 1024) h (fun _ => { code := 0x0207, world := .nonSecure }) (fun s
      => tabletConflict .lr [.engine (lane / 16)] s = none ∧ portOfLane s lane = some (p, ps) ∧ carries s p = none)) ∧
    (∃ h : Hdr, ∃ lane : Nat, ∃ p, ∃ ps, CanDefer (lane < 1024) h (fun _ => { code := 0x0207, world := .nonSecure }) (fun s
      => tabletConflict .lr [.engine (lane / 16)] s = none ∧ portOfLane s lane = some (p, ps))) ∧
    (∃ h : Hdr, ∃ port : Nat, ∃ a : Nat, ∃ c : Nat, ∃ win : Nat, ∃ ps, CanComplete (10000 ≤ c ∧ c < a ∧ a ≤ 200000000 ∧ 1 ≤
      win ∧ win ≤ 1024) h (fun _ => { code := 0x0208, world := .nonSecure }) (fun s => portOf s port = some ps) (fun _ =>
      [])) ∧
    (∃ h : Hdr, ∃ c : Nat, CanDefer (c < 16) h (fun _ => { code := 0x0209, world := .nonSecure }) (fun s => tabletConflict
      .ch (pairDoms c) s = none ∧ cartBad s (partnerCart c) = false)) ∧
    (∃ h : Hdr, ∃ c : Nat, CanDefer (c < 16) h (fun _ => { code := 0x020A, world := .nonSecure }) (fun s => restoreBlock s c
      = none ∧ cartBad s (partnerCart c) = false ∧ (cartOf s c).present = true ∧ ((cartOf s c).handed || (cartOf s c).held)
      = true)) ∧
    (∃ h : Hdr, CanComplete True h (fun _ => { code := 0x020B, reads := true }) (fun _ => True) (fun s => (List.range
      16).flatMap (fun c => [flag "PRESENT" (cartOf s c).present, fld "SHARE" (cartOf s c).share, fld "BIAS" (Config.laser c
      0 s.fresh), fld "TEMPERATURE" (Config.laser c 1 s.fresh), flag "FAULT" (cartOf s c).fault]))) ∧
    (∃ p : Nat, ∃ ps, ∃ s : State, portOf s p = some ps ∧ ps.link = true) ∧
    (∃ p : Nat, ∃ ps, ∃ s : State, portOf s p = some ps ∧ ps.link = false ∧ operable s p ps = true) ∧
    (∃ l : Nat, ∃ s : State, l < 1024 ∧ (laneOf s l).lost = false) ∧
    (∃ l : Nat, ∃ h, ∃ s : State, s.ports.recals.find? (fun r => r.1 == l) = some (l, h)) ∧
    (∃ c : Nat, ∃ h, ∃ x, ∃ s : State, (cartOf s c).ramping = some (h, false, x)) ∧
    (∃ c : Nat, ∃ h, ∃ x, ∃ s : State, (cartOf s c).ramping = some (h, true, x)) ∧
    (∃ c : Nat, ∃ h, ∃ x, ∃ s : State, (cartOf s c).ramping = some (h, true, x)) ∧
    (∃ c : Nat, ∃ absent : Bool, ∃ s : State, c < 16 ∧ (cartOf s c).present = true ∧ (cartOf s c).handed = false ∧ ((cartOf
      s c).fault = false ∨ absent = true)) ∧
    (∃ c : Nat, ∃ s : State, c < 16 ∧ (cartOf s c).present = false) ∧
    (∃ c : Nat, ∃ s : State, c < 16 ∧ (cartOf s c).present = true ∧ (cartOf s c).handed = true) :=
  ⟨⟨hN, [⟨0, 1, 9216⟩], svp, .nonSecure, by decide +kernel⟩,
    ⟨hN, [⟨0, 1, 1518⟩], svg, .nonSecure, by decide +kernel⟩,
    ⟨hS, svp, .secure, by decide +kernel⟩,
    ⟨hS, [⟨0, 1, 1518⟩], withPorts (fun p => { p with staged := some [⟨0, 1, 1518⟩] }) svc, .secure, by decide +kernel⟩,
    ⟨hN, 0, prt, svp, .nonSecure, by decide +kernel⟩,
    ⟨hN, 0, prt, svp, .nonSecure, by decide +kernel⟩,
    ⟨hS, 0, 1, svp, .secure, by decide +kernel⟩,
    ⟨hS, 0, svp, .secure, by decide +kernel⟩,
    ⟨hS, 0, 1, svp, .secure, by decide +kernel⟩,
    ⟨hN, 0, 0, prt, svp, .nonSecure, by decide +kernel⟩,
    ⟨hN, 0, 0, prt, svg, .nonSecure, by decide +kernel⟩,
    ⟨hN, 0, 200000000, 10000, 1024, prt, svp, .nonSecure, by decide +kernel⟩,
    ⟨hN, 15, svp, .nonSecure, by decide +kernel⟩,
    ⟨hN, 15, setCart 15 { CartSt.init with handed := true } svc, .nonSecure, by decide +kernel⟩,
    ⟨hS, svp, .secure, by decide +kernel⟩,
    ⟨0, prt, svp, by decide +kernel⟩,
    ⟨0, { prt with link := false }, withPrt (fun p => { p with link := false }), by decide +kernel⟩,
    ⟨1023, svp, by decide +kernel⟩,
    ⟨3, hS, withPorts (fun p => { p with recals := [(3, hS)] }) svp, by decide +kernel⟩,
    ⟨15, hS, false, setCart 15 { CartSt.init with ramping := some (hS, false, false) } svc, by decide +kernel⟩,
    ⟨15, hS, false, setCart 15 { CartSt.init with ramping := some (hS, true, false) } svc, by decide +kernel⟩,
    ⟨15, hS, true, setCart 15 { CartSt.init with ramping := some (hS, true, true) } svc, by decide +kernel⟩,
    ⟨15, true, setCart 15 { CartSt.init with fault := true } svc, by decide +kernel⟩,
    ⟨15, setCart 15 { CartSt.init with present := false } svc, by decide +kernel⟩,
    ⟨15, setCart 15 { CartSt.init with handed := true } svc, by decide +kernel⟩⟩

/-- The hypotheses of VersionRowsComplete are met, clause by clause. -/
theorem wit_VersionRowsComplete :
    (∃ h : Hdr, CanComplete True h (fun _ => { code := 0x0401, world := .nonSecure }) (fun s => liveCount s < 4 ∧
      s.ver.opened = none ∧ s.ver.discard = none) (fun s => [fld "V" ((s.ver.current + 1) % 256)])) ∧
    (∃ h : Hdr, ∃ v : Nat, CanDefer True h (fun _ => { code := 0x0402, world := .nonSecure }) (fun s => isOpen s v = true ∧
      tabletConflict .rv (sliceDoms allSlices) s = none)) ∧
    (∃ h : Hdr, ∃ v : Nat, CanDefer True h (fun _ => { code := 0x0403, world := .nonSecure }) (fun s => (s.ver.opened ==
      some v && s.ver.commit.isSome) = false ∧ isOpen s v = true)) ∧
    (∃ v, ∃ h, ∃ s : State, s.ver.discard = some (v, h) ∧ clearWaits s (v % 4) = false) ∧
    (∃ h : Hdr, ∃ v : Nat, ∃ r, CanComplete True h (fun _ => { code := 0x0404, world := .nonSecure }) (fun s =>
      s.ver.retained.find? (fun r => r.v = v) = some r ∧ inflightOrbits (max r.maxHw (boundHw s)) * 6250 ≤ s.time.hwCount -
      r.stopped ∧ mcastWaiting s v = 0) (fun _ => [])) ∧
    (∃ h : Hdr, CanComplete True h (fun _ => { code := 0x0405, reads := true }) (fun _ => True) (fun s => [fld "CURRENT"
      s.ver.current, fld "CURRENT_ORBIT" s.ver.switched, flds "OPEN" s.ver.opened.toList, flag "COMMITTING"
      s.ver.commit.isSome, flds "RETAINED" (s.ver.retained.map (fun r => r.v)), flds "SWITCH_ORBITS" (s.ver.retained.map
      (fun r => r.switched)), fld "INFLIGHT_ORBITS" (inflightOrbits (boundHw s))])) ∧
    (∃ k : Nat, ∃ s : State, k < 32 ∧ slotReserved (lookupOnce s) = true ∧ slotsRun (lookupOnce s) k = 0) ∧
    (∃ k : Nat, ∃ s : State, k < 32 ∧ slotReserved (lookupOnce s) = true ∧ slotsRun (lookupOnce s) k = 1) ∧
    (∃ k : Nat, ∃ s : State, k < 32 ∧ slotReserved (lookupOnce s) = false ∧ slotsRun (lookupOnce s) k = 0) ∧
    (∃ k : Nat, ∃ s : State, (k < 32)) ∧
    (∃ k : Nat, ∃ s : State, (k < 32)) :=
  ⟨⟨hN, svp, .nonSecure, by decide +kernel⟩,
    ⟨hN, 1, opened svc, .nonSecure, by decide +kernel⟩,
    ⟨hN, 1, opened svc, .nonSecure, by decide +kernel⟩,
    ⟨1, hS, { svc with ver := { svc.ver with discard := some (1, hS) } }, by decide +kernel⟩,
    ⟨hN, 5, ⟨5, 0, 0, 0⟩, { svc with ver := { svc.ver with retained := [⟨5, 0, 0, 0⟩] }, time := { svc.time with hwCount := 6250 } }, .nonSecure, by decide +kernel⟩,
    ⟨hS, svp, .secure, by decide +kernel⟩,
    ⟨31, svp, by decide +kernel⟩,
    ⟨31, markSlot 31 svp, by decide +kernel⟩,
    ⟨31, atNow 1 svp, by decide +kernel⟩,
    ⟨0, svp, by decide +kernel⟩,
    ⟨0, svp, by decide +kernel⟩⟩

/-- The hypotheses of RuleAndRouteRowsComplete are met, clause by clause. -/
theorem wit_RuleAndRouteRowsComplete :
    (∃ h : Hdr, ∃ v : Nat, ∃ slices : W32, ∃ part : Nat, ∃ idx : Nat, ∃ wide : Bool, ∃ prio : Nat, ∃ action : Nat, ∃ value :
      BitVec 960, ∃ mask : BitVec 960, ∃ i, CanComplete True h (fun s =>
      { code := 0x0406, world := .owned (partWorld s part) }) (fun s => ruleCheck s v slices part idx wide prio action 4 =
      .inr i ∧ stepsFit s ((slicesOf slices).map (fun k => (k, ruleSteps v i wide prio action value mask))) = true ∧
      tabletConflict .rv (sliceDoms (slicesOf slices)) s = none) (fun _ => [fld "INDEX" i])) ∧
    (∃ h : Hdr, ∃ v : Nat, ∃ slices : W32, ∃ idx : Nat, CanComplete (slices ≠ 0 ∧ idx < 16384) h (fun s =>
      { code := 0x0407, world := .owned ((partOfIdx s idx).map (fun p => p.2)) }) (fun s => isOpen s v = true ∧ (slicesOf
      slices).any (fun k => (ruleAt s k v idx).isNone) = false ∧ stepsFit s ((slicesOf slices).map (fun k => (k, ruleDrop v
      idx ((ruleAt s k v idx).getD false)))) = true ∧ tabletConflict .rv (sliceDoms (slicesOf slices)) s = none) (fun _ =>
      [])) ∧
    (∃ h : Hdr, ∃ v : Nat, ∃ slices : W32, ∃ part : Nat, ∃ idx : Nat, ∃ old : Nat, ∃ wide : Bool, ∃ prio : Nat, ∃ action :
      Nat, ∃ value : BitVec 960, ∃ mask : BitVec 960, ∃ i, ∃ lo, ∃ hi, CanComplete True h (fun s =>
      { code := 0x0408, world := .owned (partWorld s part) }) (fun s => ruleCheck s v slices part idx wide prio action 5 =
      .inr i ∧ partRange s part = some (lo, hi) ∧ lo ≤ old ∧ old < hi ∧ (slicesOf slices).any (fun k => (ruleAt s k v
      old).isNone) = false ∧ stepsFit s ((slicesOf slices).map (fun k => (k, ruleSteps v i wide prio action value mask ++
      ruleDrop v old ((ruleAt s k v old).getD false)))) = true ∧ tabletConflict .rv (sliceDoms (slicesOf slices)) s = none)
      (fun _ => [fld "INDEX" i])) ∧
    (∃ h : Hdr, ∃ v : Nat, ∃ slice : Nat, ∃ part : Nat, CanDefer (slice < 32) h (fun s =>
      { code := 0x0409, world := .owned (partWorld s part) }) (fun s => isLive s v = true ∧ (partRange s part).isNone =
      false ∧ stepsFit s [(slice, [⟨.rule, 0, .search h true⟩])] = true)) ∧
    (∃ h : Hdr, ∃ v : Nat, ∃ slice : Nat, ∃ part : Nat, ∃ count : Nat, CanDefer (slice < 32 ∧ 1 ≤ count ∧ count ≤ 64) h (fun
      s => { code := 0x040A, world := .owned (partWorld s part) }) (fun s => isLive s v = true ∧ (partRange s part).isNone =
      false ∧ stepsFit s [(slice, List.replicate count ⟨.rule, 0, .search h true⟩)] = true)) ∧
    (∃ h : Hdr, ∃ slice : Nat, ∃ idx : Nat, ∃ val, ∃ msk, ∃ w, ∃ pr, ∃ a, CanComplete (slice < 32 ∧ idx < 16384) h (fun s =>
      { code := 0x040B, world := .owned ((partOfIdx s idx).map (fun p => p.2)), reads := true }) (fun s => (liveRow s slice
      .rule idx).body = .rule val msk w pr a) (fun s => [⟨"VALUE", 60, [val.toNat]⟩, ⟨"MASK", 60, [msk.toNat]⟩, fld
      "CONTROL" (ruleControl (liveRow s slice .rule idx) w pr a s.fresh)])) ∧
    (∃ h : Hdr, ∃ slice : Nat, ∃ idx : Nat, CanComplete (slice < 32 ∧ idx < 16384) h (fun s =>
      { code := 0x040B, world := .owned ((partOfIdx s idx).map (fun p => p.2)), reads := true }) (fun s => (liveRow s slice
      .rule idx).body = .empty) (fun s => [⟨"VALUE", 60, [0]⟩, ⟨"MASK", 60, [0]⟩, fld "CONTROL" (ruleControl (liveRow s
      slice .rule idx) false 0 0 s.fresh)])) ∧
    (∃ h : Hdr, ∃ parts : List (Nat × World), CanComplete True h (fun s =>
      { code := 0x040C, world := .secure, modeOk := s.mode.mode == .boot && !s.world.locked }) (fun _ => parts.isEmpty =
      false ∧ parts.length ≤ 16 ∧ partFault parts none 0 = none) (fun _ => [])) ∧
    (∃ h : Hdr, ∃ slice : Nat, CanComplete (slice < 32) h (fun _ => { code := 0x040D, reads := true }) (fun _ => True) (fun
      s => [fld "QUEUED" (stepsOf s slice).length, flds "STEPS" ((List.range 10).map (fun n => ctr s .stepsRun (slice * 16 +
      n) 0)), fld "UPDATE_STEAL" (ctr s .updateSteal slice 0), fld "ARRAY_CORRECTED" (ctr s .arrayCorrected slice 0), fld
      "ARRAY_REPAIRED" (ctr s .arrayRepaired slice 0), fld "UPDATE_BACKLOG_MAX" (ctr s .updateBacklogMax slice 0)])) ∧
    (∃ h : Hdr, ∃ slices : W32, CanComplete (slices ≠ 0) h (fun _ => { code := 0x040E, world := .nonSecure }) (fun _ =>
      True) (fun _ => [])) ∧
    (∃ h : Hdr, ∃ slices : W32, CanComplete (slices ≠ 0) h (fun _ => { code := 0x040E, world := .nonSecure }) (fun _ =>
      True) (fun _ => [])) ∧
    (∃ s : State, ∃ k0, ∃ p0, ∃ l, starts ({ code := 0x0501, world := .nonSecure } : Op) hN .nonSecure s = true ∧ prefixBad
      false (10#128 <<< 24) 8 = false ∧ isOpen (atFetch ({ code := 0x0501, world := .nonSecure } : Op) hN s) 1 = true ∧
      findRoute (atFetch ({ code := 0x0501, world := .nonSecure } : Op) hN s).arr.shadow 0 1 255 false (10#128 <<< 24) 8 =
      none ∧ planAll (fun k p => planAdd k 1 255 false (10#128 <<< 24) 8 3 p) (atFetch
      ({ code := 0x0501, world := .nonSecure } : Op) hN s) = some ((k0, p0) :: l) ∧ stepsFit (atFetch
      ({ code := 0x0501, world := .nonSecure } : Op) hN s) (((k0, p0) :: l).map (fun e => (e.1, e.2.steps))) = true ∧
      tabletConflict .rv (sliceDoms allSlices) (atFetch ({ code := 0x0501, world := .nonSecure } : Op) hN s) = none ∧
      replyFits (atFetch ({ code := 0x0501, world := .nonSecure } : Op) hN s) .nonSecure none [fld "STEPS" p0.steps.length,
      fld "MOVES" p0.moves, fld "UNITS" p0.units] = true) ∧
    (∃ s : State, ∃ k0, ∃ p0, ∃ l, starts ({ code := 0x0502, world := .nonSecure } : Op) hN .nonSecure s = true ∧ isOpen
      (atFetch ({ code := 0x0502, world := .nonSecure } : Op) hN s) 1 = true ∧ routePresent (atFetch
      ({ code := 0x0502, world := .nonSecure } : Op) hN s) 1 255 false (10#128 <<< 24) 8 = true ∧ planAll (fun k p =>
      planRemove k 1 255 false (10#128 <<< 24) 8 p) (atFetch ({ code := 0x0502, world := .nonSecure } : Op) hN s) = some
      ((k0, p0) :: l) ∧ stepsFit (atFetch ({ code := 0x0502, world := .nonSecure } : Op) hN s) (((k0, p0) :: l).map (fun e
      => (e.1, e.2.steps))) = true ∧ tabletConflict .rv (sliceDoms allSlices) (atFetch
      ({ code := 0x0502, world := .nonSecure } : Op) hN s) = none ∧ replyFits (atFetch
      ({ code := 0x0502, world := .nonSecure } : Op) hN s) .nonSecure none [fld "STEPS" p0.steps.length] = true) ∧
    (∃ s : State, ∃ k0, ∃ p0, ∃ l, starts ({ code := 0x0503, world := .nonSecure } : Op) hN .nonSecure s = true ∧ prefixBad
      false (10#128 <<< 24) 8 = false ∧ isOpen (atFetch ({ code := 0x0503, world := .nonSecure } : Op) hN s) 1 = true ∧
      routePresent (atFetch ({ code := 0x0503, world := .nonSecure } : Op) hN s) 1 255 false (10#128 <<< 24) 8 = true ∧
      planAll (fun k p => planChange k 1 255 false (10#128 <<< 24) 8 4 p) (atFetch ({ code := 0x0503, world := .nonSecure }
      : Op) hN s) = some ((k0, p0) :: l) ∧ stepsFit (atFetch ({ code := 0x0503, world := .nonSecure } : Op) hN s) (((k0, p0)
      :: l).map (fun e => (e.1, e.2.steps))) = true ∧ tabletConflict .rv (sliceDoms allSlices) (atFetch
      ({ code := 0x0503, world := .nonSecure } : Op) hN s) = none ∧ replyFits (atFetch
      ({ code := 0x0503, world := .nonSecure } : Op) hN s) .nonSecure none [fld "STEPS" p0.steps.length, fld "MOVES"
      p0.moves, fld "UNITS" p0.units] = true) ∧
    (∃ h : Hdr, ∃ v : Nat, ∃ k, ∃ rest, CanDefer True h (fun _ => { code := 0x0504 }) (fun s => isLive s v = true ∧
      liveSlices s = k :: rest ∧ stepsFit s [(k, [⟨.pivot, 0, .search h false⟩, ⟨.route, 0, .search h true⟩])] = true)) ∧
    (∃ h : Hdr, CanComplete True h (fun _ => { code := 0x0505, reads := true }) (fun _ => True) (fun s => [fld "UNITS"
      (unitsUsed s.arr.shadow 0), fld "PIVOTS" (pivotLens s.arr.shadow 0).length, fld "BUCKETS" (bucketsUsed s.arr.shadow
      0), fld "FREE_ROWS" (65536 - (pivotLens s.arr.shadow 0).length), fld "H" s.arr.hole, fld "MEAN_UNITS" (meanUnits
      (unitsUsed s.arr.shadow 0) (bucketsUsed s.arr.shadow 0) s.fresh), fld "ROUTE_FULL_REFUSED" (ctr s .routeFullRefused 0
      0)])) ∧
    (∃ h : Hdr, ∃ n : Nat, CanComplete (n = 16 ∨ n = 32 ∨ n = 64 ∨ n = 128 ∨ n = 256) h (fun _ =>
      { code := 0x0506, world := .nonSecure }) (fun _ => True) (fun _ => [])) :=
  ⟨⟨hN, 1, 0x80000000, 0, 16383, false, 0xFFFFF, 0x3FFFF, 0, 0, 16383, opened svc, .nonSecure, by decide +kernel⟩,
    ⟨hN, 1, 1, 16383, ruled (opened svc), .nonSecure, by decide +kernel⟩,
    ⟨hN, 1, 1, 0, 0, 16383, false, 0, 0, 0, 0, 0, 0, 16384, ruled (opened svc), .nonSecure, by decide +kernel⟩,
    ⟨hN, 0, 31, 0, svp, .nonSecure, by decide +kernel⟩,
    ⟨hN, 0, 31, 0, 64, svp, .nonSecure, by decide +kernel⟩,
    ⟨hN, 0, 16383, 7, 7, false, 5, 6, ruled svc, .nonSecure, by decide +kernel⟩,
    ⟨hN, 31, 16383, svp, .nonSecure, by decide +kernel⟩,
    ⟨hS, [(0, .nonSecure), (15360, .secure)], booted, .secure, by decide +kernel⟩,
    ⟨hS, 31, svp, .secure, by decide +kernel⟩,
    ⟨hN, 1, svp, .nonSecure, by decide +kernel⟩,
    ⟨hN, 1, svp, .nonSecure, by decide +kernel⟩,
    ⟨opened svc, (((planAll (fun k p => planAdd k 1 255 false (10#128 <<< 24) 8 3 p) (opened svc)).getD []).headD (0, ⟨[], [], 0, 0⟩)).1, (((planAll (fun k p => planAdd k 1 255 false (10#128 <<< 24) 8 3 p) (opened svc)).getD []).headD (0, ⟨[], [], 0, 0⟩)).2, ((planAll (fun k p => planAdd k 1 255 false (10#128 <<< 24) 8 3 p) (opened svc)).getD []).tail, by decide +kernel⟩,
    ⟨routed, (((planAll (fun k p => planRemove k 1 255 false (10#128 <<< 24) 8 p) (routed)).getD []).headD (0, ⟨[], [], 0, 0⟩)).1, (((planAll (fun k p => planRemove k 1 255 false (10#128 <<< 24) 8 p) (routed)).getD []).headD (0, ⟨[], [], 0, 0⟩)).2, ((planAll (fun k p => planRemove k 1 255 false (10#128 <<< 24) 8 p) (routed)).getD []).tail, by decide +kernel⟩,
    ⟨routed, (((planAll (fun k p => planChange k 1 255 false (10#128 <<< 24) 8 4 p) (routed)).getD []).headD (0, ⟨[], [], 0, 0⟩)).1, (((planAll (fun k p => planChange k 1 255 false (10#128 <<< 24) 8 4 p) (routed)).getD []).headD (0, ⟨[], [], 0, 0⟩)).2, ((planAll (fun k p => planChange k 1 255 false (10#128 <<< 24) 8 4 p) (routed)).getD []).tail, by decide +kernel⟩,
    ⟨hS, 0, 0, (List.range 31).map (· + 1), svp, .secure, by decide +kernel⟩,
    ⟨hS, svp, .secure, by decide +kernel⟩,
    ⟨hN, 256, svc, .nonSecure, by decide +kernel⟩⟩

/-- The hypotheses of TableRowsComplete are met, clause by clause. -/
theorem wit_TableRowsComplete :
    (∃ s : State, ∃ i : Nat, (262143 = 0xFFFFFFFF ∨ 262143 < tableSize .action) ∧ starts
      ({ code := 0x040F, world := .nonSecure } : Op) hN .nonSecure s = true ∧ isOpen (atFetch
      ({ code := 0x040F, world := .nonSecure } : Op) hN s) 1 = true ∧ List.isEmpty (slicesOf 0x80000000) = false ∧ tableIndex
      (atFetch ({ code := 0x040F, world := .nonSecure } : Op) hN s) (slicesOf 0x80000000) .action 262143 = some i ∧ List.all
      (slicesOf 0x80000000) (fun k => (shadowRow (atFetch ({ code := 0x040F, world := .nonSecure } : Op) hN s) k .action
      i).free) = true ∧ stepsFit (atFetch ({ code := 0x040F, world := .nonSecure } : Op) hN s) (List.map (fun k => (k,
      placeSteps .action i (.action 5) (planeBit 1))) (slicesOf 0x80000000)) = true ∧ tabletConflict .rv (sliceDoms (slicesOf
      0x80000000)) (atFetch ({ code := 0x040F, world := .nonSecure } : Op) hN s) = none ∧ replyFits (atFetch
      ({ code := 0x040F, world := .nonSecure } : Op) hN s) .nonSecure none [fld "INDEX" i] = true) ∧
    (∃ s : State, ∃ i : Nat, (0xFFFFFFFF = 0xFFFFFFFF ∨ 0xFFFFFFFF < tableSize .nextHop) ∧ starts
      ({ code := 0x0411, world := .nonSecure } : Op) hN .nonSecure s = true ∧ nextHopBad (atFetch
      ({ code := 0x0411, world := .nonSecure } : Op) hN s) 1 (slicesOf 0x80000000) ⟨0, false, 0, 0, 0, none⟩ = none ∧ isOpen
      (atFetch ({ code := 0x0411, world := .nonSecure } : Op) hN s) 1 = true ∧ List.isEmpty (slicesOf 0x80000000) = false ∧
      tableIndex (atFetch ({ code := 0x0411, world := .nonSecure } : Op) hN s) (slicesOf 0x80000000) .nextHop 0xFFFFFFFF = some
      i ∧ List.all (slicesOf 0x80000000) (fun k => (shadowRow (atFetch ({ code := 0x0411, world := .nonSecure } : Op) hN s) k
      .nextHop i).free) = true ∧ stepsFit (atFetch ({ code := 0x0411, world := .nonSecure } : Op) hN s) (List.map (fun k => (k,
      placeSteps .nextHop i (.nextHop ⟨0, false, 0, 0, 0, none⟩) (planeBit 1))) (slicesOf 0x80000000)) = true ∧ tabletConflict
      .rv (sliceDoms (slicesOf 0x80000000)) (atFetch ({ code := 0x0411, world := .nonSecure } : Op) hN s) = none ∧ replyFits
      (atFetch ({ code := 0x0411, world := .nonSecure } : Op) hN s) .nonSecure none [fld "INDEX" i] = true) ∧
    (∃ s : State, ∃ i : Nat, (0xFFFFFFFF = 0xFFFFFFFF ∨ 0xFFFFFFFF < tableSize .ecmp) ∧ starts
      ({ code := 0x0413, world := .nonSecure } : Op) hN .nonSecure s = true ∧ (slicesOf 0x80000000).all (fun k => decide
      (ecmpUsed (atFetch ({ code := 0x0413, world := .nonSecure } : Op) hN s) k + 256 ≤ 262144)) = true ∧ isOpen (atFetch
      ({ code := 0x0413, world := .nonSecure } : Op) hN s) 1 = true ∧ List.isEmpty (slicesOf 0x80000000) = false ∧ tableIndex
      (atFetch ({ code := 0x0413, world := .nonSecure } : Op) hN s) (slicesOf 0x80000000) .ecmp 0xFFFFFFFF = some i ∧ List.all
      (slicesOf 0x80000000) (fun k => (shadowRow (atFetch ({ code := 0x0413, world := .nonSecure } : Op) hN s) k .ecmp i).free)
      = true ∧ stepsFit (atFetch ({ code := 0x0413, world := .nonSecure } : Op) hN s) (List.map (fun k => (k, placeSteps .ecmp i
      (.ecmp (List.replicate 256 3)) (planeBit 1))) (slicesOf 0x80000000)) = true ∧ tabletConflict .rv (sliceDoms (slicesOf
      0x80000000)) (atFetch ({ code := 0x0413, world := .nonSecure } : Op) hN s) = none ∧ replyFits (atFetch
      ({ code := 0x0413, world := .nonSecure } : Op) hN s) .nonSecure none [fld "GROUP" i] = true) ∧
    (∃ s : State, ∃ i : Nat, (255 = 0xFFFFFFFF ∨ 255 < tableSize .lag) ∧ starts ({ code := 0x0415, world := .nonSecure } : Op)
      hN .nonSecure s = true ∧ (List.replicate 64 0).any (fun p => (portOf (atFetch ({ code := 0x0415, world := .nonSecure } :
      Op) hN s) p).isNone) = false ∧ isOpen (atFetch ({ code := 0x0415, world := .nonSecure } : Op) hN s) 1 = true ∧
      List.isEmpty allSlices = false ∧ tableIndex (atFetch ({ code := 0x0415, world := .nonSecure } : Op) hN s) allSlices .lag
      255 = some i ∧ List.all allSlices (fun k => (shadowRow (atFetch ({ code := 0x0415, world := .nonSecure } : Op) hN s) k
      .lag i).free) = true ∧ stepsFit (atFetch ({ code := 0x0415, world := .nonSecure } : Op) hN s) (List.map (fun k => (k,
      placeSteps .lag i (.lag (List.replicate 64 0)) (planeBit 1))) allSlices) = true ∧ tabletConflict .rv (sliceDoms allSlices)
      (atFetch ({ code := 0x0415, world := .nonSecure } : Op) hN s) = none ∧ replyFits (atFetch
      ({ code := 0x0415, world := .nonSecure } : Op) hN s) .nonSecure none [] = true) ∧
    (∃ s : State, 3 < tableSize .action ∧ starts ({ code := 0x0410, world := .nonSecure } : Op) hN .nonSecure s = true ∧
      isOpen (atFetch ({ code := 0x0410, world := .nonSecure } : Op) hN s) 1 = true ∧ List.isEmpty (slicesOf 1) = false ∧
      List.any (slicesOf 1) (fun k => !(shadowRow (atFetch ({ code := 0x0410, world := .nonSecure } : Op) hN s) k .action 3).inV
      1) = false ∧ stepsFit (atFetch ({ code := 0x0410, world := .nonSecure } : Op) hN s) (List.map (fun k => (k, [⟨.action, 3,
      .planeClear (1 % 4)⟩])) (slicesOf 1)) = true ∧ tabletConflict .rv (sliceDoms (slicesOf 1)) (atFetch
      ({ code := 0x0410, world := .nonSecure } : Op) hN s) = none ∧ replyFits (atFetch ({ code := 0x0410, world := .nonSecure }
      : Op) hN s) .nonSecure none [] = true) ∧
    (∃ s : State, 3 < tableSize .nextHop ∧ starts ({ code := 0x0412, world := .nonSecure } : Op) hN .nonSecure s = true ∧
      isOpen (atFetch ({ code := 0x0412, world := .nonSecure } : Op) hN s) 1 = true ∧ List.isEmpty (slicesOf 1) = false ∧
      List.any (slicesOf 1) (fun k => !(shadowRow (atFetch ({ code := 0x0412, world := .nonSecure } : Op) hN s) k .nextHop
      3).inV 1) = false ∧ stepsFit (atFetch ({ code := 0x0412, world := .nonSecure } : Op) hN s) (List.map (fun k => (k,
      [⟨.nextHop, 3, .planeClear (1 % 4)⟩])) (slicesOf 1)) = true ∧ tabletConflict .rv (sliceDoms (slicesOf 1)) (atFetch
      ({ code := 0x0412, world := .nonSecure } : Op) hN s) = none ∧ replyFits (atFetch ({ code := 0x0412, world := .nonSecure }
      : Op) hN s) .nonSecure none [] = true) ∧
    (∃ s : State, 3 < tableSize .ecmp ∧ starts ({ code := 0x0414, world := .nonSecure } : Op) hN .nonSecure s = true ∧ isOpen
      (atFetch ({ code := 0x0414, world := .nonSecure } : Op) hN s) 1 = true ∧ List.isEmpty (slicesOf 1) = false ∧ List.any
      (slicesOf 1) (fun k => !(shadowRow (atFetch ({ code := 0x0414, world := .nonSecure } : Op) hN s) k .ecmp 3).inV 1) = false
      ∧ stepsFit (atFetch ({ code := 0x0414, world := .nonSecure } : Op) hN s) (List.map (fun k => (k, [⟨.ecmp, 3, .planeClear
      (1 % 4)⟩])) (slicesOf 1)) = true ∧ tabletConflict .rv (sliceDoms (slicesOf 1)) (atFetch
      ({ code := 0x0414, world := .nonSecure } : Op) hN s) = none ∧ replyFits (atFetch ({ code := 0x0414, world := .nonSecure }
      : Op) hN s) .nonSecure none [] = true) ∧
    (∃ s : State, 3 < tableSize .lag ∧ starts ({ code := 0x0416, world := .nonSecure } : Op) hN .nonSecure s = true ∧ isOpen
      (atFetch ({ code := 0x0416, world := .nonSecure } : Op) hN s) 1 = true ∧ List.isEmpty allSlices = false ∧ List.any
      allSlices (fun k => !(shadowRow (atFetch ({ code := 0x0416, world := .nonSecure } : Op) hN s) k .lag 3).inV 1) = false ∧
      stepsFit (atFetch ({ code := 0x0416, world := .nonSecure } : Op) hN s) (List.map (fun k => (k, [⟨.lag, 3, .planeClear (1 %
      4)⟩])) allSlices) = true ∧ tabletConflict .rv (sliceDoms allSlices) (atFetch ({ code := 0x0416, world := .nonSecure } :
      Op) hN s) = none ∧ replyFits (atFetch ({ code := 0x0416, world := .nonSecure } : Op) hN s) .nonSecure none [] = true) ∧
    (∃ h, ∃ v, ∃ group, ∃ dests, ∃ r, ∃ s : State, ∃ w, group < 65536 ∧ dests.length ≤ 1024 ∧ starts
      ({ code := 0x0418, world := .nonSecure } : Op) h w s = true ∧ (isOpen (atFetch ({ code := 0x0418, world := .nonSecure } :
      Op) h s) v = true ∧ dests.any (fun d => (portOf (atFetch ({ code := 0x0418, world := .nonSecure } : Op) h s) d.1).isNone)
      = false ∧ mcastRow (atFetch ({ code := 0x0418, world := .nonSecure } : Op) h s).arr.shadow 0 v group = none ∧ mcastFree
      (atFetch ({ code := 0x0418, world := .nonSecure } : Op) h s) group = some r ∧ allSlices.any (fun k => decide (mcastUsed
      (atFetch ({ code := 0x0418, world := .nonSecure } : Op) h s) k + (destsOn dests k).length > 262144)) = false ∧ stepsFit
      (atFetch ({ code := 0x0418, world := .nonSecure } : Op) h s) (mcastPlan v r dests (mcastIndex (atFetch
      ({ code := 0x0418, world := .nonSecure } : Op) h s))) = true ∧ tabletConflict .rv (sliceDoms allSlices) (atFetch
      ({ code := 0x0418, world := .nonSecure } : Op) h s) = none) ∧ replyFits (atFetch ({ code := 0x0418, world := .nonSecure }
      : Op) h s) h.ring none ([fld "LIST" (mcastIndex (atFetch ({ code := 0x0418, world := .nonSecure } : Op) h s))]) = true) ∧
    (∃ h : Hdr, ∃ v : Nat, ∃ group : Nat, ∃ r, ∃ e, ∃ s : State, ∃ w, starts ({ code := 0x0419, world := .nonSecure } : Op) h
      w s = true ∧ (isOpen (atFetch ({ code := 0x0419, world := .nonSecure } : Op) h s) v = true ∧ mcastRow (atFetch
      ({ code := 0x0419, world := .nonSecure } : Op) h s).arr.shadow 0 v group = some (r, e) ∧ stepsFit (atFetch
      ({ code := 0x0419, world := .nonSecure } : Op) h s) (allSlices.map (fun k => (k, [⟨.mcast, r, .planeClear (v % 4)⟩]))) =
      true ∧ tabletConflict .rv (sliceDoms allSlices) (atFetch ({ code := 0x0419, world := .nonSecure } : Op) h s) = none) ∧
      replyFits (atFetch ({ code := 0x0419, world := .nonSecure } : Op) h s) h.ring none ([]) = true) ∧
    (∃ h : Hdr, ∃ slice : Nat, ∃ s : State, ∃ w, slice < 32 ∧ starts ({ code := 0x0417, reads := true } : Op) h w s = true ∧
      replyFits (atFetch ({ code := 0x0417, reads := true } : Op) h s) h.ring none ([flds "EXC" ((List.range 15).map (fun c =>
      ctr (atFetch ({ code := 0x0417, reads := true } : Op) h s) .exc slice (c + 1))), fld "TRAP_DISCARD" (ctr (atFetch
      ({ code := 0x0417, reads := true } : Op) h s) .trapDiscard slice 0), fld "UCODE_CORRECTED" (ctr (atFetch
      ({ code := 0x0417, reads := true } : Op) h s) .ucodeCorrected slice 0)]) = true) ∧
    (∃ h : Hdr, ∃ slice : Nat, ∃ s : State, ∃ w, slice < 32 ∧ starts ({ code := 0x0B11, reads := true } : Op) h w s = true ∧
      replyFits (atFetch ({ code := 0x0B11, reads := true } : Op) h s) h.ring none (fabricFlds (atFetch
      ({ code := 0x0B11, reads := true } : Op) h s) slice) = true) ∧
    (∃ h : Hdr, ∃ slice : Nat, ∃ block : Nat, ∃ s : State, ∃ w, slice < 32 ∧ starts ({ code := 0x0B12, reads := true } : Op) h
      w s = true ∧ ((atFetch ({ code := 0x0B12, reads := true } : Op) h s).tt.active.isSome = true ∧ block < 8 * (atFetch
      ({ code := 0x0B12, reads := true } : Op) h s).tt.period) ∧ replyFits (atFetch ({ code := 0x0B12, reads := true } : Op) h
      s) h.ring none (statusFlds (atFetch ({ code := 0x0B12, reads := true } : Op) h s) slice block) = true) :=
  ⟨⟨opened svc, 262143, by decide +kernel⟩,
    ⟨opened svp, 0, by decide +kernel⟩,
    ⟨opened svc, 0, by decide +kernel⟩,
    ⟨opened svp, 255, by decide +kernel⟩,
    ⟨tabled .action, by decide +kernel⟩,
    ⟨tabled .nextHop, by decide +kernel⟩,
    ⟨tabled .ecmp, by decide +kernel⟩,
    ⟨tabled .lag, by decide +kernel⟩,
    ⟨hN, 1, 65535, [(0, 4095)], 262140, opened svp, .nonSecure, by decide +kernel⟩,
    ⟨hN, 1, 0, 3, ⟨true, 15, .mcast 0 [] 3⟩, tabled .mcast, .nonSecure, by decide +kernel⟩,
    ⟨hS, 31, svp, .secure, by decide +kernel⟩,
    ⟨hS, 31, svp, .secure, by decide +kernel⟩,
    ⟨hS, 31, 7, { svc with tt := { svc.tt with active := some img0 } }, .secure, by decide +kernel⟩⟩

/-- The hypotheses of FrontEndRowsComplete are met, clause by clause. -/
theorem wit_FrontEndRowsComplete :
    (∃ f : RxFrame, ∃ ps, ∃ s : State, portOf s f.port = some ps ∧ ps.link = true ∧ admitting (countFec f (countRx f ps s))
      = true ∧ 64 ≤ f.len ∧ inbandFrame (countFec f (countRx f ps s)) f.port f.bytes = false) ∧
    (∃ f : RxFrame, ∃ ps, ∃ s : State, portOf s f.port = some ps ∧ ps.link = true ∧ admitting (countFec f (countRx f ps s))
      = true ∧ 64 ≤ f.len ∧ inbandFrame (countFec f (countRx f ps s)) f.port f.bytes = true) ∧
    (∃ f : RxFrame, ∃ ps, ∃ s : State, portOf s f.port = some ps ∧ ps.link = true ∧ admitting (countFec f (countRx f ps s))
      = true ∧ f.len < 64) ∧
    (∃ f : RxFrame, ∃ ps, ∃ s : State, portOf s f.port = some ps ∧ ps.link = true ∧ admitting (countFec f (countRx f ps s))
      = false ∧ (countFec f (countRx f ps s)).mode.mode ≠ .drain) ∧
    (∃ f : RxFrame, ∃ ps, ∃ s : State, portOf s f.port = some ps ∧ ps.link = true ∧ admitting (countFec f (countRx f ps s))
      = false ∧ (countFec f (countRx f ps s)).mode.mode = .drain) ∧
    (∃ fid : Nat, ∃ f, ∃ s : State, frameOf s fid = some f ∧ inLookup f = true ∧ decisionDue s f = true) ∧
    (∃ fid : Nat, ∃ f, ∃ s : State, frameOf s fid = some f ∧ inLookup f = true ∧ decisionDue s f = false) ∧
    (∃ fid, ∃ f, ∃ t, frameOf t fid = some f ∧ decisionDue t f = true ∧ sliceHalted t (f.port / 32) = true) ∧
    (∃ fid, ∃ f, ∃ t, frameOf t fid = some f ∧ decisionDue t f = true ∧ sliceHalted t (f.port / 32) = false) ∧
    (∃ fid : Nat, ∃ f, ∃ s : State, frameOf s fid = some f ∧ inLookup f = true ∧ f.act.reading = true ∧ s.time.now = f.ref +
      352) ∧
    (∃ fid : Nat, ∃ f, ∃ s : State, frameOf s fid = some f ∧ f.tailKnown = false ∧ f.orig = none ∧ s.time.now = tailCycle s
      f) ∧
    (∃ h : Hdr, ∃ port : Nat, ∃ ps, CanComplete True h (fun _ => { code := 0x020C, world := .nonSecure }) (fun s => portOf s
      port = some ps) (fun _ => [])) ∧
    (∃ h : Hdr, ∃ port : Nat, CanComplete True h (fun _ => { code := 0x0B10, reads := true }) (fun s => (portOf s
      port).isSome = true) (fun s => [flds "COUNTERS" (parseCtrs.map (fun c => ctr s c port 0))])) ∧
    (∃ h : Hdr, CanComplete True h (fun s =>
      { code := 0x0905, world := .secure, modeOk := s.mode.mode == .boot && !s.tt.committed }) (fun _ => True) (fun _ =>
      [])) ∧
    (∃ h : Hdr, ∃ block : List Byte, CanComplete (block.length = 40) h (fun _ => { code := 0x0906, world := .secure }) (fun
      _ => True) (fun s => [⟨"HASH", 4, [(hash32 (saltOf s) block).toNat]⟩])) :=
  ⟨⟨frm, prt, withTt svp, by decide +kernel⟩,
    ⟨frmB, prt, withTt (bound svp), by decide +kernel⟩,
    ⟨{ frm with len := 63 }, prt, withTt svp, by decide +kernel⟩,
    ⟨frm, prt, svp, by decide +kernel⟩,
    ⟨frm, prt, withTt { svp with mode := { svp.mode with mode := .drain, phase := .emptying } }, by decide +kernel⟩,
    ⟨0, fr0, atNow 36 (withFrame fr0 svp), by decide +kernel⟩,
    ⟨0, fr0, withFrame fr0 svp, by decide +kernel⟩,
    ⟨0, fr0, atNow 36 (withFrame fr0 { svp with fab := { svp.fab with halted := [0] } }), by decide +kernel⟩,
    ⟨0, fr0, atNow 36 (withFrame fr0 svp), by decide +kernel⟩,
    ⟨0, { fr0 with act := { fr0.act with reading := true } }, atNow 352 (withFrame { fr0 with act := { fr0.act with reading := true } } svp), by decide +kernel⟩,
    ⟨0, fr0, atNow (tailCycle (withFrame fr0 svp) fr0) (withFrame fr0 svp), by decide +kernel⟩,
    ⟨hN, 0, prt, svp, .nonSecure, by decide +kernel⟩,
    ⟨hS, 0, svp, .secure, by decide +kernel⟩,
    ⟨hS, booted, .secure, by decide +kernel⟩,
    ⟨hS, List.replicate 40 0, svp, .secure, by decide +kernel⟩⟩

/-- The hypotheses of FlowRowsComplete are met, clause by clause. -/
theorem wit_FlowRowsComplete :
    (∃ slice : Nat, ∃ key, ∃ i, ∃ p, ∃ r, ∃ t, ∃ s : State, takeMsg slice isAnswer s = some (.answer key i p, t) ∧ recAt t i
      = some r ∧ recKey r = key) ∧
    (∃ slice : Nat, ∃ key, ∃ i, ∃ p, ∃ t, ∃ s : State, takeMsg slice isAnswer s = some (.answer key i p, t) ∧ recAt t i =
      none) ∧
    (∃ slice : Nat, ∃ key, ∃ i, ∃ p, ∃ r, ∃ t, ∃ s : State, takeMsg slice isAnswer s = some (.answer key i p, t) ∧ recAt t i
      = some r ∧ recKey r ≠ key) ∧
    (∃ slice : Nat, ∃ key, ∃ i, ∃ asker, ∃ akey, ∃ r, ∃ t, ∃ s : State, takeMsg slice isAge s = some (.age key i asker akey,
      t) ∧ recAt t i = some r ∧ recKey r = key ∧ idle t (withPending t i r) = true) ∧
    (∃ slice : Nat, ∃ key, ∃ i, ∃ asker, ∃ akey, ∃ r, ∃ t, ∃ s : State, takeMsg slice isAge s = some (.age key i asker akey,
      t) ∧ recAt t i = some r ∧ recKey r = key ∧ idle t (withPending t i r) = false) ∧
    (∃ slice : Nat, ∃ key, ∃ i, ∃ t, ∃ s : State, takeMsg slice isDelete s = some (.delete key i, t)) ∧
    (∃ slice : Nat, ∃ s : State, (slice < 32) ∧ (agentDown s slice = false ∧ sweepDue slice s = true)) ∧
    (∃ fid : Nat, ∃ w, ∃ s : State, s.flow.wbs.find? (fun w => w.fid = fid) = some w) ∧
    (∃ port : Nat, ∃ f, ∃ s : State, s.flow.flushes.find? (fun f => f.port == port && f.left.isEmpty) = some f) ∧
    (∃ h : Hdr, ∃ domain : Nat, ∃ key : BitVec 304, ∃ i, ∃ r, CanComplete True h (fun _ =>
      { code := 0x0601, world := .nonSecure }) (fun s => (recsOf s (homeOf (hashOfKey s key))).find? (fun e => recKey e.2 ==
      ⟨domain, key⟩ && standsOnDie s e.1) = some (i, r)) (fun s => [idxFld i, recFld (withPending s i r) s.fresh])) ∧
    (∃ h : Hdr, ∃ domain : Nat, ∃ key : BitVec 304, CanDefer True h (fun _ => { code := 0x0601, world := .nonSecure }) (fun
      s => (recsOf s (homeOf (hashOfKey s key))).find? (fun e => recKey e.2 == ⟨domain, key⟩ && standsOnDie s e.1) = none ∧
      secureHas s (homeOf (hashOfKey s key)) ⟨domain, key⟩ = false ∧ (storedPlaces s (homeOf (hashOfKey s key))).any (fun p
      => p / 2 == bucketOf (hashOfKey s key) s.flow.b) = true)) ∧
    (∃ h : Hdr, ∃ cursor : BitVec 32, ∃ value : BitVec 356, ∃ mask : BitVec 356, ∃ count : Nat, ∃ found, ∃ read, ∃ next,
      CanComplete (1 ≤ count ∧ count ≤ 64) h (fun _ => { code := 0x0602, world := .nonSecure }) (fun s => (cursor =
      0xFFFFFFFF ∨ idxOk s cursor = true) ∧ cursorSecure s cursor = false ∧ walkOn s (fun _ => false) value mask (walkRest s
      cursor) count [] [] = (found, read, next, true)) (fun s => (nextFlds found next s).1)) ∧
    (∃ h : Hdr, ∃ cursor : BitVec 32, ∃ value : BitVec 356, ∃ mask : BitVec 356, ∃ count : Nat, ∃ found, ∃ read, ∃ next,
      CanDefer (1 ≤ count ∧ count ≤ 64) h (fun _ => { code := 0x0602, world := .nonSecure }) (fun s => (cursor = 0xFFFFFFFF
      ∨ idxOk s cursor = true) ∧ cursorSecure s cursor = false ∧ walkOn s (fun _ => false) value mask (walkRest s cursor)
      count [] [] = (found, read, next, false))) ∧
    (∃ h : Hdr, ∃ port : Nat, CanDefer True h (fun _ => { code := 0x0603, world := .nonSecure }) (fun s =>
      s.flow.flushes.any (fun f => f.port = port) = false ∧ (portOf s port).isSome = true ∧ tabletConflict .ag agDoms s =
      none)) ∧
    (∃ h : Hdr, ∃ r : FlowRec, ∃ resident : Bool, ∃ i, CanComplete (r.paired = false ∧ r.pairPending = false ∧ recOk r =
      true) h (fun _ => { code := 0x0604, world := .nonSecure }) (fun s => findRec s (homeOf (hashOfKey s r.key)) (recKey r)
      = none ∧ (resident = true ∨ (chanOf s (bucketOf (hashOfKey s r.key) s.flow.b % 384)).st ≠ .frozen ∧ (chanOf s
      (bucketOf (hashOfKey s r.key) s.flow.b % 384)).st ≠ .retraining) ∧ placeFor s (homeOf (hashOfKey s r.key)) r resident
      = .inr i) (fun _ => [idxFld i])) ∧
    (∃ h : Hdr, ∃ index : BitVec 32, ∃ domain : Nat, ∃ key : BitVec 304, ∃ r, CanComplete True h (fun _ =>
      { code := 0x0605, world := .nonSecure }) (fun s => (idxOnDie index = true → rowOpen s (idxSlice index) (idxPlace
      index) = true) ∧ recAt s index = some r ∧ recKey r = ⟨domain, key⟩ ∧ standsOnDie s index = true) (fun _ => [])) ∧
    (∃ h : Hdr, ∃ index : BitVec 32, ∃ domain : Nat, ∃ key : BitVec 304, ∃ r, CanDefer True h (fun _ =>
      { code := 0x0605, world := .nonSecure }) (fun s => (idxOnDie index = true → rowOpen s (idxSlice index) (idxPlace
      index) = true) ∧ recAt s index = some r ∧ recKey r = ⟨domain, key⟩ ∧ standsOnDie s index = false)) ∧
    (∃ h : Hdr, ∃ zone : Nat, ∃ limit : Nat, CanComplete (zone < 8 ∧ 1 ≤ limit ∧ limit ≤ 1073741824) h (fun _ =>
      { code := 0x0606, world := .nonSecure }) (fun s => tabletConflict .ag agDoms s = none) (fun _ => [])) ∧
    (∃ h : Hdr, ∃ period : Nat, CanComplete (128 ≤ period ∧ period ≤ 65536) h (fun _ =>
      { code := 0x0607, world := .nonSecure }) (fun s => tabletConflict .ag agDoms s = none) (fun _ => [])) ∧
    (∃ h : Hdr, ∃ port : Nat, ∃ limit : Nat, ∃ ps, CanComplete (1 ≤ limit ∧ limit ≤ 400000) h (fun _ =>
      { code := 0x0608, world := .nonSecure }) (fun s => portOf s port = some ps) (fun _ => [])) ∧
    (∃ h : Hdr, ∃ slice : Nat, CanComplete (slice < 32) h (fun _ => { code := 0x0609, reads := true }) (fun _ => True) (fun
      s => flowStatusFlds s slice)) ∧
    (∃ h : Hdr, ∃ slice : Nat, CanComplete (slice < 32) h (fun _ => { code := 0x060A, reads := true }) (fun _ => True) (fun
      s => [flds "COUNTERS" (flowCtrs.map (fun c => ctr s c slice 0)), flds "LEARN_REFUSED_PORT" ((portsOfSlice slice).map
      (fun p => ctr s .learnRefusedPort p 0))])) :=
  ⟨⟨0, key0, 0x80000000, some 3, rec0, msgd [], msgd [.answer key0 0x80000000 (some 3)], by decide +kernel⟩,
    ⟨0, key0, 0x80000001, none, msgd [], msgd [.answer key0 0x80000001 none], by decide +kernel⟩,
    ⟨0, ⟨0, 6⟩, 0x80000000, some 3, rec0, msgd [], msgd [.answer ⟨0, 6⟩ 0x80000000 (some 3)], by decide +kernel⟩,
    ⟨0, key0, 0x80000000, 1, key0, rec0, msgd [], msgd [.age key0 0x80000000 1 key0], by decide +kernel⟩,
    ⟨0, key0, 0x80000000, 1, key0, rec0, young (msgd []), young (msgd [.age key0 0x80000000 1 key0]), by decide +kernel⟩,
    ⟨0, key0, 0x80000000, msgd [], msgd [.delete key0 0x80000000], by decide +kernel⟩,
    ⟨31, svp, by decide +kernel⟩,
    ⟨3, wb0, { svp with flow := { svp.flow with wbs := [wb0] } }, by decide +kernel⟩,
    ⟨0, fl0, { svp with flow := { svp.flow with flushes := [fl0] } }, by decide +kernel⟩,
    ⟨hN, 0, 5, dieIndex (homeOf (hashOfKey (salted svp) 5)) 0, rec0, withRec (homeOf (hashOfKey (salted svp) 5)) (salted svp), .nonSecure, by decide +kernel⟩,
    ⟨hN, 0, 5, inBucket svp, .nonSecure, by decide +kernel⟩,
    ⟨hN, 0xFFFFFFFF, 0, 0, 64, [], [], 0xFFFFFFFF, svp, .nonSecure, by decide +kernel⟩,
    ⟨hN, 0, 0, 0, 64, [], [], hbmIndex (homeOf (hashOfKey (salted svp) 5)) (2 * bucketOf (hashOfKey (salted svp) 5) 2097152), inBucket svp, .nonSecure, by decide +kernel⟩,
    ⟨hN, 0, svp, .nonSecure, by decide +kernel⟩,
    ⟨hN, rec0, false, hbmIndex (homeOf (hashOfKey (salted svp) 5)) (2 * bucketOf (hashOfKey (salted svp) 5) 2097152), salted svp, .nonSecure, by decide +kernel⟩,
    ⟨hN, 0x80000000, 0, 5, rec0, withRec 0 svp, .nonSecure, by decide +kernel⟩,
    ⟨hN, hbmIndex (homeOf (hashOfKey (salted svp) 5)) (2 * bucketOf (hashOfKey (salted svp) 5) 2097152), 0, 5, rec0, inBucket svp, .nonSecure, by decide +kernel⟩,
    ⟨hN, 7, 1073741824, svp, .nonSecure, by decide +kernel⟩,
    ⟨hN, 65536, svp, .nonSecure, by decide +kernel⟩,
    ⟨hN, 0, 400000, prt, svp, .nonSecure, by decide +kernel⟩,
    ⟨hS, 31, svp, .secure, by decide +kernel⟩,
    ⟨hS, 31, svp, .secure, by decide +kernel⟩⟩

/-- The hypotheses of UcodeRowsComplete are met, clause by clause. -/
theorem wit_UcodeRowsComplete :
    (∃ h : Hdr, ∃ action : Bool, ∃ slices : W32, ∃ img : UcodeImage, CanDefer (slices ≠ 0) h (fun _ =>
      { code := 0x0E01, world := .secure, host := true }) (fun s => tabletConflict .ul (sliceDoms (slicesOf slices)) s =
      none ∧ s.ucode.swap = none ∧ (slicesOf slices).any (shadowNamed s action) = false ∧ (slicesOf slices).any (oldHeld s
      action) = false ∧ signerOk s img.sig = true ∧ img.stepping = 0x00B0 ∧ storesFit img = true ∧ img.isAction = action ∧
      imageFault img = none)) ∧
    (∃ h : Hdr, ∃ action : Bool, ∃ slices : W32, ∃ img : UcodeImage, ∃ s : State, ∃ w, slices ≠ 0 ∧ starts
      { code := 0x0E01, world := .secure, host := true } h w s = true ∧ (fun t => tabletConflict .ul (sliceDoms (slicesOf
      slices)) t = none ∧ t.ucode.swap = none ∧ (slicesOf slices).any (shadowNamed t action) = false ∧ (slicesOf slices).any
      (oldHeld t action) = false ∧ signerOk t img.sig = false) (atFetch { code := 0x0E01, world := .secure, host := true } h
      s)) ∧
    (∃ l, ∃ rest, ∃ s : State, s.ucode.load = l :: rest) ∧
    (∃ h : Hdr, ∃ parser : Bool, ∃ action : Bool, ∃ slices : W32, CanDefer ((parser = true ∨ action = true) ∧ slices ≠ 0) h
      (fun _ => { code := 0x0E02, world := .secure }) (fun s => (slicesOf slices).any (fun k => (parser && (ucOf s
      k).pShad.isNone) || (action && (ucOf s k).aShad.isNone)) = false ∧ (slicesOf slices).any (fun k => (parser &&
      !swapNamed s 1 k (ucOf s k).pShad) || (action && !swapNamed s 2 k (ucOf s k).aShad)) = false ∧ (action = true →
      editsAgree (allSlices.map (fun k => (afterSwap s parser action (slicesOf slices) k).2)) = true) ∧ allSlices.all (fun k
      => agree (afterSwap s parser action (slicesOf slices) k).1 (afterSwap s parser action (slicesOf slices) k).2) = true ∧
      s.ucode.swap = none)) ∧
    (∃ h : Hdr, ∃ slice : Nat, CanComplete (slice < 32) h (fun _ => { code := 0x0E03, reads := true }) (fun _ => True) (fun
      s => ucodeFlds s (ucOf s slice))) ∧
    (∃ slice : Nat, ∃ word : Nat, ∃ s : State, (slice < 32 ∧ word < 20480)) ∧
    (∃ slice : Nat, ∃ word : Nat, ∃ s : State, (slice < 32 ∧ word < 20480)) :=
  ⟨⟨hS, false, 0x80000000, uimg false 1, svp, .secure, by decide +kernel⟩,
    ⟨hS, true, 1, { uimg true 1 with sig := ⟨.dvorhel, false, true⟩ }, svp, .secure, by decide +kernel⟩,
    ⟨⟨hS, false, [0], uimg false 1⟩, [], { svp with ucode := { svp.ucode with load := [⟨hS, false, [0], uimg false 1⟩] } }, by decide +kernel⟩,
    ⟨hS, true, true, 1, { svp with ucode := { svp.ucode with slices := [(0, { UcSlice.init with pShad := some (uimg false 1), aShad := some (uimg true 2) })] } }, .secure, by decide +kernel⟩,
    ⟨hS, 31, svp, .secure, by decide +kernel⟩,
    ⟨31, 20479, svp, by decide +kernel⟩,
    ⟨31, 20479, svp, by decide +kernel⟩⟩

/-- The hypotheses of FabricAndEgressRowsAct are met, clause by clause. -/
theorem wit_FabricAndEgressRowsAct :
    (∃ slice : Nat, ∃ lane : Nat, ∃ s : State, (slice < 32 ∧ lane < 3)) ∧
    (∃ slice, ∃ lane, ∃ t, sliceHalted t slice = false ∧ tget t.fab.injAt (slice, lane) 0 ≠ t.time.now + 1) ∧
    (∃ slice, ∃ lane, ∃ t, sliceHalted t slice = true ∨ tget t.fab.injAt (slice, lane) 0 = t.time.now + 1) ∧
    (∃ slice : Nat, ∃ c, ∃ s : State, nextRelease s slice = some c) ∧
    (∃ slice : Nat, ∃ c, ∃ s : State, nextRelease s slice = some c) ∧
    (∃ slice : Nat, ∃ c, ∃ s : State, nextRelease s slice = some c) ∧
    (∃ port : Nat, ∃ ps, ∃ s : State, portOf s port = some ps ∧ ps.link = true ∧ forwarding s = true ∧ ps.selAt ≠ s.time.now
      + 1 ∧ maySelect s ps = true) ∧
    (∃ port : Nat, ∃ ps, ∃ w, ∃ n, ∃ q, ∃ s : State, portOf s port = some ps ∧ ps.link = true ∧ forwarding s = true ∧
      ps.selAt ≠ s.time.now + 1 ∧ maySelect s ps = false ∧ ps.wire = some w ∧ w.pre = true ∧ expressReady s port = some q ∧
      cutAt s ps w = some n) ∧
    (∃ slice : Nat, ∃ corrected : Bool, ∃ c, ∃ f, ∃ s : State, readDone slice s = some c ∧ frameOf s c.fid = some f ∧
      (f.sent = 0 ∧ tooOld (readCorrected c corrected s) f = true)) ∧
    (∃ slice : Nat, ∃ corrected : Bool, ∃ c, ∃ f, ∃ s : State, readDone slice s = some c ∧ frameOf s c.fid = some f ∧
      ¬(f.sent = 0 ∧ tooOld (readCorrected c corrected s) f = true)) ∧
    (∃ slice : Nat, ∃ s : State, (slice < 32) ∧ (sampleDue slice s = true)) ∧
    (∃ port : Nat, ∃ ps, ∃ s : State, portOf s port = some ps ∧ ps.vstate = .verifying) ∧
    (∃ port : Nat, ∃ ps, ∃ s : State, portOf s port = some ps ∧ ps.vstate = .verifying) :=
  ⟨⟨31, 2, svp, by decide +kernel⟩,
    ⟨31, 2, svp, by decide +kernel⟩,
    ⟨31, 2, { svp with fab := { svp.fab with halted := [31] } }, by decide +kernel⟩,
    ⟨3, cel, cellIn svp, by decide +kernel⟩,
    ⟨3, cel, cellIn svp, by decide +kernel⟩,
    ⟨3, cel, cellIn svp, by decide +kernel⟩,
    ⟨0, prt, svp, by decide +kernel⟩,
    ⟨0, prw, wr0, 72, 0, expr, by decide +kernel⟩,
    ⟨0, false, scl 0, { fr0 with stage := .siding, queue := 4 }, sided 0 400000, by decide +kernel⟩,
    ⟨0, false, scl 1, { fr0 with stage := .siding, queue := 4, sent := 1 }, sidedSent, by decide +kernel⟩,
    ⟨31, svp, by decide +kernel⟩,
    ⟨0, { prt with vstate := .verifying }, withPrt (fun p => { p with vstate := .verifying }), by decide +kernel⟩,
    ⟨0, { prt with vstate := .verifying }, withPrt (fun p => { p with vstate := .verifying }), by decide +kernel⟩⟩

/-- The hypotheses of QueueRowsComplete are met, clause by clause. -/
theorem wit_QueueRowsComplete :
    (∃ h : Hdr, ∃ port : Nat, ∃ queue : Nat, ∃ word : BitVec 64, CanComplete (4 ≤ queue ∧ queue < 16 ∧ meterWordOk word =
      true) h (fun _ => { code := 0x0701, world := .nonSecure }) (fun s => (portOf s port).isSome = true) effectFlds) ∧
    (∃ h : Hdr, ∃ port : Nat, ∃ queue : Nat, CanComplete (queue < 16) h (fun _ => { code := 0x0702, reads := true }) (fun s
      => (portOf s port).isSome = true) (fun s => shaperFlds s port queue s.fresh)) ∧
    (∃ h : Hdr, ∃ port : Nat, ∃ queue : Nat, ∃ weight : Nat, CanComplete (4 ≤ queue ∧ queue < 16 ∧ 16 ≤ weight ∧ weight ≤
      4095) h (fun _ => { code := 0x0703, world := .nonSecure }) (fun s => (portOf s port).isSome = true) effectFlds) ∧
    (∃ h : Hdr, ∃ port : Nat, ∃ enable : Bool, ∃ ps, CanComplete True h (fun _ => { code := 0x0704, world := .nonSecure })
      (fun s => portOf s port = some ps ∧ (enable = false → carriesOut s port = none)) effectFlds) ∧
    (∃ h : Hdr, ∃ port : Nat, ∃ ps, ∃ a, ∃ s : State, ∃ w, starts { code := 0x0704, world := .nonSecure } h w s = true ∧
      portOf (atFetch { code := 0x0704, world := .nonSecure } h s) port = some ps ∧ carriesOut (atFetch
      { code := 0x0704, world := .nonSecure } h s) port = some a) ∧
    (∃ h : Hdr, ∃ first : Nat, ∃ count : Nat, CanComplete True h (fun _ => { code := 0x0705, reads := true }) (fun _ =>
      rangeOk first count 1024 = true) (fun s => [⟨"PORTS", 1, (List.range count).flatMap (fun i => match portOf s (first +
      i) with | some x => [x.preEn.toNat, x.verify.toNat, verifyCode x.vstate, x.preOn.toNat] | none => [0, 0, 0, 0])⟩])) ∧
    (∃ h : Hdr, ∃ slices : W32, ∃ n : Nat, CanComplete (slices ≠ 0 ∧ n ≤ 16) h (fun _ =>
      { code := 0x0706, world := .nonSecure }) (fun _ => True) (fun _ => [])) ∧
    (∃ h : Hdr, ∃ port : Nat, ∃ queue : Nat, CanComplete (4 ≤ queue ∧ queue < 16) h (fun _ =>
      { code := 0x0707, reads := true }) (fun s => (portOf s port).isSome = true) (fun s => [flds "BINS" ((histKeys
      queue).map (fun e => ctr s e.1 port e.2))])) ∧
    (∃ h : Hdr, ∃ port : Nat, CanComplete True h (fun _ => { code := 0x0708, reads := true }) (fun s => (portOf s
      port).isSome = true) (fun s => [flds "APOGEES" ((List.range 4).map (fun q => apogeeWord (tget s.egr.apogees (port, q)
      Apogee.init) (s.fresh + q)))])) ∧
    (∃ h : Hdr, ∃ port : Nat, CanComplete True h (fun _ => { code := 0x0709, reads := true }) (fun s => (portOf s
      port).isSome = true) (fun s => [flds "COUNTERS" (qCtrKeys.map (fun e => ctr s e.1 port e.2))])) ∧
    (∃ h : Hdr, ∃ slice : Nat, ∃ port : Nat, CanComplete (slice < 32) h (fun _ => { code := 0x0720, reads := true }) (fun s
      => (portOf s port).isSome = true ∧ s.tt.active ≠ none) (fun s => bufFlds s slice port)) ∧
    (∃ h : Hdr, ∃ n : Nat, CanComplete True h (fun _ => { code := 0x0721, reads := true }) (fun s => (portOf s n).isSome =
      true) (fun s => [fld "STAGING_DROP" (ctr s .stagingDrop n 0), flds "QUEUES" (bufPortKeys.map (fun e => ctr s e.1 n
      e.2))])) ∧
    (∃ h : Hdr, ∃ n : Nat, CanComplete (n < 32) h (fun _ => { code := 0x0721, reads := true }) (fun _ => True) (fun s =>
      [flds "COUNTERS" (bufSliceCtrs.map (fun c => ctr s c n 0)), flds "MAXIMA" (bufMaxCtrs.map (fun c => ctr s c n 0))])) ∧
    (∃ h : Hdr, ∃ port : Nat, ∃ frame : List Byte, ∃ oneStep : Bool, ∃ tsOffset : Nat, ∃ udp6Adj : Bool, ∃ ps, CanDefer (64
      ≤ frame.length ∧ frame.length ≤ 1518 ∧ ((oneStep = true → 26 ≤ tsOffset ∧ tsOffset + 10 ≤ frame.length ∧ insertFits
      frame tsOffset udp6Adj = true))) h (fun _ => { code := 0x0808, world := .nonSecure }) (fun s => portOf s port = some
      ps ∧ ps.ptpSent < ptpAllowed s port ∧ s.clock.ptpPending < 4096)) ∧
    (∃ h : Hdr, ∃ port : Nat, ∃ frame : List Byte, CanComplete (64 ≤ frame.length ∧ frame.length ≤ 1518 ∧ beAt frame 12 2 =
      0x888E) h (fun _ => { code := 0x090C, world := .secure }) (fun s => (portOf s port).isSome = true ∧ unctrlPending s
      port < 64) (fun _ => [])) :=
  ⟨⟨hN, 0, 15, BitVec.ofNat 64 (2 ^ 60 + 2 ^ 39 + 1), svp, .nonSecure, by decide +kernel⟩,
    ⟨hS, 0, 15, svp, .secure, by decide +kernel⟩,
    ⟨hN, 0, 15, 4095, svp, .nonSecure, by decide +kernel⟩,
    ⟨hN, 0, true, prt, svp, .nonSecure, by decide +kernel⟩,
    ⟨hN, 0, prt, 1, svg, .nonSecure, by decide +kernel⟩,
    ⟨hS, 0, 1, svp, .secure, by decide +kernel⟩,
    ⟨hN, 1, 16, svp, .nonSecure, by decide +kernel⟩,
    ⟨hS, 0, 15, svp, .secure, by decide +kernel⟩,
    ⟨hS, 0, svp, .secure, by decide +kernel⟩,
    ⟨hS, 0, svp, .secure, by decide +kernel⟩,
    ⟨hS, 0, 0, withTt svp, .secure, by decide +kernel⟩,
    ⟨hS, 0, svp, .secure, by decide +kernel⟩,
    ⟨hS, 31, svp, .secure, by decide +kernel⟩,
    ⟨hN, 0, List.replicate 64 0, true, 54, false, prt, { svp with tt := { svp.tt with active := some (imgF ⟨2097152, 4096, 0, 0, [(0, 8)]⟩) } }, .nonSecure, by decide +kernel⟩,
    ⟨hS, 0, List.replicate 12 0 ++ [0x88, 0x8E] ++ List.replicate 1504 0, svp, .secure, by decide +kernel⟩⟩

/-- The hypotheses of HbmRowsComplete are met, clause by clause. -/
theorem wit_HbmRowsComplete :
    (∃ channel : Nat, ∃ bank : Nat, ∃ row : Nat, ∃ s : State, overThresh channel bank row s = true) ∧
    (∃ channel : Nat, ∃ s : State, (channel < 384) ∧ (chanActive s channel = true)) ∧
    (∃ h : Hdr, ∃ first : Nat, ∃ count : Nat, CanComplete True h (fun _ => { code := 0x0A01, reads := true }) (fun _ =>
      rangeOk first count 384 = true) (fun s => hbmFlds s ((List.range count).map (fun i => first + i)))) ∧
    (∃ h : Hdr, CanDefer True h (fun s =>
      { code := 0x0A02, world := .secure, modeOk := s.mode.mode == .boot && !s.tt.committed }) (fun s => s.mode.zeroed =
      true)) ∧
    (∃ h, ∃ rs, ∃ o, ∃ rest, ∃ s : State, s.hbm.ordering = (h, rs, o) :: rest) ∧
    (∃ h : Hdr, ∃ channel : Nat, CanComplete (channel < 384) h (fun _ => { code := 0x0A03, reads := true }) (fun s =>
      (chanOf s channel).st = .frozen) (fun s => [⟨"RECORD", 32, [withUndefined (freezeWord channel ((chanOf s
      channel).diag.getD ⟨0, 0, 0, 0, 0, 0, 0, 0⟩)) freezeUndef s.fresh]⟩])) ∧
    (∃ h : Hdr, ∃ channel : Nat, CanDefer (channel < 384) h (fun s =>
      { code := 0x0A04, modeOk := s.mode.mode == .service || s.mode.mode == .holdover }) (fun s => chanFrozen s channel =
      true ∧ tabletConflict .hb [.stack (channel / 32)] s = none)) ∧
    (∃ channel : Nat, ∃ h, ∃ s : State, (chanOf s channel).retrain = some h) ∧
    (∃ channel : Nat, ∃ h, ∃ s : State, (chanOf s channel).retrain = some h) ∧
    (∃ h : Hdr, ∃ channel : Nat, CanComplete (channel < 384) h (fun s =>
      { code := 0x0A05, modeOk := s.mode.mode == .service || s.mode.mode == .holdover }) (fun s => chanFrozen s channel =
      true ∧ tabletConflict .hb [.stack (channel / 32)] s = none) (fun _ => [])) ∧
    (∃ h : Hdr, ∃ channel : Nat, ∃ first : Nat, ∃ count : Nat, CanComplete (channel < 384) h (fun _ =>
      { code := 0x0A06, reads := true }) (fun _ => rangeOk first count 256 = true) (fun s => [⟨"CORRECTIONS", 4, (List.range
      count).map (fun i => ctr s .eccCorrections channel (first + i))⟩])) ∧
    (∃ h : Hdr, ∃ threshold : Nat, CanComplete (256 ≤ threshold ∧ threshold ≤ 8192) h (fun _ =>
      { code := 0x0A07, world := .secure }) (fun _ => True) effectFlds) :=
  ⟨⟨383, 31, 16383, withChan 383 { ChanSt.init with acts := [⟨31, 16383, 1024⟩] } svp, by decide +kernel⟩,
    ⟨383, svp, by decide +kernel⟩,
    ⟨hS, 0, 1, svp, .secure, by decide +kernel⟩,
    ⟨hS, booted, .secure, by decide +kernel⟩,
    ⟨hS, [255], .hashed, [], { booted with hbm := { booted.hbm with ordering := [(hS, [255], .hashed)] } }, by decide +kernel⟩,
    ⟨hS, 383, withChan 383 frozen svp, .secure, by decide +kernel⟩,
    ⟨hS, 383, withChan 383 frozen svp, .secure, by decide +kernel⟩,
    ⟨383, hS, withChan 383 { ChanSt.init with st := .retraining, retrain := some hS } svp, by decide +kernel⟩,
    ⟨383, hS, withChan 383 { ChanSt.init with st := .retraining, retrain := some hS } svp, by decide +kernel⟩,
    ⟨hS, 383, withChan 383 frozen svp, .secure, by decide +kernel⟩,
    ⟨hS, 383, 0, 1, svp, .secure, by decide +kernel⟩,
    ⟨hS, 8192, svp, .secure, by decide +kernel⟩⟩

/-- The hypotheses of MacsecRowsComplete are met, clause by clause. -/
theorem wit_MacsecRowsComplete :
    (∃ h : Hdr, ∃ port : Nat, ∃ policy : SecPolicy, ∃ ps, CanComplete ((policy.confOffset = 0 ∨ policy.confOffset = 30 ∨
      policy.confOffset = 50) ∧ policy.replay ≤ 4294967295) h (fun _ => { code := 0x0901, world := .secure }) (fun s =>
      portOf s port = some ps ∧ protClaim s port ps policy = none) effectFlds) ∧
    (∃ h : Hdr, ∃ port : Nat, ∃ policy : SecPolicy, ∃ ps, ∃ a, CanDefer ((policy.confOffset = 0 ∨ policy.confOffset = 30 ∨
      policy.confOffset = 50) ∧ policy.replay ≤ 4294967295) h (fun _ => { code := 0x0901, world := .secure }) (fun s =>
      portOf s port = some ps ∧ protClaim s port ps policy = some a)) ∧
    (∃ h : Hdr, ∃ port : Nat, ∃ tx : Bool, ∃ sci : Nat, ∃ c, CanComplete True h (fun _ =>
      { code := 0x0902, world := .secure }) (fun s => (portOf s port).isSome = true ∧ s.sec.chans.find? (fun e => e.2.port
      == port && (e.2.sci == sci || (tx && e.2.tx))) = none ∧ freeSc s (port / 32) tx = some c) (fun _ => [fld "CHANNEL"
      c])) ∧
    (∃ h : Hdr, ∃ channel : Nat, ∃ c, CanComplete True h (fun _ => { code := 0x0903, world := .secure }) (fun s => scOf s
      channel = some c ∧ (c.tx = false ∨ ∃ ps, portOf s c.port = some ps ∧ ps.pol.txProtect = .off)) (fun _ => [])) ∧
    (∃ h : Hdr, ∃ channel : Nat, ∃ an : Nat, ∃ sa : SaParams, ∃ c, CanComplete (an < 4 ∧ sa.key.length = keyLen sa.suite ∧ 1
      ≤ sa.nextPn ∧ sa.nextPn ≤ pnMax sa.suite) h (fun _ => { code := 0x0904, world := .secure }) (fun s => scOf s channel =
      some c ∧ c.enc ≠ some an ∧ tfind c.sas an = none) (fun _ => [])) ∧
    (∃ h : Hdr, ∃ channel : Nat, ∃ an : Nat, ∃ c, CanComplete (c.tx = true ∧ an < 4) h (fun _ =>
      { code := 0x0907, world := .secure }) (fun s => scOf s channel = some c ∧ tfind c.sas an ≠ none) effectFlds) ∧
    (∃ h : Hdr, ∃ channel : Nat, ∃ an : Nat, ∃ c, CanComplete True h (fun _ => { code := 0x0908, world := .secure }) (fun s
      => scOf s channel = some c ∧ tfind c.sas an ≠ none ∧ c.enc ≠ some an) (fun _ => [])) ∧
    (∃ h : Hdr, ∃ channel : Nat, ∃ soft : Nat, ∃ hard : Nat, ∃ c, CanComplete (c.tx = true ∧ 1 ≤ soft ∧ soft < hard ∧ hard ≤
      pnMax (chanSuite c)) h (fun _ => { code := 0x0909, world := .secure }) (fun s => scOf s channel = some c) (fun _ =>
      [])) ∧
    (∃ h : Hdr, ∃ port : Nat, ∃ ps, CanComplete True h (fun _ => { code := 0x090A, reads := true }) (fun s => portOf s port
      = some ps) (fun s => macsecFlds s port ps.pol)) ∧
    (∃ h : Hdr, ∃ port : Nat, CanComplete True h (fun _ => { code := 0x090B, reads := true }) (fun s => (portOf s
      port).isSome = true) (fun s => [flds "COUNTERS" (macsecCtrs.map (fun c => ctr s c port 0))])) :=
  ⟨⟨hS, 0, ⟨.integrity, true, 50, .check, 4294967295⟩, prt, svp, .secure, by decide +kernel⟩,
    ⟨hS, 0, ⟨.integrity, true, 50, .check, 4294967295⟩, prt, 1, svg, .secure, by decide +kernel⟩,
    ⟨hS, 0, true, 9, 0, svp, .secure, by decide +kernel⟩,
    ⟨hS, 256, rxc, secPort svp, .secure, trivial, by decide +kernel, ⟨by decide +kernel, Or.inl rfl⟩, by decide +kernel⟩,
    ⟨hS, 256, 3, sa0, rxc, secPort svp, .secure, by decide +kernel⟩,
    ⟨hS, 0, 1, txc, secPort svp, .secure, by decide +kernel⟩,
    ⟨hS, 0, 1, txc, secPort svp, .secure, by decide +kernel⟩,
    ⟨hS, 0, 1, 2 ^ 64 - 1, txc, secPort svp, .secure, by decide +kernel⟩,
    ⟨hS, 0, prt, svp, .secure, by decide +kernel⟩,
    ⟨hS, 0, svp, .secure, by decide +kernel⟩⟩

/-- The hypotheses of LookasideRowsComplete are met, clause by clause. -/
theorem wit_LookasideRowsComplete :
    (∃ h : Hdr, ∃ ctx : Nat, ∃ key : List Byte, CanComplete (ctx < 16 ∧ (key.length = 16 ∨ key.length = 32)) h (fun s =>
      { code := 0x0910, world := .owned (laWorld s ctx) }) (fun s => laOf s ctx = none) (fun _ => [])) ∧
    (∃ h : Hdr, ∃ ctx : Nat, ∃ data : List Byte, ∃ x, CanComplete (ctx < 16 ∧ data.length ≤ 65536) h (fun s =>
      { code := 0x0911, world := .owned (laWorld s ctx), host := true }) (fun s => laOf s ctx = some x ∧ x.holder = h.ring ∧
      x.mode = .gcm ∧ x.text = 0) (fun _ => placed [])) ∧
    (∃ h : Hdr, ∃ ctx : Nat, ∃ data : List Byte, ∃ x, CanComplete (ctx < 16 ∧ data.length ≤ 65536) h (fun s =>
      { code := 0x0911, world := .owned (laWorld s ctx), host := true }) (fun s => laOf s ctx = some x ∧ x.holder = h.ring)
      (fun _ => placed (laTexted data x).1)) ∧
    (∃ h : Hdr, ∃ ctx : Nat, ∃ tag : BitVec 128, ∃ x, CanComplete (ctx < 16) h (fun s =>
      { code := 0x0912, world := .owned (laWorld s ctx) }) (fun s => laOf s ctx = some x ∧ x.holder = h.ring) (fun _ =>
      (laFinish tag x).1)) ∧
    (∃ h : Hdr, ∃ ctx : Nat, ∃ x, CanComplete (ctx < 16) h (fun s => { code := 0x0913, world := .owned (laWorld s ctx) })
      (fun s => laOf s ctx = some x ∧ x.holder = h.ring ∧ worldOf s .laContext ctx = .nonSecure) (fun _ => [bytesFld "BLOB"
      (laBlobBytes x)])) ∧
    (∃ h : Hdr, ∃ ctx : Nat, ∃ x, CanComplete (ctx < 16) h (fun s => { code := 0x0913, world := .owned (laWorld s ctx) })
      (fun s => laOf s ctx = some x ∧ x.holder = h.ring ∧ worldOf s .laContext ctx = .secure) (fun s => [bytesFld "BLOB"
      (keyWrap (wrapKey s) (laBlobBytes x))])) ∧
    (∃ h : Hdr, ∃ ctx : Nat, ∃ blob : List Byte, ∃ x, ∃ y, CanComplete (ctx < 16 ∧ (blob.length = 104 ∨ blob.length = 112))
      h (fun s => { code := 0x0914, world := .owned (laWorld s ctx) }) (fun s => laOf s ctx = some x ∧ x.holder = h.ring ∧
      blobWrapped blob = (worldOf s .laContext ctx == .secure) ∧ (blobClear s blob).bind (laOfBlob x.holder x.hdr) = some y)
      (fun _ => [])) ∧
    (∃ h : Hdr, ∃ ctx : Nat, ∃ blob : List Byte, ∃ x, ∃ s : State, ∃ w, ∃ t, ctx < 16 ∧ starts
      { code := 0x0914, world := .owned (laWorld s ctx) } h w s = true ∧ t = atFetch
      { code := 0x0914, world := .owned (laWorld s ctx) } h s ∧ laOf t ctx = some x ∧ x.holder = h.ring ∧ worldOf t
      .laContext ctx = .secure ∧ blob.length = 112 ∧ replyFits t h.ring none [] = true) ∧
    (∃ h : Hdr, ∃ ctx : Nat, ∃ x, CanComplete (ctx < 16) h (fun s => { code := 0x0915, world := .owned (laWorld s ctx) })
      (fun s => laOf s ctx = some x ∧ x.holder = h.ring) (fun _ => [])) :=
  ⟨⟨hN, 15, List.replicate 32 0, svp, .nonSecure, by decide +kernel⟩,
    ⟨hN, 15, List.replicate 16 0, la0 .nonSecure hN, laN, .nonSecure, by decide +kernel⟩,
    ⟨hN, 15, List.replicate 16 0, la0 .nonSecure hN, laN, .nonSecure, by decide +kernel⟩,
    ⟨hN, 15, 9, la0 .nonSecure hN, laN, .nonSecure, by decide +kernel⟩,
    ⟨hN, 15, la0 .nonSecure hN, laN, .nonSecure, by decide +kernel⟩,
    ⟨hS, 15, la0 .secure hS, laS, .secure, by decide +kernel⟩,
    ⟨hN, 15, laBlobBytes (la0 .nonSecure hN), la0 .nonSecure hN, la0 .nonSecure hN, laN, .nonSecure, by decide +kernel⟩,
    ⟨hS, 15, List.replicate 112 0, la0 .secure hS, laS, .secure, atFetch { code := 0x0914, world := .owned (laWorld laS 15) } hS laS, by decide +kernel⟩,
    ⟨hN, 15, la0 .nonSecure hN, laN, .nonSecure, by decide +kernel⟩⟩

/-- The hypotheses of WorldRowsComplete are met, clause by clause. -/
theorem wit_WorldRowsComplete :
    (∃ h : Hdr, ∃ kind : WObj, ∃ first : Nat, ∃ count : Nat, ∃ world : World, CanComplete (rangeOk first count (objCount
      kind) = true) h (fun s => { code := 0x0920, world := .secure, modeOk := s.mode.mode == .boot && !s.world.locked })
      (fun s => kind = .hbmRegion → world = .secure → (objRange first count).find? (regionInUse s) = none) (fun _ => [])) ∧
    (∃ h : Hdr, CanComplete True h (fun s => { code := 0x0921, world := .secure, modeOk := !s.world.locked }) (fun _ =>
      True) (fun _ => [])) ∧
    (∃ h : Hdr, ∃ kind : WObj, ∃ first : Nat, ∃ count : Nat, CanComplete (rangeOk first count (objCount kind) = true) h (fun
      _ => { code := 0x0922, reads := true }) (fun _ => True) (fun s => [flds "WORLDS" ((List.range count).map (fun i =>
      worldIx (worldOf s kind (first + i)))), flag "LOCKED" s.world.locked, fld "WORLD_VIOLATIONS" (ctr s .worldViolations
      (((ringWorld s h.ring).map worldIx).getD 0) 0)])) ∧
    (∃ h : Hdr, ∃ entry : Nat, ∃ data : List Byte, CanComplete (entry ≤ 31 ∧ 1 ≤ data.length ∧ data.length ≤ 64) h (fun _ =>
      { code := 0x0923, world := .secure }) (fun _ => True) (fun _ => [])) ∧
    (∃ h : Hdr, CanComplete True h (fun _ => { code := 0x0924, world := .secure }) (fun _ => True) (fun _ => [])) ∧
    (∃ h : Hdr, ∃ target : Lifecycle, ∃ auth : LcAuth, CanComplete True h (fun s =>
      { code := 0x0925, world := .secure, modeOk := s.mode.mode == .boot || s.mode.mode == .calibrate, lifeOk := lifeEdge s.world.lifecycle target })
      (fun s => lifeAuth s target auth = none) (fun _ => [])) ∧
    (∃ h : Hdr, ∃ n, CanComplete True h (fun s =>
      { code := 0x0926, world := .secure, lifeOk := s.world.lifecycle == .provisioned }) (fun s => [0, 1, 2, 3].find? (fun n
      => (tfind s.world.owners n).isNone) = some n) (fun _ => [fld "SLOT" n])) ∧
    (∃ h : Hdr, ∃ slot : Nat, ∃ k, CanComplete (slot ≤ 3) h (fun s =>
      { code := 0x0927, world := .secure, lifeOk := s.world.lifecycle == .provisioned || s.world.lifecycle == .deployed })
      (fun s => tfind s.world.owners slot = some k ∧ (s.world.lifecycle = .deployed → k.revoked = false → [0, 1, 2, 3].any
      (fun n => n != slot && ownerLive s n) = true)) (fun _ => [])) ∧
    (∃ h : Hdr, CanComplete True h (fun _ => { code := 0x0928, world := .secure }) (fun _ => True) (fun s => [⟨"CHALLENGE",
      32, [Config.challenge s.fresh]⟩])) ∧
    (∃ h : Hdr, ∃ token : Token, CanComplete True h (fun s =>
      { code := 0x0929, world := .secure, lifeOk := s.world.lifecycle != .decommissioned }) (fun s => debugSigner s
      token.sig = true ∧ s.world.challenge = some token.challenge) (fun _ => [])) ∧
    (∃ h : Hdr, CanComplete True h (fun _ => { code := 0x092A, world := .secure }) (fun _ => True) (fun _ => [])) ∧
    (∃ h : Hdr, ∃ nonce : List Byte, CanComplete (nonce.length = 32) h (fun s =>
      { code := 0x092B, reads := true, lifeOk := !s.world.idGone }) (fun _ => True) (fun s => [flds "MEASUREMENTS"
      (measurements s), fld "SIGNATURE" (Config.attest (nonce.map (fun b => b.toNat) ++ measurements s)), fld "CERTIFICATE"
      Config.certChain])) ∧
    (∃ h : Hdr, ∃ slotB : Bool, ∃ img : FwImage, CanDefer True h (fun _ =>
      { code := 0x0E10, world := .secure, host := true }) (fun s => slotB ≠ s.world.runB ∧ dvorhelOk img.sig = true ∧
      tabletConflict .fw [.firmware] s = none)) ∧
    (∃ h, ∃ b, ∃ img, ∃ s : State, s.world.fwWrite = some (h, b, img)) ∧
    (∃ h : Hdr, CanComplete True h (fun _ => { code := 0x0E11, world := .secure }) (fun _ => True) (fun s => [fld
      "SVN_FUSED" (svnNext s)])) ∧
    (∃ h : Hdr, ∃ slotB : Bool, CanDefer True h (fun s =>
      { code := 0x0E20, world := .secure, modeOk := s.mode.mode == .boot || s.mode.mode == .service || s.mode.mode == .holdover })
      (fun s => slotB ≠ s.world.runB ∧ (fwValid s slotB).isSome = true ∧ tabletConflict .fs switchDoms s = none)) ∧
    (∃ h, ∃ b, ∃ s : State, s.world.fwSwitch = some (h, b)) ∧
    (∃ h, ∃ b, ∃ s : State, s.world.fwSwitch = some (h, b)) ∧
    (∃ h : Hdr, ∃ slices : W32, ∃ img : AgentImage, CanDefer (slices ≠ 0 ∧ agentImageBad img = none) h (fun _ =>
      { code := 0x0E12, world := .secure, host := true }) (fun s => signerOk s img.sig = true ∧ tabletConflict .al
      (sliceDoms (slicesOf slices)) s = none)) ∧
    (∃ l, ∃ rest, ∃ s : State, s.world.agentLoad = l :: rest) :=
  ⟨⟨hS, .hbmRegion, 200, 1, .secure, booted, .secure, by decide +kernel⟩,
    ⟨hS, svp, .secure, by decide +kernel⟩,
    ⟨hS, .thread, 255, 1, svp, .secure, by decide +kernel⟩,
    ⟨hS, 31, List.replicate 64 0, svp, .secure, by decide +kernel⟩,
    ⟨hS, svp, .secure, by decide +kernel⟩,
    ⟨hS, .deployed, .none, { booted with world := { booted.world with owners := [(3, ⟨1, 2, false⟩)] } }, .secure, by decide +kernel⟩,
    ⟨hS, 0, svp, .secure, by decide +kernel⟩,
    ⟨hS, 3, ⟨1, 2, false⟩, { svp with world := { svp.world with owners := [(3, ⟨1, 2, false⟩)] } }, .secure, by decide +kernel⟩,
    ⟨hS, svp, .secure, by decide +kernel⟩,
    ⟨hS, ⟨⟨.owner 3, true, true⟩, 77⟩, { svp with world := { svp.world with owners := [(3, ⟨1, 2, false⟩)], challenge := some 77 } }, .secure, by decide +kernel⟩,
    ⟨hS, svp, .secure, by decide +kernel⟩,
    ⟨hS, List.replicate 32 0, svp, .secure, by decide +kernel⟩,
    ⟨hS, true, FwImage.shipped, svp, .secure, by decide +kernel⟩,
    ⟨hS, true, FwImage.shipped, { svp with world := { svp.world with fwWrite := some (hS, true, FwImage.shipped) } }, by decide +kernel⟩,
    ⟨hS, svp, .secure, by decide +kernel⟩,
    ⟨hS, true, svp, .secure, by decide +kernel⟩,
    ⟨hS, true, { svp with world := { svp.world with fwSwitch := some (hS, true) } }, by decide +kernel⟩,
    ⟨hS, true, { svp with world := { svp.world with fwSwitch := some (hS, true) } }, by decide +kernel⟩,
    ⟨hS, 0x80000000, agi (mw 0 0 0) true, svp, .secure, by decide +kernel⟩,
    ⟨⟨hS, [31], aimg⟩, [], { svp with world := { svp.world with agentLoad := [⟨hS, [31], aimg⟩] } }, by decide +kernel⟩⟩

/-- The hypotheses of TaskRowsComplete are met, clause by clause. -/
theorem wit_TaskRowsComplete :
    (∃ h : Hdr, ∃ slice : Nat, CanComplete (slice < 32) h (fun _ => { code := 0x0C01, reads := true }) (fun _ => True) (fun
      s => agentFlds s slice)) ∧
    (∃ h : Hdr, ∃ slice : Nat, CanDefer (slice < 32) h (fun s =>
      { code := 0x0C02, world := .secure, modeOk := [Mode.boot, .service, .holdover, .drain].contains s.mode.mode }) (fun s
      => tabletConflict .ar [.slice slice] s = none)) ∧
    (∃ slice : Nat, ∃ s : State, (agentOf s slice).reset = some none) ∧
    (∃ slice : Nat, ∃ h, ∃ s : State, (agentOf s slice).reset = some (some h)) ∧
    (∃ h : Hdr, ∃ slice : Nat, CanComplete (slice < 32) h (fun _ => { code := 0x0C03, reads := true }) (fun _ => True) (fun
      s => [flds "COUNTERS" (agentCtrs.map (fun c => ctr s c.1 slice c.2))])) ∧
    (∃ h : Hdr, ∃ slice : Nat, ∃ type : Nat, ∃ prio : Nat, ∃ args : List W64, ∃ id, CanComplete (slice < 32 ∧ type ≤ 31 ∧
      prio ≤ 7 ∧ args.length = 3) h (fun _ => { code := 0x0C04 }) (fun s => freeTask s slice = some id) (fun _ => [fld
      "TASK" id])) ∧
    (∃ h : Hdr, ∃ slice : Nat, ∃ task : Nat, CanComplete (slice < 32 ∧ task < 4096) h (fun s =>
      { code := 0x0C05, world := .owned (taskWorld s slice task) }) (fun s => (taskOf s slice task).st = .idle ∧
      justCancelled s (taskOf s slice task) = false) (fun _ => [])) ∧
    (∃ h : Hdr, ∃ slice : Nat, ∃ task : Nat, CanComplete (slice < 32 ∧ task < 4096) h (fun s =>
      { code := 0x0C06, world := .owned (taskWorld s slice task) }) (fun s => (taskOf s slice task).st = .ready ∨ (taskOf s
      slice task).st = .prefetched) (fun _ => [])) ∧
    (∃ h : Hdr, ∃ slice : Nat, ∃ task : Nat, ∃ s : State, ∃ w, slice < 32 ∧ task < 4096 ∧ starts
      { code := 0x0C06, world := .owned (taskWorld s slice task) } h w s = true ∧ (fun t => (taskOf t slice task).st =
      .running) (atFetch { code := 0x0C06, world := .owned (taskWorld s slice task) } h s)) ∧
    (∃ h : Hdr, ∃ slice : Nat, ∃ task : Nat, CanComplete (slice < 32 ∧ task < 4096) h (fun s =>
      { code := 0x0C07, world := .owned (taskWorld s slice task), reads := true }) (fun _ => True) (fun s => taskFlds
      (taskOf s slice task) s.fresh)) ∧
    (∃ h : Hdr, ∃ slice : Nat, ∃ task : Nat, CanComplete (slice < 32 ∧ task < 4096) h (fun s =>
      { code := 0x0C08, world := .owned (taskWorld s slice task) }) (fun s => (taskOf s slice task).st = .idle) (fun _ =>
      [])) ∧
    (∃ h : Hdr, ∃ slice : Nat, CanComplete (slice < 32) h (fun _ => { code := 0x0C09, reads := true }) (fun _ => True) (fun
      s => (agentOf s slice).trace.zipIdx.flatMap (fun e => traceFlds e.1 (s.fresh + e.2)))) ∧
    (∃ h : Hdr, ∃ slice : Nat, ∃ addr : Nat, ∃ entries : Nat, CanComplete (slice < 32 ∧ streamBad addr entries = none) h
      (fun _ => { code := 0x0C0A, host := true }) (fun s => ∀ g a e, (agentOf s slice).stream = some (g, a, e) → g.ring =
      h.ring) (fun _ => [])) ∧
    (∃ h : Hdr, ∃ slice : Nat, CanComplete (slice < 32) h (fun _ => { code := 0x0C0A, host := true }) (fun s => ∀ g a e,
      (agentOf s slice).stream = some (g, a, e) → g.ring = h.ring) (fun _ => [])) ∧
    (∃ h : Hdr, ∃ k : Nat, ∃ t : Nat, CanComplete (k < 32 ∧ t < 8) h (fun s => { code := 0x0C10, world := dbgRule s h k t })
      (fun s => (threadOf (agentOf s k) t).enabled = true) (fun s => [fld "PC" (threadOf (agentOf s k) t).pc])) ∧
    (∃ h : Hdr, ∃ k : Nat, ∃ t : Nat, CanComplete (k < 32 ∧ t < 8) h (fun s => { code := 0x0C11, world := dbgRule s h k t })
      (fun s => (threadOf (agentOf s k) t).dbg = true) (fun _ => [])) ∧
    (∃ h : Hdr, ∃ k : Nat, ∃ t : Nat, CanComplete (k < 32 ∧ t < 8) h (fun s => { code := 0x0C12, world := dbgRule s h k t })
      (fun s => (threadOf (agentOf s k) t).dbg = true) (fun s => [fld "PC" (threadOf (agentOf (stepThread k t s) k) t).pc])) ∧
    (∃ h : Hdr, ∃ k : Nat, ∃ t : Nat, CanComplete (k < 32 ∧ t < 8) h (fun s =>
      { code := 0x0C13, world := dbgRule s h k t, reads := true }) (fun _ => True) (fun s => threadFlds
      (Config.undefinedRead s.fresh) (threadOf (agentOf s k) t))) ∧
    (∃ h : Hdr, ∃ k : Nat, ∃ t : Nat, ∃ pc : Nat, ∃ xs : List W64, CanComplete (k < 32 ∧ t < 8 ∧ pc < 8192 ∧ xs.length = 16)
      h (fun s => { code := 0x0C14, world := dbgRule s h k t }) (fun s => (threadOf (agentOf s k) t).dbg = true) (fun _ =>
      [])) ∧
    (∃ h : Hdr, ∃ k : Nat, ∃ t : Nat, ∃ c, ∃ len, ∃ ws, CanComplete (k < 32 ∧ t < 8) h (fun s =>
      { code := 0x0C15, world := dbgRule s h k t }) (fun s => (threadOf (agentOf s k) t).staged = some (c, len, ws) ∧
      (threadOf (agentOf s k) t).dbg = true) (fun _ => [fld "CHANNEL" c])) :=
  ⟨⟨hS, 31, svp, .secure, by decide +kernel⟩,
    ⟨hS, 31, svp, .secure, by decide +kernel⟩,
    ⟨31, { svp with agents := [(31, { AgentSt.init with reset := some none })] }, by decide +kernel⟩,
    ⟨31, hS, { svp with agents := [(31, { AgentSt.init with reset := some (some hS) })] }, by decide +kernel⟩,
    ⟨hS, 31, svp, .secure, by decide +kernel⟩,
    ⟨hS, 31, 31, 7, [1, 2, 3], 0, svp, .secure, by decide +kernel⟩,
    ⟨hN, 0, 0, tasked .idle, .nonSecure, by decide +kernel⟩,
    ⟨hN, 0, 0, tasked .ready, .nonSecure, by decide +kernel⟩,
    ⟨hN, 0, 0, tasked .running, .nonSecure, by decide +kernel⟩,
    ⟨hN, 0, 0, tasked .idle, .nonSecure, by decide +kernel⟩,
    ⟨hN, 0, 0, tasked .idle, .nonSecure, by decide +kernel⟩,
    ⟨hS, 31, svp, .secure, by decide +kernel⟩,
    ⟨hS, 31, 4096, 65536, svp, .secure, by decide, by decide +kernel, by intro _ _ _ q; exact absurd (show (none : Option (Hdr × Nat × Nat)) = some _ from q) (by simp), by decide +kernel⟩,
    ⟨hS, 31, svp, .secure, by decide, by decide +kernel, by intro _ _ _ q; exact absurd (show (none : Option (Hdr × Nat × Nat)) = some _ from q) (by simp), by decide +kernel⟩,
    ⟨hN, 0, 0, dbgd id, .nonSecure, by decide +kernel⟩,
    ⟨hN, 0, 0, dbgd (fun t => { t with dbg := true }), .nonSecure, by decide +kernel⟩,
    ⟨hN, 0, 0, dbgd (fun t => { t with dbg := true }), .nonSecure, by decide +kernel⟩,
    ⟨hN, 0, 0, dbgd (fun t => { t with dbg := true }), .nonSecure, by decide +kernel⟩,
    ⟨hN, 0, 0, 8191, List.replicate 16 0, dbgd (fun t => { t with dbg := true }), .nonSecure, by decide +kernel⟩,
    ⟨hN, 0, 0, 1, 2, [5], dbgd (fun t => { t with dbg := true, staged := some (1, 2, [5]) }), .nonSecure, by decide +kernel⟩⟩

theorem mw_subop (n : Fin 64) : mwSubop (mw 2 n.val 0) = n.val ∧ mwSubop (mw 7 n.val 0) = n.val := by
  revert n; decide +kernel
theorem mem_code (j : Fin 64) : Config.memKind (mwSubop (mw 2 (Config.memCodes.symm j).val 0)) = j.val := by
  rw [(mw_subop _).1]
  simp [Config.memKind]
theorem task_code (j : Fin 64) : Config.taskOp (mwSubop (mw 7 (Config.taskCodes.symm j).val 0)) = j.val := by
  rw [(mw_subop _).2]
  simp [Config.taskOp]
theorem mem_issues (n : Fin 64) : Issues (ag (mw 2 n.val 0) 1 id id) 0 0 (mw 2 n.val 0) 2 := by
  revert n; unfold Issues; decide +kernel
theorem task_dst (n : Fin 64) : mwDst (mw 7 n.val 0) ≤ 12 := by revert n; decide +kernel
theorem mod6 {n j : Nat} (h : n = j) : n % 6 = j % 6 := by rw [h]
theorem mod4 {n j : Nat} (h : n = j) : n % 4 = j % 4 := by rw [h]
theorem pmcCount_world (b c q n : Nat) (s : State) : (pmcCount b c q n s).world = s.world := by
  unfold pmcCount
  split <;> rfl
/-- Without assigned segments every access is of one world. -/
theorem seg_same (w : BitVec 256) (a : Nat) :
    (segmentWorlds (noteIssue 0 0 (ag w 1 id id)) 0 a).any (fun x => x != threadWorld (noteIssue 0 0 (ag w 1 id id)) 0 0) = false := by
  have hw : (noteIssue 0 0 (ag w 1 id id)).world = svp.world := by
    simp only [noteIssue, pmcCount_world]
    rfl
  have h : ∀ k y, worldOf (noteIssue 0 0 (ag w 1 id id)) k y = .nonSecure := fun _ _ => by
    rw [worldOf, hw]
    rfl
  simp [segmentWorlds, threadWorld, h]
theorem task_issues_slot (n : Fin 64) :
    Issues (ag (mw 7 n.val 0) 1 (fun t => { t with slot := some 9 }) id) 0 0 (mw 7 n.val 0) 7 := by
  revert n; unfold Issues; decide +kernel
theorem task_issues_running (n : Fin 64) :
    Issues (ag (mw 7 n.val 0) 1 (fun t => { t with running := some 9 }) id) 0 0 (mw 7 n.val 0) 7 := by
  revert n; unfold Issues; decide +kernel
theorem task_issues_plain (n : Fin 64) :
    Issues (ag (mw 7 n.val 0) 1 (id) id) 0 0 (mw 7 n.val 0) 7 := by
  revert n; unfold Issues; decide +kernel

/-- The hypotheses of AgentWordsComplete are met, clause by clause. -/
theorem wit_AgentWordsComplete :
    (∃ k : Nat, ∃ t, ∃ w, ∃ s : State, Issues s k t w 0) ∧
    (∃ k : Nat, ∃ t, ∃ w, ∃ s : State, Issues s k t w 1) ∧
    (∃ k : Nat, ∃ t, ∃ w, ∃ s : State, Issues s k t w 2 ∧ Config.memKind (mwSubop w) % 6 = 0 ∧ (segmentWorlds (noteIssue k t
      s) k (addrOf k t w (noteIssue k t s) % 262144)).any (fun x => x != threadWorld (noteIssue k t s) k t) = false) ∧
    (∃ k : Nat, ∃ t, ∃ w, ∃ s : State, Issues s k t w 2 ∧ Config.memKind (mwSubop w) % 6 = 1 ∧ (segmentWorlds (noteIssue k t
      s) k (addrOf k t w (noteIssue k t s) % 262144)).any (fun x => x != threadWorld (noteIssue k t s) k t) = false) ∧
    (∃ k : Nat, ∃ t, ∃ w, ∃ s : State, Issues s k t w 2 ∧ Config.memKind (mwSubop w) % 6 = 2 ∧ worldOf (noteIssue k t s)
      .resRegion (16 * k + rowNamed (addrOf k t w (noteIssue k t s)) / 2048) = threadWorld (noteIssue k t s) k t) ∧
    (∃ k : Nat, ∃ t, ∃ w, ∃ s : State, Issues s k t w 2 ∧ Config.memKind (mwSubop w) % 6 = 3 ∧ worldOf (noteIssue k t s)
      .resRegion (16 * k + rowNamed (addrOf k t w (noteIssue k t s)) / 2048) = threadWorld (noteIssue k t s) k t) ∧
    (∃ k : Nat, ∃ t, ∃ w, ∃ s : State, Issues s k t w 2 ∧ Config.memKind (mwSubop w) % 6 = 4) ∧
    (∃ k : Nat, ∃ t, ∃ w, ∃ s : State, Issues s k t w 2 ∧ Config.memKind (mwSubop w) % 6 = 5) ∧
    (∃ k : Nat, ∃ t, ∃ w, ∃ s : State, (mwFirst w = true) ∧ (Issues s k t w 3 ∧ chanWorld (noteIssue k t s) k (mwChan w) =
      threadWorld (noteIssue k t s) k t ∧ (threadOf (agentOf (noteIssue k t s) k) t).staged = none ∧ chanFree (agentOf
      (noteIssue k t s) k) (mwChan w) = true)) ∧
    (∃ k : Nat, ∃ t, ∃ w, ∃ len, ∃ ws, ∃ s : State, (mwFirst w = false) ∧ (Issues s k t w 3 ∧ chanWorld (noteIssue k t s) k
      (mwChan w) = threadWorld (noteIssue k t s) k t ∧ (threadOf (agentOf (noteIssue k t s) k) t).staged = some (mwChan w,
      len, ws))) ∧
    (∃ k : Nat, ∃ t, ∃ w, ∃ m, ∃ s : State, (mwDst w + m.length ≤ 16) ∧ (Issues s k t w 4 ∧ chanWorld (noteIssue k t s) k
      (mwChan w) = threadWorld (noteIssue k t s) k t ∧ chanMsg (noteIssue k t s) (agentOf (noteIssue k t s) k) (mwChan w) =
      some m)) ∧
    (∃ k : Nat, ∃ t, ∃ w, ∃ s : State, Issues s k t w 5 ∧ (mwWcond w = 1 ∨ mwWcond w = 2 → chanWorld (noteIssue k t s) k
      (mwChan w) = threadWorld (noteIssue k t s) k t)) ∧
    (∃ k : Nat, ∃ t, ∃ w, ∃ s : State, Issues s k t w 6) ∧
    (∃ k, ∃ t, ∃ w, ∃ id, ∃ s : State, taskSubop w = 0 ∧ mwDst w ≤ 12 ∧ Issues s k t w 7 ∧ (threadOf (agentOf (noteIssue k t
      s) k) t).slot = some id) ∧
    (∃ k : Nat, ∃ t, ∃ w, ∃ id, ∃ s : State, (taskSubop w = 1) ∧ (Issues s k t w 7 ∧ (threadOf (agentOf (noteIssue k t s) k)
      t).running = some id)) ∧
    (∃ k : Nat, ∃ t, ∃ w, ∃ s : State, (taskSubop w = 2) ∧ (Issues s k t w 7 ∧ taskForeign (noteIssue k t s) k t (taskNamed
      (noteIssue k t s) k t w) = false)) ∧
    (∃ k : Nat, ∃ t, ∃ w, ∃ s : State, (taskSubop w = 3) ∧ (Issues s k t w 7 ∧ taskForeign (noteIssue k t s) k t (taskNamed
      (noteIssue k t s) k t w) = false)) ∧
    (∃ k : Nat, ∃ t, ∃ w, ∃ d, ∃ x, ∃ s : State, Issues s k t w 9 ∧ (threadOf (agentOf (noteIssue k t s) k) t).depth = d + 1
      ∧ saveOf (threadOf (agentOf (noteIssue k t s) k) t) (d + 1) = some x) ∧
    (∃ k : Nat, ∃ t, ∃ w, ∃ s : State, Issues s k t w 10 ∧ worldOf (noteIssue k t s) .hbmRegion (Config.hbmRegion (addrOf k
      t w (noteIssue k t s)) % 256) = threadWorld (noteIssue k t s) k t) ∧
    (∃ k : Nat, ∃ t, ∃ w, ∃ s : State, Issues s k t w 11 ∧ (Config.ringReads (mwSubop w) = true → (tget (noteIssue k t
      s).flow.arrived k []).isEmpty = false) ∧ (Config.ringReads (mwSubop w) = false → (agentOf (noteIssue k t s)
      k).exports.length < 1024)) ∧
    (∃ k : Nat, ∃ t, ∃ w, ∃ s : State, Issues s k t w 12) ∧
    (∃ k : Nat, ∃ t, ∃ w, ∃ s : State, Issues s k t w 13) :=
  ⟨⟨0, 0, mw 0 0 (0), ag (mw 0 0 (0)) 1 (id) (id), ⟨by decide +kernel, by decide +kernel, by decide +kernel⟩⟩,
    ⟨0, 0, mw 1 0 (0), ag (mw 1 0 (0)) 1 (id) (id), ⟨by decide +kernel, by decide +kernel, by decide +kernel⟩⟩,
    ⟨0, 0, (mw 2 (Config.memCodes.symm 0).val 0), ag (mw 2 (Config.memCodes.symm 0).val 0) 1 id id, ⟨mem_issues _, mod6 (mem_code 0), seg_same _ _⟩⟩,
    ⟨0, 0, (mw 2 (Config.memCodes.symm 1).val 0), ag (mw 2 (Config.memCodes.symm 1).val 0) 1 id id, ⟨mem_issues _, mod6 (mem_code 1), seg_same _ _⟩⟩,
    ⟨0, 0, (mw 2 (Config.memCodes.symm 2).val 0), ag (mw 2 (Config.memCodes.symm 2).val 0) 1 id id, ⟨mem_issues _, mod6 (mem_code 2), rfl⟩⟩,
    ⟨0, 0, (mw 2 (Config.memCodes.symm 3).val 0), ag (mw 2 (Config.memCodes.symm 3).val 0) 1 id id, ⟨mem_issues _, mod6 (mem_code 3), rfl⟩⟩,
    ⟨0, 0, (mw 2 (Config.memCodes.symm 4).val 0), ag (mw 2 (Config.memCodes.symm 4).val 0) 1 id id, ⟨mem_issues _, mod6 (mem_code 4)⟩⟩,
    ⟨0, 0, (mw 2 (Config.memCodes.symm 5).val 0), ag (mw 2 (Config.memCodes.symm 5).val 0) 1 id id, ⟨mem_issues _, mod6 (mem_code 5)⟩⟩,
    ⟨0, 0, mw 3 0 (2 ^ 157), ag (mw 3 0 (2 ^ 157)) 1 (id) (id), ⟨by decide +kernel, ⟨⟨by decide +kernel, by decide +kernel, by decide +kernel⟩, by decide +kernel⟩⟩⟩,
    ⟨0, 0, mw 3 0 (0), 2, [5], ag (mw 3 0 (0)) 1 (fun t => { t with staged := some (0, 2, [5]) }) (id), ⟨by decide +kernel, ⟨⟨by decide +kernel, by decide +kernel, by decide +kernel⟩, by decide +kernel⟩⟩⟩,
    ⟨0, 0, mw 4 0 (14 * 2 ^ 36), [1, 2], ag (mw 4 0 (14 * 2 ^ 36)) 1 (id) (fun a => { a with chans := [(0, [(0, [1, 2])])] }), ⟨by decide +kernel, ⟨⟨by decide +kernel, by decide +kernel, by decide +kernel⟩, by decide +kernel⟩⟩⟩,
    ⟨0, 0, mw 5 0 (2 ^ 142), ag (mw 5 0 (2 ^ 142)) 1 (id) (id), ⟨⟨by decide +kernel, by decide +kernel, by decide +kernel⟩, by decide +kernel⟩⟩,
    ⟨0, 0, mw 6 0 (0), ag (mw 6 0 (0)) 1 (id) (id), ⟨by decide +kernel, by decide +kernel, by decide +kernel⟩⟩,
    ⟨0, 0, (mw 7 (Config.taskCodes.symm 0).val 0), 9, ag (mw 7 (Config.taskCodes.symm 0).val 0) 1 (fun t => { t with slot := some 9 }) id, ⟨mod4 (task_code 0), task_dst _, task_issues_slot _, rfl⟩⟩,
    ⟨0, 0, (mw 7 (Config.taskCodes.symm 1).val 0), 9, ag (mw 7 (Config.taskCodes.symm 1).val 0) 1 (fun t => { t with running := some 9 }) id, ⟨mod4 (task_code 1), task_issues_running _, rfl⟩⟩,
    ⟨0, 0, (mw 7 (Config.taskCodes.symm 2).val 0), ag (mw 7 (Config.taskCodes.symm 2).val 0) 1 (id) id, ⟨mod4 (task_code 2), task_issues_plain _, rfl⟩⟩,
    ⟨0, 0, (mw 7 (Config.taskCodes.symm 3).val 0), ag (mw 7 (Config.taskCodes.symm 3).val 0) 1 (id) id, ⟨mod4 (task_code 3), task_issues_plain _, rfl⟩⟩,
    ⟨0, 0, mw 9 0 (0), 1, ⟨7, 1, 2, 0, 0, 0, none, [], []⟩, ag (mw 9 0 (0)) 1 (fun t => { t with depth := 2, saves := [⟨7, 1, 2, 0, 0, 0, none, [], []⟩] }) (id), ⟨⟨by decide +kernel, by decide +kernel, by decide +kernel⟩, by decide +kernel⟩⟩,
    ⟨0, 0, mw 10 0 (0), ag (mw 10 0 (0)) 1 (id) (id), ⟨⟨by decide +kernel, by decide +kernel, by decide +kernel⟩, rfl⟩⟩,
    ⟨0, 0, mw 11 0 0, { ag (mw 11 0 0) 1 id id with flow := { svp.flow with arrived := [(0, [⟨0, 1, 0, .delete key0 0⟩])] } }, ⟨⟨by decide +kernel, by decide +kernel, by decide +kernel⟩, fun _ => by decide +kernel, fun _ => by decide +kernel⟩⟩,
    ⟨0, 0, mw 12 0 (0), ag (mw 12 0 (0)) 1 (id) (id), ⟨by decide +kernel, by decide +kernel, by decide +kernel⟩⟩,
    ⟨0, 0, mw 13 0 (0), ag (mw 13 0 (0)) 1 (id) (id), ⟨by decide +kernel, by decide +kernel, by decide +kernel⟩⟩⟩

/-- The hypotheses of AgentEventsAct are met, clause by clause. -/
theorem wit_AgentEventsAct :
    (∃ k : Nat, ∃ t : Nat, ∃ x, ∃ s : State, (x.stall = false) ∧ (agentRuns s k = true ∧ (threadOf (agentOf s k) t).dbg =
      false ∧ (threadOf (agentOf s k) t).wait = some x ∧ waitTrue s k t x = true)) ∧
    (∃ k : Nat, ∃ t : Nat, ∃ x, ∃ s : State, (x.stall = true) ∧ (agentRuns s k = true ∧ (threadOf (agentOf s k) t).dbg =
      false ∧ (threadOf (agentOf s k) t).wait = some x ∧ waitTrue s k t x = true)) ∧
    (∃ k : Nat, ∃ t : Nat, ∃ x, ∃ s : State, (x.stall = false) ∧ (agentRuns s k = true ∧ (threadOf (agentOf s k) t).dbg =
      false ∧ (threadOf (agentOf s k) t).wait = some x ∧ waitTrue s k t x = false ∧ (threadOf (agentOf s k) t).flags.getLsbD
      flagT = true)) ∧
    (∃ k : Nat, ∃ t : Nat, ∃ x, ∃ s : State, (threadOf (agentOf s k) t).wait = some x ∧ waitTrue s k t x = false ∧ (threadOf
      (agentOf s k) t).flags.getLsbD flagT = false) ∧
    (∃ k, ∃ t, ∃ x, ∃ s : State, x.bound ≠ 0 ∧ agentRuns s k = true ∧ (threadOf (agentOf s k) t).dbg = false ∧ (threadOf
      (agentOf s k) t).wait = some x ∧ waitTrue s k t x = false ∧ (threadOf (agentOf s k) t).flags.getLsbD flagT = false ∧
      x.since + x.bound ≤ s.time.now) ∧
    (∃ k : Nat, ∃ t : Nat, ∃ c, ∃ s : State, (threadOf (agentOf s k) t).timer = some c ∧ agentRuns s k = true ∧ timerMet s k
      c = true) ∧
    (∃ k, ∃ s : State, agentRuns s k = true) ∧
    (∃ k : Nat, ∃ t, ∃ w, ∃ c, ∃ s : State, pickWord s k = some (t, w) ∧ issueTrap s k t w = some c) ∧
    (∃ k, ∃ t, ∃ s : State, trapOverflows s k t = true) ∧
    (∃ k : Nat, ∃ s : State, deadlockDue k s = true ∧ dlInstalled (agentOf s k) = true) ∧
    (∃ k : Nat, ∃ s : State, deadlockDue k s = true ∧ dlInstalled (agentOf s k) = false) ∧
    (∃ k : Nat, ∃ word : Nat, ∃ s : State, (k < 32 ∧ word < 8192) ∧ ((agentOf s k).image.isSome = true ∧ (agentOf s
      k).badWords.contains word = true)) ∧
    (∃ k : Nat, ∃ word : Nat, ∃ s : State, (k < 32 ∧ word < 8192) ∧ ((agentOf s k).image.isSome = true ∧ (agentOf s
      k).badWords.contains word = false)) ∧
    (∃ k : Nat, ∃ word : Nat, ∃ s : State, (k < 32 ∧ word < 8192) ∧ ((agentOf s k).image.isSome = true ∧ (agentOf s
      k).badWords.contains word = false)) ∧
    (∃ k : Nat, ∃ g, ∃ a, ∃ n, ∃ e, ∃ rest, ∃ s : State, (agentOf s k).stream = some (g, a, n) ∧ (agentOf s k).sPend = e ::
      rest ∧ s.mmc.perst = false ∧ streamFull (agentOf s k) n = false) ∧
    (∃ k : Nat, ∃ g, ∃ a, ∃ n, ∃ e, ∃ rest, ∃ s : State, (agentOf s k).stream = some (g, a, n) ∧ (agentOf s k).sPend = e ::
      rest ∧ s.mmc.perst = false ∧ streamFull (agentOf s k) n = true) ∧
    (∃ k : Nat, ∃ g, ∃ a, ∃ n, ∃ e, ∃ rest, ∃ s : State, (agentOf s k).stream = some (g, a, n) ∧ (agentOf s k).sPend = e ::
      rest ∧ s.mmc.perst = true) :=
  ⟨⟨0, 0, ⟨8, 0, 0, 0, 0, false⟩, ag (mw 5 0 0) 5 (fun t => { t with wait := some ⟨8, 0, 0, 0, 0, false⟩ }) (fun a => { a with aflags := 1 }), by decide +kernel⟩,
    ⟨0, 0, ⟨3, 0, 0, 0, 0, true⟩, ag (mw 5 0 0) 5 (fun t => { t with wait := some ⟨3, 0, 0, 0, 0, true⟩, slot := some 4 }) (id), by decide +kernel⟩,
    ⟨0, 0, ⟨9, 0, 0, 0, 0, false⟩, ag (mw 5 0 0) 5 (fun t => { t with wait := some ⟨9, 0, 0, 0, 0, false⟩, flags := 0x20 }) (id), by decide +kernel⟩,
    ⟨0, 0, ⟨9, 0, 0, 5, 0, false⟩, ag (mw 5 0 0) 5 (fun t => { t with wait := some ⟨9, 0, 0, 5, 0, false⟩ }) (id), by decide +kernel⟩,
    ⟨0, 0, ⟨9, 0, 0, 5, 0, false⟩, ag (mw 5 0 0) 5 (fun t => { t with wait := some ⟨9, 0, 0, 5, 0, false⟩ }) (id), by decide +kernel⟩,
    ⟨0, 0, 0, ag (mw 0 0 0) 0 (fun t => { t with timer := some 0 }) id, by decide +kernel⟩,
    ⟨0, ag (mw 0 0 0) 0 id id, by decide +kernel⟩,
    ⟨0, 0, mw 8 0 0, 3, ag (mw 8 0 0) 0 id id, by decide +kernel⟩,
    ⟨0, 0, ag 0 0 (fun t => { t with depth := 2 }) id, by decide +kernel⟩,
    ⟨0, ag (mw 5 0 0) 15 (fun t => { t with wait := some ⟨9, 0, 0, 0, 0, false⟩ }) (fun a => { a with dead := 1, image := some (agi (mw 5 0 0) true) }), by decide +kernel⟩,
    ⟨0, ag (mw 5 0 0) 15 (fun t => { t with wait := some ⟨9, 0, 0, 0, 0, false⟩ }) (fun a => { a with dead := 1 }), by decide +kernel⟩,
    ⟨0, 8191, ag 0 0 id (fun a => { a with badWords := [8191] }), by decide +kernel⟩,
    ⟨0, 8191, ag 0 0 id id, by decide +kernel⟩,
    ⟨0, 8191, ag 0 0 id id, by decide +kernel⟩,
    ⟨0, hN, 4096, 256, ten, [], withMmc (fun m => { m with perst := false }) ({ svp with agents := [(0, { AgentSt.init with stream := some (hN, 4096, 256), sPend := [ten] })] }), by decide +kernel⟩,
    ⟨0, hN, 4096, 256, ten, [], withMmc (fun m => { m with perst := false }) ({ svp with agents := [(0, { AgentSt.init with stream := some (hN, 4096, 256), sPend := [ten], sTail := 255 })] }), by decide +kernel⟩,
    ⟨0, hN, 4096, 256, ten, [], withMmc (fun m => { m with perst := true }) ({ svp with agents := [(0, { AgentSt.init with stream := some (hN, 4096, 256), sPend := [ten] })] }), by decide +kernel⟩⟩

/-- The hypotheses of RingsHoldWhatWasWritten are met, clause by clause. -/
theorem wit_RingsHoldWhatWasWritten :
    (∃ g : RingSt, ∃ n, ringOk g ∧ n ≤ ringRoom g ∧ 0 < n) ∧
    (∃ g : RingSt, ∃ n, ringOk g ∧ n ≤ ringHeld g ∧ 0 < n) ∧
    (∃ s : State, ringOk (ringOf s .nonSecure .command) ∧ ringOk (ringOf s .nonSecure .trap) ∧ hasRing .nonSecure .trap = true
      ∧ ringSize (ringOf s .nonSecure .trap) ≤ 256) :=
  ⟨⟨{ RingSt.init with log2 := 8, enable := true, prod := 255, cons := 255 }, 255, by unfold ringOk; decide, by decide, by decide⟩,
    ⟨{ RingSt.init with log2 := 8, prod := 5, cons := 255 }, 6, by unfold ringOk; decide, by decide, by decide⟩,
    ⟨rings 5 svc, by unfold ringOk; decide +kernel, by unfold ringOk; decide +kernel, by decide, by decide +kernel⟩⟩

/-- The hypotheses of ReadingCommandsChangeNothingElse are met, clause by clause. -/
theorem wit_ReadingCommandsChangeNothingElse :
    ∃ t, exec (.ttStatus hS) svc = .next t :=
  ⟨_, rfl⟩

/-- The hypotheses of ActivationsAreCounted are met, clause by clause. -/
theorem wit_ActivationsAreCounted :
    (∃ b r n, ∃ pre post : List ActCount, actsOk (pre ++ ⟨b, r, n⟩ :: post)) ∧
    (∃ b r, ∃ l : List ActCount, actsOk l ∧ (∀ e ∈ l, (e.bank, e.row) ≠ (b, r)) ∧ l.length = 32) :=
  ⟨⟨31, 16383, 9, [⟨0, 1, 2⟩], [⟨0, 2, 2⟩], by unfold actsOk; decide⟩,
    ⟨1, 0, ((List.range 32).map (fun i => ⟨0, i, i + 1⟩)), by unfold actsOk; decide, by decide, by decide⟩⟩

/-- The hypotheses of CreditFollowsR205 are met, clause by clause. -/
theorem wit_CreditFollowsR205 :
    ∃ w : BitVec 64, ∃ t, ∃ q : QueueSt, mEn w = true ∧ q.creditAt ≤ t ∧ mByte w = mByte q.word ∧ mEn w = mEn q.word :=
  ⟨BitVec.ofNat 64 (2 ^ 60 + 2 ^ 39 + 1), 7, { QueueSt.init with word := BitVec.ofNat 64 (2 ^ 60 + 2 ^ 39 + 2) }, by decide +kernel⟩

/-- The hypotheses of PortAdminFollowsR46 are met, clause by clause. -/
theorem wit_PortAdminFollowsR46 :
    (∃ s : State, starts ({ code := 0x0203, world := .nonSecure } : Op) hN .nonSecure s = true ∧ portOf (atFetch
      ({ code := 0x0203, world := .nonSecure } : Op) hN s) 0 = some prt ∧ guaranteed (atFetch
      ({ code := 0x0203, world := .nonSecure } : Op) hN s) = [] ∧ replyFits (atFetch ({ code := 0x0203, world := .nonSecure } :
      Op) hN s) .nonSecure none [] = true) ∧
    (∃ s : State, ∃ b, starts ({ code := 0x0203, world := .nonSecure } : Op) hN .nonSecure s = true ∧ portOf (atFetch
      ({ code := 0x0203, world := .nonSecure } : Op) hN s) 0 = some prt ∧ b ∈ guaranteed (atFetch
      ({ code := 0x0203, world := .nonSecure } : Op) hN s) ∧ egressOf (atFetch ({ code := 0x0203, world := .nonSecure } : Op) hN
      s) b 0 = true) :=
  ⟨⟨svp, by decide +kernel⟩,
    ⟨svg, aggE, by decide +kernel⟩⟩

/-- The hypotheses of NotesFollowR362 are met, clause by clause. -/
theorem wit_NotesFollowR362 :
    (∃ s : State, starts ({ code := 0x0D03 } : Op) hS .secure s = true ∧ ringWorld (atFetch ({ code := 0x0D03 } : Op) hS s)
      .secure = some .secure ∧ tget (atFetch ({ code := 0x0D03 } : Op) hS s).log.noteAt .secure 0 = 0 ∧ replyFits (atFetch
      ({ code := 0x0D03 } : Op) hS s) .secure none [fld "RECORD" (logRecords (atFetch ({ code := 0x0D03 } : Op) hS s)
      .notes).length] = true) ∧
    (∃ s : State, starts ({ code := 0x0D03 } : Op) hS .secure s = true ∧ ringWorld (atFetch ({ code := 0x0D03 } : Op) hS s)
      .secure = some .secure ∧ tget (atFetch ({ code := 0x0D03 } : Op) hS s).log.noteAt .secure 0 ≠ 0 ∧ (atFetch
      ({ code := 0x0D03 } : Op) hS s).time.now + 1 < tget (atFetch ({ code := 0x0D03 } : Op) hS s).log.noteAt .secure 0 +
      1600000000) :=
  ⟨⟨svc, by decide +kernel⟩,
    ⟨atNow 1599999999 { svc with log := { svc.log with noteAt := [(.secure, 1)] } }, by decide +kernel⟩⟩

/-- The hypotheses of HistogramBinsSaturate are met, clause by clause. -/
theorem wit_HistogramBinsSaturate :
    ∃ s : State, ctr s .histCells 0 (4 * 20 + histBin 3) ≤ 2 ^ 48 - 1 ∧ s.egr.samples ≠ [] :=
  ⟨histAdd .histCells 0 4 3 svc, by decide +kernel⟩

/-- The hypotheses of AbortFollowsR36 are met, clause by clause. -/
theorem wit_AbortFollowsR36 :
    (∃ s : State, starts ({ code := 0x0303, world := .secure } : Op) hS .secure s = true ∧ (atFetch
      ({ code := 0x0303, world := .secure } : Op) hS s).tt.commit = some pcm ∧ 80000 < cyclesToTarget (atFetch
      ({ code := 0x0303, world := .secure } : Op) hS s) pcm.target ∧ replyFits (atFetch ({ code := 0x0303, world := .secure } :
      Op) hS s) .secure none [] = true) ∧
    (∃ s : State, starts ({ code := 0x0303, world := .secure } : Op) hS .secure s = true ∧ (atFetch
      ({ code := 0x0303, world := .secure } : Op) hS s).tt.commit = some pcm ∧ cyclesToTarget (atFetch
      ({ code := 0x0303, world := .secure } : Op) hS s) pcm.target ≤ 80000) ∧
    (∃ s : State, s.tt.commit = some pcm ∧ 80000 < cyclesToTarget s pcm.target) ∧
    (∃ s : State, s.tt.commit = some pcm ∧ pcm.irrevocable = false ∧ cyclesToTarget s pcm.target ≤ 80000 ∧ (recountLost
      s).tt.staged = some img1 ∧ revalidates (recountLost s) pcm img1 = true) :=
  ⟨⟨{ svt with tt := { svt.tt with commit := some pcm } }, by decide +kernel⟩,
    ⟨nearOrbit { svt with tt := { svt.tt with commit := some pcm } }, by decide +kernel⟩,
    ⟨{ svt with tt := { svt.tt with commit := some pcm } }, by decide +kernel⟩,
    ⟨svr, rfl, rfl, by decide +kernel, rfl, svr_revalidates⟩⟩

/-- The hypotheses of PlacementNeverOverwrites are met, clause by clause. -/
theorem wit_PlacementNeverOverwrites :
    (∃ s : State, ∃ k i, k < 32 ∧ 0 < s.flow.b ∧ s.flow.b ≤ 2 ^ 25 ∧ s.flow.stash ≤ 32768 ∧ placeFor s k rec0 false = .inr i) ∧
    (∃ s : State, (findRec s 0 (recKey rec0)).isSome = true) :=
  ⟨⟨salted svp, (homeOf (hashOfKey (salted svp) 5)), hbmIndex (homeOf (hashOfKey (salted svp) 5)) (2 * bucketOf (hashOfKey (salted svp) 5) 2097152), by decide +kernel⟩,
    ⟨withRec 0 svp, by decide +kernel⟩⟩

/-- The hypotheses of PacketNumbersAreNotReused are met, clause by clause. -/
theorem wit_PacketNumbersAreNotReused :
    (∃ s : State, ∃ ps, ∃ n, portOf s 0 = some ps ∧ ps.pol.txProtect ≠ .off ∧ (protectFrame 0 64 false s).1 = some n) ∧
    (∃ s : State, ∃ ch, ∃ c : ScSt, ∃ an a, txChan s 0 = some (ch, c) ∧ c.enc = some an ∧ tfind c.sas an = some a ∧ a.done =
      true) :=
  ⟨⟨{ secPort svc with sec := { svc.sec with chans := [(0, { txc with enc := some 1 })] } }, { prt with pol := ⟨.confidential, true, 0, .strict, 0⟩ }, 96, by decide +kernel⟩,
    ⟨{ secPort svc with sec := { svc.sec with chans := [(0, { txc with enc := some 1, sas := [(1, ⟨sa0, 2 ^ 64, false, true⟩)] })] } }, 0, { txc with enc := some 1, sas := [(1, ⟨sa0, 2 ^ 64, false, true⟩)] }, 1, ⟨sa0, 2 ^ 64, false, true⟩, by decide +kernel⟩⟩

/-- The hypotheses of EventsCountWhereSelected are met, clause by clause. -/
theorem wit_EventsCountWhereSelected :
    ∃ s : State, (s.pmu.ctl.map (fun e => e.1)).Nodup ∧ (45, 7) ∈ s.pmu.ctl.map (fun e => e.1) ∧
      (∀ x ∈ s.pmu.cfg, x.1 ≠ (45, 7)) ∧ tget s.pmu.pmc (45, 7) 0 < 2 ^ 48 ∧ pmcGain s (45, 7) = 3 :=
  ⟨pmcCount 45 0x301 0 3 { svc with pmu := { svc.pmu with ctl := [((45, 7), 0x701)], pmc := [((45, 7), 2 ^ 48 - 1)] } }, by decide +kernel⟩

/-- The hypotheses of DeferredWritesTakeEffect are met, clause by clause. -/
theorem wit_DeferredWritesTakeEffect :
    (hasRing .nonSecure .time = true ∧ RingKind.time ≠ .command) ∧
    (∃ s : State, (ringOf s .secure .reply).enable = false ∧ hasRing .secure .reply = true) ∧
    (∃ s : State, (ringOf s .secure .command).enable = true ∧
      ringIdle (updRing .secure .command (fun g => { g with enable := false }) s) .secure .command = true) ∧
    (∃ s : State, ringIdle (drawn s) .secure .command = true) ∧
    (∃ s : State, ringIdle (drawn s) .secure .command = false) ∧
    (∃ s : State, ∃ h, ∃ addr, ∃ n, ∃ head, (agentOf s 31).stream = some (h, addr, n) ∧ ringWorld s h.ring = some .secure ∧
      head < n ∧ (head + n - (agentOf s 31).sHead) % n ≤ ((agentOf s 31).sTail + n - (agentOf s 31).sHead) % n) ∧
    (∃ s : State, ∃ p, ∃ rest, tget s.evc.stk true [] = p :: rest) ∧
    (∃ s : State, tget s.evc.stk true [] = []) :=
  ⟨by decide,
    ⟨svc, by decide +kernel⟩,
    ⟨rings 0 svc, by decide +kernel⟩,
    ⟨svc, by decide +kernel⟩,
    ⟨rings 0 svc, by decide +kernel⟩,
    ⟨{ svc with agents := [(31, { AgentSt.init with stream := some (hS, 0, 256), sTail := 3 })] }, hS, 0, 256, 3, by decide +kernel⟩,
    ⟨{ svc with evc := { svc.evc with stk := [(true, [3])] } }, 3, [], by decide +kernel⟩,
    ⟨svc, by decide +kernel⟩⟩

/-- The hypotheses of TheSetOfAPendingBitWins are met, clause by clause. -/
theorem wit_TheSetOfAPendingBitWins :
    ∃ s : State, 1474 ∈ s.evc.setNow :=
  ⟨raise 1474 svc, by decide +kernel⟩

end Sys2Proof.Tests
end

/-! ## An agent's data memory: a store of a word, byte by byte (Table 14-1, R6) -/
section
namespace Sys2Proof.Machine

/-- A memory of the canonical form lists a cell exactly where that byte is not zero. -/
theorem Memory.Canon.mem_iff {m : List Host.Cell} (h : Memory.Canon m) (c : Host.Cell) :
    c ∈ m ↔ cellGet m c.1 = c.2 ∧ c.2 ≠ 0 := by
  obtain ⟨hs, hz⟩ := h
  induction m with
  | nil => simpa [cellGet] using fun h => h.symm
  | cons d r ih =>
    obtain ⟨hd, hr⟩ := List.pairwise_cons.1 hs
    have ih := ih hr fun x hx => hz x (List.mem_cons_of_mem _ hx)
    obtain ⟨k, w⟩ := d
    obtain ⟨a, v⟩ := c
    simp only [List.mem_cons, cellGet, Prod.mk.injEq]
    split
    next hk =>
      subst hk
      have hv : (k, v) ∉ r := fun hm => absurd (hd _ hm) (Nat.lt_irrefl k)
      have hw : w ≠ 0 := hz (k, w) List.mem_cons_self
      constructor
      · rintro (⟨-, rfl⟩ | hm)
        · exact ⟨rfl, hw⟩
        · exact absurd hm hv
      · rintro ⟨rfl, -⟩
        exact .inl ⟨rfl, rfl⟩
    next hk =>
      rw [ih]
      exact or_iff_right fun h => hk h.1.symm

/-- Two memories of the canonical form that read alike are the same. -/
theorem Memory.Canon.ext {m m' : List Host.Cell} (h : Memory.Canon m) (h' : Memory.Canon m')
    (hg : ∀ b, cellGet m b = cellGet m' b) : m = m' := by
  have : Std.Irrefl fun x y : Host.Cell => x.1 < y.1 := ⟨fun x => Nat.lt_irrefl x.1⟩
  refine List.Pairwise.eq_of_mem_iff h.1 h'.1 fun c => ?_
  rw [h.mem_iff, h'.mem_iff, hg]

/-- A stored word keeps the canonical form. -/
theorem Memory.Canon.memWrite {m : List Host.Cell} (a : Nat) (v : W64) (h : Memory.Canon m) : Memory.Canon (memWrite m a v) :=
  (Memory.wf_iff _).1 (wf_memWrite m a v ((Memory.wf_iff m).2 h))

/-- Writing bytes leaves every byte at another address. -/
theorem cellGet_foldl_cellSet_of_notMem (f : Nat → Nat) (g : Nat → Byte) {l : List Nat} {m : List Host.Cell} {b : Nat}
    (h : Memory.Canon m) (hb : b ∉ l.map f) : cellGet (l.foldl (fun m i => cellSet (f i) (g i) m) m) b = cellGet m b := by
  induction l generalizing m with
  | nil => rfl
  | cons i l ih =>
    obtain ⟨hi, hl⟩ := not_or.1 (List.mem_cons.not.1 hb)
    rw [List.foldl_cons, ih (canon_cellSet _ _ _ h) hl, cellGet_cellSet _ _ _ _ h.1, if_neg (Ne.symm hi)]

/-- Writing bytes at distinct addresses puts each byte at its own. -/
theorem cellGet_foldl_cellSet_of_mem (f : Nat → Nat) (g : Nat → Byte) {l : List Nat} {m : List Host.Cell} {i : Nat}
    (h : Memory.Canon m) (hf : (l.map f).Nodup) (hi : i ∈ l) :
    cellGet (l.foldl (fun m i => cellSet (f i) (g i) m) m) (f i) = g i := by
  induction l generalizing m with
  | nil => cases hi
  | cons j l ih =>
    obtain ⟨hj, hl⟩ := List.nodup_cons.1 hf
    rw [List.foldl_cons]
    rcases List.mem_cons.1 hi with rfl | hi
    · rw [cellGet_foldl_cellSet_of_notMem f g (canon_cellSet _ _ _ h) hj, cellGet_cellSet _ _ _ _ h.1, if_pos rfl]
    · exact ih (canon_cellSet _ _ _ h) hl hi

/-- A word's eight bytes lie at eight addresses, also where they wrap. -/
theorem wordAddrs_nodup (a : Nat) : (wordAddrs a).Nodup := by
  refine List.Nodup.map_on (fun i hi j hj h => ?_) List.nodup_range
  rw [List.mem_range] at hi hj
  omega

/-- A stored word leaves every byte outside its addresses. -/
theorem cellGet_memWrite_of_notMem {m : List Host.Cell} {a b : Nat} (v : W64) (h : Memory.Canon m) (hb : b ∉ wordAddrs a) :
    cellGet (memWrite m a v) b = cellGet m b :=
  cellGet_foldl_cellSet_of_notMem (fun i => (a + i) % 262144) (fun i => v.extractLsb' (8 * i) 8) h hb

/-- A stored word puts its `i`-th byte, lowest first, at the `i`-th address. -/
theorem cellGet_memWrite_of_lt {m : List Host.Cell} {i : Nat} (a : Nat) (v : W64) (h : Memory.Canon m) (hi : i < 8) :
    cellGet (memWrite m a v) ((a + i) % 262144) = v.extractLsb' (8 * i) 8 :=
  cellGet_foldl_cellSet_of_mem (fun i => (a + i) % 262144) (fun i => v.extractLsb' (8 * i) 8) h (wordAddrs_nodup a)
    (List.mem_range.2 hi)

/-- A number's lowest `n` bytes, put together, are the number modulo `256 ^ n`. -/
theorem foldl_bytes_eq_mod (x n : Nat) : (List.range n).foldl (fun s i => s + x / 256 ^ i % 256 * 256 ^ i) 0 = x % 256 ^ n := by
  induction n with
  | zero => simp [Nat.mod_one]
  | succ n ih =>
    rw [List.range_succ, List.foldl_append, ih, List.foldl_cons, List.foldl_nil, Nat.mod_pow_succ, Nat.mul_comm (256 ^ n)]

/-- A word whose eight bytes stand at an address is what a load from it returns. -/
theorem memRead_eq {m : List Host.Cell} {a : Nat} {v : W64}
    (h : ∀ i < 8, cellGet m ((a + i) % 262144) = v.extractLsb' (8 * i) 8) : memRead m a = v := by
  have hb : ∀ i < 8, (cellGet m ((a + i) % 262144)).toNat = v.toNat / 256 ^ i % 256 := fun i hi => by
    rw [h i hi, BitVec.extractLsb'_toNat, Nat.shiftRight_eq_div_pow, Nat.pow_mul]
  have hsum : (List.range 8).foldl (fun n i => n + (cellGet m ((a + i) % 262144)).toNat * 256 ^ i) 0 = v.toNat := by
    calc (List.range 8).foldl (fun n i => n + (cellGet m ((a + i) % 262144)).toNat * 256 ^ i) 0
        = (List.range 8).foldl (fun n i => n + v.toNat / 256 ^ i % 256 * 256 ^ i) 0 :=
          List.foldl_ext _ _ _ fun n i hi => by rw [hb i (List.mem_range.1 hi)]
      _ = v.toNat % 256 ^ 8 := foldl_bytes_eq_mod _ _
      _ = v.toNat := Nat.mod_eq_of_lt v.isLt
  rw [memRead, hsum, BitVec.ofNat_toNat, BitVec.setWidth_eq]

/-- Of two words stored at one address the second alone is left. -/
theorem memWrite_memWrite_same {m : List Host.Cell} (a : Nat) (v v' : W64) (h : Memory.Canon m) :
    memWrite (memWrite m a v) a v' = memWrite m a v' := by
  have hv := h.memWrite a v
  refine (hv.memWrite a v').ext (h.memWrite a v') fun b => ?_
  by_cases hb : b ∈ wordAddrs a
  · obtain ⟨i, hi, rfl⟩ := List.mem_map.1 hb
    rw [List.mem_range] at hi
    rw [cellGet_memWrite_of_lt a v' hv hi, cellGet_memWrite_of_lt a v' h hi]
  · rw [cellGet_memWrite_of_notMem v' hv hb, cellGet_memWrite_of_notMem v h hb, cellGet_memWrite_of_notMem v' h hb]

/-- Settles O17: the store's bytes stand at eight distinct addresses, and the canonical form is fixed by what it reads. -/
theorem agentMemoryHoldsWhatIsStored : Obligations.AgentMemoryHoldsWhatIsStored := by
  unfold Obligations.AgentMemoryHoldsWhatIsStored
  obtain ⟨-, -, hreset⟩ := wf_reset
  refine ⟨hreset, fun m a v v' hm => ?_⟩
  have hc := (Memory.wf_iff m).1 hm
  have hbytes : ∀ i < 8, cellGet (memWrite m a v) ((a + i) % 262144) = v.extractLsb' (8 * i) 8 := fun i hi =>
    cellGet_memWrite_of_lt a v hc hi
  exact ⟨wf_memWrite m a v hm, memRead_eq hbytes, fun b hb => cellGet_memWrite_of_notMem v hc hb, hbytes,
    memWrite_memWrite_same a v v' hc⟩

end Sys2Proof.Machine
end
/-! ## The command protocol's own rows (chapter 13) -/
section
namespace Sys2Proof.Machine

theorem ringOfWorld_eq_hostRing (w : World) : ringOfWorld w = hostRing w := by cases w <;> rfl

/-- COMMAND_FETCH reads the command at the head of a ring that may be fetched and holds the slots it needs (R269). -/
theorem exec_commandFetch {w : World} {slot : List Byte} {s : State} (hfetch : mayFetch s w = true)
    (hslot : firstSlotBad (rawOf (hostRing w) slot) (ringSize (ringOf s w .command)) = false)
    (hheld : slotsOf (rawOf (hostRing w) slot).length ≤ ringHeld (ringOf s w .command)) :
    exec (.commandFetch ⟨w, slot⟩) s =
      .next (keeping s (fetched (rawOf (hostRing w) slot) (some (ringSize (ringOf s w .command))) none
        (updRing w .command (advanceCons (slotsOf (rawOf (hostRing w) slot).length)) s))) := by
  have hx : exec (.commandFetch ⟨w, slot⟩) s = execCommandFetch ⟨w, slot⟩ s := rfl
  simp only [hx, execCommandFetch, hslot, hfetch, Bool.false_eq_true, if_false, Bool.not_true, Bool.false_or,
    decide_eq_false (Nat.not_lt.2 hheld), within_next]

/-- A timeout left to the cycle's end ends its command with TIMEOUT where it is still in execution then (R280). -/
theorem runLateOne_timeout {ring : Ring} {seq tag : Nat} {e : ExecEnt} {s : State} (he : expiring ring seq tag s = some e) :
    runLateOne s (.timeout ring seq tag) = finish e.hdr e.opcode .timeout none []
      (bump .qcpTimeouts (((ringWorld s ring).map worldIx).getD 0) 0 (callOff e.hdr s)) := by
  have hring : e.hdr.ring = ring := by
    have hp := List.find?_some he
    simp only [Bool.and_eq_true, beq_iff_eq] at hp
    obtain ⟨⟨⟨hring, -⟩, -⟩, -⟩ := hp
    exact hring
  simp only [runLateOne, commandTimeout, he, expire, hring]

/-- Settles O18: each row's body comes to its effect under the clause's conditions. -/
theorem protocolRowsComplete : Obligations.ProtocolRowsComplete := by
  unfold Obligations.ProtocolRowsComplete
  refine ⟨?info, ?echo, ?cancel, ?bind, ?unbind, ?stats, ?fetch, ?fetchRefused, ?timeoutWaits, ?timeoutEnds, ?reply, ?inband⟩
  case info => exact fun h => completes_of_done (fun _ => rfl) fun _ _ _ => rfl
  case echo => exact fun h data => completes_of_done (fun _ => rfl) fun _ _ hlen => if_neg (Nat.not_lt.2 hlen)
  case cancel =>
    refine fun h seq tag e => completes_of_done (fun _ => rfl) fun s u ⟨he, hst⟩ => ?_
    simp only [he, hst, if_true]
  case bind =>
    refine fun h port world channel queue ps c =>
      completes_of_done (fun _ => rfl) fun s u ⟨hp, hrx, htx, hlen, hc, hcp, hct, hq, hq'⟩ => ?_
    have hpol : (ps.pol.rxValidate != .strict || ps.pol.txProtect != .confidential || decide (ps.maxLen < 8250)) = false := by
      simp [hrx, htx, hlen]
    have hqueue : ¬ (queue < 4 ∨ queue > 15) := by omega
    simp [hp, hpol, hc, hcp, hct, hqueue]
  case unbind =>
    refine fun h port world channel queue b => completes_of_done (fun _ => rfl) fun s u ⟨hb, hport⟩ => ?_
    simp [hb, hport]
  case stats =>
    refine fun h clear w => completes_of_done (fun _ => rfl) fun s u hw => ?_
    simp only [hw, Option.map_some, Option.getD_some]
  case fetch =>
    rintro w slot c rfl s ⟨hfetch, hslot, hcheck, hheld⟩
    rw [ringOfWorld_eq_hostRing] at hslot hcheck hheld ⊢
    rw [exec_commandFetch hfetch hslot hheld, fetched, hcheck]
  case fetchRefused =>
    rintro w slot c st d rfl s ⟨hfetch, hslot, hcheck, hheld⟩
    rw [ringOfWorld_eq_hostRing] at hslot hcheck hheld ⊢
    rw [exec_commandFetch hfetch hslot hheld, fetched, hcheck]
  case timeoutWaits =>
    intro ring seq tag e s he
    replace he : expiring ring seq tag s = some e := he
    have hx : exec (.commandTimeout ring seq tag) s = execCommandTimeout ring seq tag s := rfl
    rw [hx, execCommandTimeout, he, if_pos Option.isSome_some, within_next]
  case timeoutEnds => exact fun ring seq tag e s he => runLateOne_timeout he
  case reply =>
    rintro w r rest s ⟨hwait, hroom⟩
    have hx : exec (.replyWrite (ringOfWorld w)) s = execReplyWrite (ringOfWorld w) s := rfl
    rw [hx]
    cases w
    all_goals
      simp only [ringOfWorld] at hwait ⊢
      simp only [execReplyWrite, hwait, if_neg (Nat.not_lt.2 hroom), within_next]
  case inband =>
    refine fun f b => acts_of_next (fun _ => rfl)
      fun s ⟨hb, hport, hopen, hchan, hok, hhdr, hroom, hcheck, hind⟩ => ?_
    simp [hb, hport, hopen, hchan, hok, hhdr, Nat.not_le.2 hroom, hcheck, hind, inbandSession]

end Sys2Proof.Machine
end
/-! ## The host registers (chapter 20) -/
section
namespace Sys2Proof.Machine

/-- A row acts where its guard, which the clause's condition implies, holds. -/
theorem acts_of_guard {c : Instr} {p q : State → Prop} [DecidablePred q] {f : State → State} (hp : ∀ s, p s → q s)
    (hx : ∀ s, exec c s = within s (if q s then .next (f s) else .next s)) : Acts c p f :=
  acts_of_next hx fun s h => if_pos (hp s h)

/-- A row whose guard holds leaves its write to the cycle's end (R9). -/
theorem acts_deferWrite {c : Instr} {l : Late} {p q : State → Prop} [DecidablePred q] (hp : ∀ s, p s → q s)
    (hx : ∀ s, exec c s = within s (.next (if q s then deferWrite l s else s))) : Acts c p (deferWrite l) :=
  acts_of_next hx fun s h => congrArg _ (if_pos (hp s h))

theorem barError_of_lt {w : World} {s : State} (h : ctr s .barAccessErr (worldIx w) 0 < 2 ^ 32 - 1) :
    barError w s = bump .barAccessErr (worldIx w) 0 s := if_neg (Nat.not_le.2 h)

theorem barError_of_le {w : World} {s : State} (h : 2 ^ 32 - 1 ≤ ctr s .barAccessErr (worldIx w) 0) : barError w s = s := if_pos h

/-- Settles O22: the reads act where BAR0 is open, the writes wait for the cycle's end, and BAR_ACCESS_ERR saturates. -/
theorem registerRowsComplete : Obligations.RegisterRowsComplete := by
  unfold Obligations.RegisterRowsComplete
  refine ⟨?timeLo, ?doorbell, ?head, ?enable, ?disable, ?config, ?traceHead, ?errRead, ?errCounted, ?errSaturated, ?register,
    ?perst, ?perstRise⟩
  case timeLo => exact fun w => acts_of_guard (fun _ h => h) fun _ => rfl
  case doorbell => exact fun w tail => acts_deferWrite (fun _ h => h) fun _ => rfl
  case head => exact fun w kind head => acts_deferWrite (fun _ h => h) fun _ => rfl
  case enable => exact fun w kind => acts_deferWrite (fun _ h => h) fun _ => rfl
  case disable => exact fun w kind => acts_deferWrite (fun _ h => h) fun _ => rfl
  case config => exact fun w kind base log2 => acts_deferWrite (fun _ h => h) fun _ => rfl
  case traceHead => exact fun w slice head => acts_deferWrite (fun _ h => h) fun _ => rfl
  case errRead => exact fun w => acts_of_guard (fun _ h => h) fun _ => rfl
  case errCounted => exact fun w => acts_of_next (fun _ => rfl) fun s ⟨hopen, hc⟩ => by rw [if_pos hopen, barError_of_lt hc]
  case errSaturated => exact fun w => acts_of_next (fun _ => rfl) fun s ⟨hopen, hc⟩ => by rw [if_pos hopen, barError_of_le hc, id]
  case register => exact fun w offset v => acts_deferWrite (fun _ h => h) fun _ => rfl
  case perst => exact acts_of_next (fun _ => rfl) fun _ _ => rfl
  case perstRise => exact acts_of_next (fun _ => rfl) fun _ _ => rfl

end Sys2Proof.Machine
end

/-! ## The event controller (chapter 15) -/
section
namespace Sys2Proof.Machine

/-- A claim by a target that may read the controller; one draw fills the undefined bits of the word it returns (R8, R316). -/
theorem exec_evcClaim {sp : Bool} {s u : State} {v : Nat} (h : sp = true ∨ barOpen s = true) (hc : claim sp (drawn s) = (v, u)) :
    exec (.evcClaim sp) s = .next (keeping s
      { u with evc := { u.evc with answer := tset u.evc.answer sp (withUndefined v claimUndef s.fresh) } }) := by
  have hx : exec (.evcClaim sp) s = execEvcClaim sp s := rfl
  simp only [hx, execEvcClaim, draw, if_pos (Bool.or_eq_true_iff.2 h), hc, within_next]

theorem claim_of_room {sp : Bool} {s : State} {n : Nat} (hbest : bestSrc s (evcEligible s sp) = some n)
    (hroom : (tget s.evc.stk sp []).length < 16) :
    claim sp s = (n + prioOf s n * 2 ^ 16, { s with evc := { s.evc with
      stk := tset s.evc.stk sp (prioOf s n :: tget s.evc.stk sp []), pend := s.evc.pend.filter (fun m => m ≠ n) } }) := by
  simp only [claim, hbest, ge_iff_le, if_neg (Nat.not_le.2 hroom)]

theorem claim_of_full {sp : Bool} {s : State} {n : Nat} (hbest : bestSrc s (evcEligible s sp) = some n)
    (hfull : 16 ≤ (tget s.evc.stk sp []).length) :
    claim sp s = (0x7FF, { s with evc := { s.evc with ovf := insertNew sp s.evc.ovf } }) := by
  simp only [claim, hbest, ge_iff_le, if_pos hfull]

theorem claim_of_nothing {sp : Bool} {s : State} (hnone : evcEligible s sp = []) : claim sp s = (0x7FF, s) := by
  simp only [claim, hnone, bestSrc]

/-- Where the host's line rises its message is held by a masked vector and else goes out (R387). -/
theorem lineMessage_of_rise {s : State} (hnow : lineNow s = true) (hline : s.evc.line = false) :
    lineMessage s = if s.evc.masked then { s with evc := { s.evc with line := true, held := true } }
      else sendMsix { s with evc := { s.evc with line := true } } := by
  rw [lineMessage, hnow, hline, if_pos (by decide)]

/-- Settles O23: a claim's three cases, the writes left to the cycle's end, and the message of a line that rises. -/
theorem eventControllerRowsComplete : Obligations.EventControllerRowsComplete := by
  unfold Obligations.EventControllerRowsComplete
  refine ⟨?claims, ?nothing, ?overflows, ?eoi, ?pending, ?sends, ?holds, ?unmask⟩
  case claims => exact fun sp n s ⟨hsp, hbest, hroom⟩ => exec_evcClaim hsp (claim_of_room hbest hroom)
  case nothing => exact fun sp s ⟨hsp, hnone⟩ => exec_evcClaim hsp (claim_of_nothing hnone)
  case overflows => exact fun sp n s ⟨hsp, hbest, hfull⟩ => exec_evcClaim hsp (claim_of_full hbest hfull)
  case eoi => exact fun sp => acts_deferWrite (fun _ => Bool.or_eq_true_iff.2) fun _ => rfl
  case pending => exact fun sp n v => acts_deferWrite (fun _ => Bool.or_eq_true_iff.2) fun _ => rfl
  case sends =>
    refine acts_of_next (f := fun s => .next (lineMessage s)) (fun _ => rfl) fun s ⟨hnow, hline, hmask⟩ => ?_
    rw [lineMessage_of_rise hnow hline, if_neg (by rw [hmask]; decide)]
  case holds =>
    refine acts_of_next (f := fun s => .next (lineMessage s)) (fun _ => rfl) fun s ⟨hnow, hline, hmask⟩ => ?_
    rw [lineMessage_of_rise hnow hline, if_pos hmask]
  case unmask => exact acts_of_next (fun _ => rfl) fun _ _ => rfl

/-- Adding a list's elements one after another adds exactly them. -/
theorem mem_foldl_insertNew {α : Type} [DecidableEq α] (ns l : List α) (n : α) :
    n ∈ ns.foldl (fun l n => insertNew n l) l ↔ n ∈ ns ∨ n ∈ l := by
  induction ns generalizing l with
  | nil => simp
  | cons m ns ih => simp only [List.foldl_cons, ih, mem_insertNew, List.mem_cons]; tauto

@[simp] theorem pmcCount_evc (block code qual n : Nat) (s : State) : (pmcCount block code qual n s).evc = s.evc := by
  unfold pmcCount; split <;> rfl

/-- A message changes no pending bit and no source noted. -/
theorem lineMessage_keeps_pend (s : State) : (lineMessage s).evc.pend = s.evc.pend ∧ (lineMessage s).evc.setNow = s.evc.setNow := by
  unfold lineMessage
  split
  · dsimp only
    split <;> simp [sendMsix]
  · exact ⟨rfl, rfl⟩

/-- At the cycle's end every source noted in it is pending (R10). -/
theorem evcEnd_pend (s : State) :
    (evcEnd s).evc.pend = s.evc.setNow.foldl (fun l n => insertNew n l) s.evc.pend ∧ (evcEnd s).evc.setNow = [] :=
  lineMessage_keeps_pend _

/-- Settles O55: the deferred writes are a fold, and the sources noted are added after it. -/
theorem theSetOfAPendingBitWins : Obligations.TheSetOfAPendingBitWins := by
  unfold Obligations.TheSetOfAPendingBitWins
  refine ⟨?order, ?sets, fun s n m => mem_raise n m s, fun s n m => Iff.rfl⟩
  case order => exact fun s a b => rfl
  case sets =>
    intro s n hn
    obtain ⟨hpend, hnow⟩ := evcEnd_pend s
    rw [hpend, hnow]
    exact ⟨(mem_foldl_insertNew _ _ _).2 (.inl hn), List.not_mem_nil⟩

end Sys2Proof.Machine
end

/-! ## The moment of reset, and a cycle with no command -/
section
namespace Sys2Proof.Machine

/-- Where a time step is applied, the cycle number stays. -/
theorem applyTimeStep_now (s : State) : (applyTimeStep s).time.now = s.time.now := by
  rcases applyTimeStep_time s with h | ⟨p, -, -, h⟩ <;> rw [h]

theorem nextHeadway_now (t : TimeSt) : t.nextHeadway.now = t.now := by unfold TimeSt.nextHeadway; split <;> rfl

/-- A headway boundary leaves the cycle number. -/
theorem enterHeadway_now (s : State) : (enterHeadway s).time.now = s.time.now := by
  obtain ⟨u, hu, h⟩ := enterHeadway_time s
  have horbit : (orbitEffects u).time.now = u.time.now := by
    obtain ⟨v, hv, h⟩ := orbitEffects_time u
    rw [h, applyTimeStep_now, hv]
  rw [h, ← nextHeadway_now s.time, ← hu]
  split
  · rfl
  · exact horbit

/-- What begins in a cycle leaves the cycle number. -/
theorem arrive_now (s : State) : (arrive s).time.now = s.time.now := by
  unfold arrive
  split
  · rw [occStart_time, enterBlock_time, enterHeadway_now]
  · split
    · rw [occStart_time, enterBlock_time]
    · rfl

/-- With no command waiting the cycle number rises by one. -/
theorem tick_now (s : State) : (tick s).time.now = s.time.now + 1 := by
  have h : (tick s).time = (arrive (endCycle s)).time := rfl
  rw [h, arrive_now, endCycle_time, TimeSt.advance]

/-- Settles O2: the step on an empty queue is `tick`. -/
theorem emptyQueuePassesOneCycle : Obligations.EmptyQueuePassesOneCycle := by
  unfold Obligations.EmptyQueuePassesOneCycle
  refine fun s hs => ⟨tick s, ?_, tick_now s, hs⟩
  rw [step, hs]

/-- At reset no source is eligible for either target: the host enables none, and none that the service processor enables is pending. -/
theorem evcEligible_reset (sp : Bool) : evcEligible State.reset sp = [] := by
  cases sp <;> decide

/-- Settles O7: at reset every table is empty, so that each entry reads as its initial value. -/
theorem resetLeavesTheResetValues : Obligations.ResetLeavesTheResetValues := by
  unfold Obligations.ResetLeavesTheResetValues
  have hgrid : GridWhole State.reset := by unfold GridWhole; decide
  refine ⟨hgrid, rfl, rfl, ?memory, rfl, rfl, rfl, rfl, rfl, rfl, rfl, ?rings, ?events, ?queues, ?counters, fun c i j => rfl,
    rfl, fun c => rfl, rfl⟩
  case memory =>
    obtain ⟨-, -, hwf⟩ := wf_reset
    exact fun k => ⟨hwf, fun a => rfl⟩
  case rings => exact fun w k => ⟨rfl, rfl, rfl⟩
  case events => exact fun sp => ⟨evcEligible_reset sp, rfl⟩
  case queues =>
    have hmeter : mEn QueueSt.init.word = false := by decide
    exact fun p q => ⟨rfl, hmeter, rfl⟩
  case counters => exact fun b i => ⟨rfl, rfl⟩

end Sys2Proof.Machine
end

/-! ## The time grid: what every step and every boundary row makes of it (Table 1-1, R11, R13, R241) -/
section
namespace Sys2Proof.Machine

/-- Every row but the three boundary rows is a command's act within its cycle. -/
theorem exec_within (c : Instr) (s : State) (hc : isBoundary c = false) : ∃ o, exec c s = within s o := by
  unfold exec
  cases c
  case orbitBoundary => cases hc
  case headwayBoundary => cases hc
  case blockBoundary => cases hc
  all_goals exact ⟨_, rfl⟩

theorem time_of_within {s t : State} {o : Host.Outcome State Fault Refusal} (h : within s o = .next t) : t.time = s.time := by
  cases o with
  | next u => cases h; rfl
  | fault r => cases h
  | refused r => cases h

/-- The three rows at which time passes. -/
theorem eq_of_isBoundary {c : Instr} (h : isBoundary c = true) : c = .orbitBoundary ∨ c = .headwayBoundary ∨ c = .blockBoundary := by
  simpa [isBoundary, or_assoc] using h

/-! ### The grid at a cycle just reached -/

/-- The grid of `GridWhole`, in a cycle that may be the first past its headway. -/
def GridReached (s : State) : Prop :=
  s.time.hwStart ≤ s.time.now ∧ s.time.now ≤ hwEnd s ∧ 256 ≤ s.time.hwLen ∧ s.time.hwLen < 512 ∧
    s.time.headway < 6250 ∧ s.time.orbit < 2 ^ 32

theorem gridWhole_congr {s t : State} (h : t.time = s.time) : GridWhole t ↔ GridWhole s := by rw [GridWhole, h, GridWhole]

/-- The next headway begins in the present cycle. -/
theorem nextHeadway_hwStart (t : TimeSt) : t.nextHeadway.hwStart = t.now ∧ t.nextHeadway.hwLen = 256 := by
  unfold TimeSt.nextHeadway
  split <;> exact ⟨rfl, rfl⟩

theorem nextHeadway_range {t : TimeSt} (h : t.orbit < 2 ^ 32) : t.nextHeadway.headway < 6250 ∧ t.nextHeadway.orbit < 2 ^ 32 := by
  unfold TimeSt.nextHeadway
  split
  next hlt => exact ⟨Nat.succ_lt_succ hlt, h⟩
  next => exact ⟨Nat.succ_pos 6249, Nat.mod_lt _ (Nat.two_pow_pos 32)⟩

/-- A time step leaves a whole grid whole where the present cycle is its headway's first (R241). -/
theorem applyTimeStep_whole {s : State} (h : GridWhole s) (hstart : s.time.hwStart = s.time.now) : GridWhole (applyTimeStep s) := by
  rcases applyTimeStep_time s with hs | ⟨p, -, -, hs⟩
  · exact (gridWhole_congr hs).2 h
  · obtain ⟨horbit, hhw, hlen, hlen'⟩ := stepGrid_range s.time.orbit p.cycles
    rw [GridWhole, hs]
    exact ⟨hstart.le, by dsimp only; omega, hlen, hlen', hhw, horbit⟩

/-- A headway begun leaves the grid whole. -/
theorem enterHeadway_whole {s : State} (h : s.time.orbit < 2 ^ 32) : GridWhole (enterHeadway s) := by
  obtain ⟨u, hu, htime⟩ := enterHeadway_time s
  obtain ⟨hstart, hlen⟩ := nextHeadway_hwStart s.time
  obtain ⟨hhw, horbit⟩ := nextHeadway_range h
  have hnow := nextHeadway_now s.time
  have hwhole : GridWhole u := by
    rw [GridWhole, hu]
    exact ⟨by omega, by omega, by omega, by omega, hhw, horbit⟩
  by_cases hlast : s.time.headway < 6249
  · rw [if_pos hlast] at htime
    exact (gridWhole_congr htime).2 hwhole
  · obtain ⟨v, hv, heff⟩ := orbitEffects_time u
    rw [if_neg hlast, heff] at htime
    refine (gridWhole_congr htime).2 (applyTimeStep_whole ((gridWhole_congr hv).2 hwhole) ?_)
    rw [hv, hu, hstart, hnow]

theorem enterBlock_whole {s : State} : GridWhole (enterBlock s) ↔ GridWhole s := by rw [GridWhole, enterBlock_time, GridWhole]

/-- What begins in a cycle just reached makes the grid whole. -/
theorem arrive_whole {s : State} (h : GridReached s) : GridWhole (arrive s) := by
  obtain ⟨hstart, hend, hlen, hlen', hhw, horbit⟩ := h
  unfold arrive
  split
  · exact (gridWhole_congr (occStart_time _)).2 (enterBlock_whole.2 (enterHeadway_whole horbit))
  next hlt =>
    have hwhole : GridWhole s := ⟨hstart, not_le.1 hlt, hlen, hlen', hhw, horbit⟩
    split
    · exact (gridWhole_congr (occStart_time _)).2 (enterBlock_whole.2 hwhole)
    · exact hwhole

/-- Cycles passed up to the headway's end. -/
theorem reached_of_advance {s t : State} {n : Nat} (h : GridWhole s) (ht : t.time = s.time.advance n)
    (hn : s.time.now + n ≤ hwEnd s) : GridReached t := by
  obtain ⟨hstart, -, hrest⟩ := h
  simp only [GridReached, hwEnd, ht, TimeSt.advance]
  exact ⟨hstart.trans (Nat.le_add_right _ _), hn, hrest⟩

theorem tick_whole {s : State} (h : GridWhole s) : GridWhole (tick s) := by
  have hnow : s.time.now < hwEnd s := h.2.1
  exact (gridWhole_congr (t := tick s) (s := arrive (endCycle s)) rfl).2
    (arrive_whole (reached_of_advance h (endCycle_time s) hnow))

/-! ### The boundary rows -/

theorem nextBlockAt_le_hwEnd (s : State) : nextBlockAt s ≤ hwEnd s := Nat.min_le_left _ _

/-- In a whole grid the next block begins after the present cycle. -/
theorem now_lt_nextBlockAt {s : State} (h : GridWhole s) : s.time.now < nextBlockAt s := by
  obtain ⟨hstart, hlt, -⟩ := h
  simp only [nextBlockAt, hwEnd, hwPos]
  omega

theorem crossBlock_whole {s : State} (h : GridWhole s) : GridWhole (crossBlock s) := by
  have hlt := now_lt_nextBlockAt h
  have hle := nextBlockAt_le_hwEnd s
  exact arrive_whole (reached_of_advance h (passCycles_time _ s) (by omega))

theorem crossHeadway_whole {s : State} (h : GridWhole s) : GridWhole (crossHeadway s) :=
  Function.Iterate.rec GridWhole h (fun _ => crossBlock_whole) _

theorem crossOrbit_whole {s : State} (h : GridWhole s) : GridWhole (crossOrbit s) :=
  Function.Iterate.rec GridWhole h (fun _ => crossHeadway_whole) _

/-- Where time passes to a state whose grid is whole, so is the answer's. -/
theorem whole_of_timePasses {s t u : State} (h : GridWhole u) (ht : timePasses s u = .next t) : GridWhole t := by
  cases ht
  exact h

/-- Every command keeps the grid whole: the boundary rows by their moves, every other by leaving the clock (log entry 2). -/
theorem exec_whole {c : Instr} {s t : State} (h : GridWhole s) (ht : exec c s = .next t) : GridWhole t := by
  cases hc : isBoundary c with
  | false =>
    obtain ⟨o, ho⟩ := exec_within c s hc
    exact (gridWhole_congr (time_of_within (ho.symm.trans ht))).2 h
  | true =>
    rcases eq_of_isBoundary hc with rfl | rfl | rfl
    · exact whole_of_timePasses (crossOrbit_whole h) ht
    · exact whole_of_timePasses (crossHeadway_whole h) ht
    · exact whole_of_timePasses (crossBlock_whole h) ht

/-- Settles O5: with a command in front by that command, on an empty queue by one cycle's passing. -/
theorem stepKeepsGridWhole : Obligations.StepKeepsGridWhole := by
  unfold Obligations.StepKeepsGridWhole
  intro s t h ht
  cases hp : s.pending with
  | nil =>
    rw [step, hp] at ht
    cases ht
    exact tick_whole h
  | cons c rest =>
    rw [step, hp] at ht
    exact exec_whole (s := { s with pending := rest }) h ht

/-! ### Where the boundary rows stop -/

/-- `t'` is the clock in the first cycle of the headway that follows `t`'s (R11, R13): one more headway is counted; short of the
orbit's last it is the next of 256 cycles in the same orbit, and after the last one more orbit is counted. -/
structure HeadwayEntered (t t' : TimeSt) : Prop where
  now : t'.now = t.hwStart + t.hwLen
  start : t'.hwStart = t'.now
  count : t'.hwCount = t.hwCount + 1
  inside : t.headway < 6249 → t'.headway = t.headway + 1 ∧ t'.hwLen = 256 ∧ t'.orbit = t.orbit ∧ t'.orbCount = t.orbCount
  last : ¬ t.headway < 6249 → t'.orbCount = t.orbCount + 1

/-- A time step leaves the cycle in which the headway began and the counts. -/
theorem applyTimeStep_counts (s : State) :
    (applyTimeStep s).time.hwStart = s.time.hwStart ∧ (applyTimeStep s).time.hwCount = s.time.hwCount ∧
      (applyTimeStep s).time.orbCount = s.time.orbCount ∧ (applyTimeStep s).time.blkCount = s.time.blkCount := by
  rcases applyTimeStep_time s with h | ⟨p, -, -, h⟩
  all_goals
    rw [h]
    exact ⟨rfl, rfl, rfl, rfl⟩

/-- A headway entered at its predecessor's end. -/
theorem enterHeadway_entered {s : State} (h : s.time.now = hwEnd s) :
    HeadwayEntered s.time (enterHeadway s).time ∧ (enterHeadway s).time.blkCount = s.time.blkCount := by
  have hnow := enterHeadway_now s
  obtain ⟨u, hu, htime⟩ := enterHeadway_time s
  unfold TimeSt.nextHeadway at hu
  by_cases hlast : s.time.headway < 6249
  · rw [if_pos hlast] at htime hu
    rw [htime, hu]
    exact ⟨⟨h, rfl, rfl, fun _ => ⟨rfl, rfl, rfl, rfl⟩, fun hn => absurd hlast hn⟩, rfl⟩
  · obtain ⟨v, hv, heff⟩ := orbitEffects_time u
    obtain ⟨hstart, hhw, horb, hblk⟩ := applyTimeStep_counts v
    rw [if_neg hlast] at hu
    rw [if_neg hlast, heff] at htime
    rw [hv, hu] at hstart hhw horb hblk
    rw [htime] at hnow ⊢
    exact ⟨⟨hnow.trans h, hstart.trans hnow.symm, hhw, fun hn => absurd hn hlast, fun _ => horb⟩, hblk⟩

/-- At the headway's end the next headway and its first block begin. -/
theorem arrive_entered {s : State} (h : s.time.now = hwEnd s) :
    HeadwayEntered s.time (arrive s).time ∧ (arrive s).time.blkCount = s.time.blkCount + 1 := by
  obtain ⟨⟨hnow, hstart, hcount, hinside, hlast⟩, hblk⟩ := enterHeadway_entered h
  rw [arrive, if_pos h.ge, occStart_time, enterBlock_time, hblk]
  exact ⟨⟨hnow, hstart, hcount, hinside, hlast⟩, rfl⟩

/-- At a block's first cycle before that end only a block begins. -/
theorem arrive_block_time {s : State} (h : s.time.now < hwEnd s) (hpos : hwPos s % 32 = 0) :
    (arrive s).time = { s.time with blkCount := s.time.blkCount + 1 } := by
  rw [arrive, if_neg (Nat.not_le.2 h), if_pos hpos, occStart_time, enterBlock_time]

/-- The next block's first cycle is reached with the clock of the present one, as many cycles on. -/
theorem crossBlock_eq_arrive {s : State} (h : GridWhole s) :
    ∃ u, crossBlock s = arrive u ∧ u.time = { s.time.advance (nextBlockAt s - s.time.now) with now := nextBlockAt s } := by
  refine ⟨_, rfl, (passCycles_time _ s).trans ?_⟩
  simp only [TimeSt.advance, Nat.add_sub_of_le (now_lt_nextBlockAt h).le]

/-- BLOCK_BOUNDARY at the last block of a headway enters the next headway. -/
theorem crossBlock_last {s : State} (h : GridWhole s) (hlast : nextBlockAt s = hwEnd s) :
    HeadwayEntered s.time (crossBlock s).time ∧ (crossBlock s).time.blkCount = s.time.blkCount + 1 := by
  obtain ⟨u, hcross, htime⟩ := crossBlock_eq_arrive h
  have hend : u.time.now = hwEnd u := by
    rw [hwEnd, htime]
    exact hlast
  obtain ⟨⟨hnow, hstart, hcount, hinside, hl⟩, hblk⟩ := arrive_entered hend
  rw [htime] at hnow hcount hinside hl hblk
  rw [hcross]
  exact ⟨⟨hnow, hstart, hcount, hinside, hl⟩, hblk⟩

/-- BLOCK_BOUNDARY elsewhere only moves time to the next block's first cycle and counts the block. -/
theorem crossBlock_inner {s : State} (h : GridWhole s) (hinner : nextBlockAt s < hwEnd s) :
    (crossBlock s).time = { s.time.advance (nextBlockAt s - s.time.now) with
      now := nextBlockAt s, blkCount := s.time.blkCount + 1 } := by
  obtain ⟨u, hcross, htime⟩ := crossBlock_eq_arrive h
  have hbefore : u.time.now < hwEnd u := by
    rw [hwEnd, htime]
    exact hinner
  have hblock : hwPos u % 32 = 0 := by
    simp only [nextBlockAt, hwEnd, hwPos, htime, TimeSt.advance] at hinner ⊢
    omega
  rw [hcross, arrive_block_time hbefore hblock, htime]
  rfl

/-- BLOCK_BOUNDARY stops at the next block's first cycle. -/
theorem crossBlock_now {s : State} (h : GridWhole s) :
    (crossBlock s).time.now = nextBlockAt s ∧ (crossBlock s).time.blkCount = s.time.blkCount + 1 := by
  rcases (nextBlockAt_le_hwEnd s).lt_or_eq with hinner | hlast
  · rw [crossBlock_inner h hinner]
    exact ⟨rfl, rfl⟩
  · obtain ⟨hentered, hblk⟩ := crossBlock_last h hlast
    exact ⟨hentered.now.trans hlast.symm, hblk⟩

/-- The last of the block boundaries left is the headway's end. -/
theorem blocksLeft_eq_one {s : State} (h : GridWhole s) (hb : blocksLeft s = 1) : nextBlockAt s = hwEnd s := by
  obtain ⟨hstart, hlt, -⟩ := h
  simp only [blocksLeft, nextBlockAt, hwEnd, hwPos] at hb ⊢
  omega

/-- Where more are left the next comes before the headway's end, and one fewer is left after it. -/
theorem blocksLeft_succ {s : State} {n : Nat} (h : GridWhole s) (hb : blocksLeft s = n + 2) :
    nextBlockAt s < hwEnd s ∧ blocksLeft (crossBlock s) = n + 1 := by
  have hinner : nextBlockAt s < hwEnd s := by
    obtain ⟨hstart, hlt, -⟩ := h
    simp only [blocksLeft, nextBlockAt, hwEnd, hwPos] at hb ⊢
    omega
  refine ⟨hinner, ?_⟩
  have htime := crossBlock_inner h hinner
  have hlt := now_lt_nextBlockAt h
  obtain ⟨hstart, -⟩ := h
  simp only [blocksLeft, nextBlockAt, hwEnd, hwPos, htime, TimeSt.advance] at hb hlt hinner ⊢
  omega

theorem HeadwayEntered.of_inner {s : State} {t' : TimeSt} (h : GridWhole s) (hinner : nextBlockAt s < hwEnd s)
    (hentered : HeadwayEntered (crossBlock s).time t') : HeadwayEntered s.time t' := by
  obtain ⟨hnow, hstart, hcount, hinside, hlast⟩ := hentered
  rw [crossBlock_inner h hinner] at hnow hcount hinside hlast
  exact ⟨hnow, hstart, hcount, hinside, hlast⟩

/-- As many block boundaries as are left enter the next headway. -/
theorem crossBlocks_entered (n : Nat) {s : State} (h : GridWhole s) (hb : blocksLeft s = n + 1) :
    HeadwayEntered s.time (crossBlock^[n + 1] s).time := by
  induction n generalizing s with
  | zero => exact (crossBlock_last h (blocksLeft_eq_one h hb)).1
  | succ n ih =>
    obtain ⟨hinner, hb'⟩ := blocksLeft_succ h hb
    rw [Function.iterate_succ_apply]
    exact .of_inner h hinner (ih (crossBlock_whole h) hb')

theorem crossHeadway_entered {s : State} (h : GridWhole s) : HeadwayEntered s.time (crossHeadway s).time := by
  have hpos : 0 < blocksLeft s := by
    obtain ⟨hstart, hlt, -⟩ := h
    simp only [blocksLeft, hwEnd, hwPos]
    omega
  obtain ⟨n, hn⟩ := Nat.exists_eq_add_one.2 hpos
  rw [crossHeadway, hn, Nat.max_eq_right (Nat.le_add_left 1 n)]
  exact crossBlocks_entered n h hn

/-- As many headway boundaries as are left in an orbit end in the next orbit's first cycle: the headways behind the present one
are of 256 cycles each. -/
theorem crossHeadways_orbit (n : Nat) {s : State} (h : GridWhole s) (hn : s.time.headway + n = 6249) :
    (crossHeadway^[n + 1] s).time.now = s.time.hwStart + s.time.hwLen + n * 256 ∧
      (crossHeadway^[n + 1] s).time.hwStart = (crossHeadway^[n + 1] s).time.now ∧
      (crossHeadway^[n + 1] s).time.orbCount = s.time.orbCount + 1 := by
  obtain ⟨hnow, hstart, -, hinside, hlast⟩ := crossHeadway_entered h
  induction n generalizing s with
  | zero =>
    rw [Function.iterate_one]
    exact ⟨by omega, hstart, hlast (by omega)⟩
  | succ n ih =>
    have hwhole := crossHeadway_whole h
    obtain ⟨hhw, hlen, -, horb⟩ := hinside (by omega)
    obtain ⟨hnow', hstart', -, hinside', hlast'⟩ := crossHeadway_entered hwhole
    obtain ⟨ihnow, ihstart, ihorb⟩ := ih hwhole (by omega) hnow' hstart' hinside' hlast'
    rw [Function.iterate_succ_apply]
    exact ⟨by omega, ihstart, by omega⟩

/-- Settles O6: each row's last move is into the block, the headway or the orbit that follows. That these rows let time run is log
entry 2. -/
theorem boundaryRowsComplete : Obligations.BoundaryRowsComplete := by
  unfold Obligations.BoundaryRowsComplete
  intro s h
  refine ⟨?block, ?headway, ?orbit⟩
  case block =>
    obtain ⟨hnow, hblk⟩ := crossBlock_now h
    exact ⟨_, rfl, hblk, hnow⟩
  case headway =>
    obtain ⟨hnow, hstart, hcount, hinside, -⟩ := crossHeadway_entered h
    refine ⟨_, rfl, hnow, hstart, hcount, fun hlt => ?_⟩
    obtain ⟨hhw, hlen, horbit, -⟩ := hinside hlt
    exact ⟨hhw, hlen, horbit⟩
  case orbit =>
    have hhw : s.time.headway < 6250 := by
      obtain ⟨-, -, -, -, hhw, -⟩ := h
      exact hhw
    have hleft : max 1 (6250 - s.time.headway) = 6249 - s.time.headway + 1 := by omega
    have hcross : (crossOrbit s).time = (crossHeadway^[6249 - s.time.headway + 1] s).time := by rw [crossOrbit, hleft]
    obtain ⟨hnow, hstart, horb⟩ := crossHeadways_orbit (6249 - s.time.headway) h (by omega)
    rw [← hcross] at hnow hstart horb
    exact ⟨_, rfl, hnow, hstart, horb⟩

end Sys2Proof.Machine
end

/-! ## The timetable commands and the irrevocable point (Table 1-10, R33 to R38) -/
section
namespace Sys2Proof.Machine

theorem passIrrevocable_of_revalidates {c : PendingCommit} {i : TtImage} {s : State} (hi : (recountLost s).tt.staged = some i)
    (hr : revalidates (recountLost s) c i = true) :
    passIrrevocable c s =
      { recountLost s with tt := { (recountLost s).tt with commit := some { c with irrevocable := true } } } := by
  simp only [passIrrevocable, hi, Option.any_some, hr, if_true]

/-- TT_COMMIT_IRREVOCABLE acts on a pending commit from 50 µs before its target on (R36). -/
theorem irrevocable_acts (c : PendingCommit) : Acts .ttCommitIrrevocable
    (fun s => s.tt.commit = some c ∧ c.irrevocable = false ∧ cyclesToTarget s c.target ≤ 80000) (passIrrevocable c) :=
  acts_of_next (fun _ => rfl) fun s ⟨hc, hirr, hdue⟩ => by simp [hc, hirr, hdue]

/-- Settles O10: each row's body comes to its effect under the clause's conditions. That the acceptance of a commit ends
HASH_SALT_SET's time is log entry 103, the lost set's recount log entry 16, and the form of the class diagnostics log entry 130. -/
theorem timetableCommandsComplete : Obligations.TimetableCommandsComplete := by
  unfold Obligations.TimetableCommandsComplete
  refine ⟨?load, ?commit, ?abort, ?status, ?shed, ?agg, ?irrevocable⟩
  case load =>
    rintro h bytes img rfl
    refine completes_of_done (fun _ => rfl) fun _ u ⟨hcommit, hok⟩ => ?_
    simp only [hcommit, Option.isSome_none, Bool.false_eq_true, if_false, hok]
  case commit =>
    refine fun h version target n i => defers_of_pend (fun _ => rfl) fun _ u ⟨hstaged, hv, htarget, hfree⟩ => ?_
    simp only [hstaged, Option.filter_some, hv, beq_self_eq_true, if_true, htarget, withTablets, hfree]
  case abort =>
    refine fun h version c => completes_of_done (fun _ => rfl) fun _ u ⟨hcommit, hv, hirr, hfar⟩ => ?_
    simp only [hcommit, Option.filter_some, hv, beq_self_eq_true, if_true, hirr, Nat.not_le.2 hfar, decide_false, Bool.or_false,
      Bool.false_eq_true, if_false]
  case status => exact fun h => completes_of_done (fun _ => rfl) fun _ _ _ => rfl
  case shed =>
    refine fun h first count => completes_of_done (fun _ => rfl) fun _ u hrange => ?_
    simp only [hrange, Bool.not_true, Bool.false_eq_true, if_false, id]
  case agg =>
    refine fun h first count => completes_of_done (fun _ => rfl) fun _ u hrange => ?_
    simp only [hrange, Bool.not_true, Bool.false_eq_true, if_false, id, aggFlds]
  case irrevocable =>
    intro c i s ⟨hc, hirr, hdue, hstaged, hok⟩
    rw [irrevocable_acts c s ⟨hc, hirr, hdue⟩, passIrrevocable_of_revalidates hstaged hok]

/-! ### TT_ABORT and the irrevocable point (R36) -/

/-- TT_ABORT is refused with RUNNING from the irrevocable point on. -/
theorem abort_refuses (h : Hdr) (version : Nat) (c : PendingCommit) :
    Refuses (.ttAbort h version) h (fun _ => { code := 0x0303, world := .secure })
      (fun s => s.tt.commit = some c ∧ c.version = version ∧ (cyclesToTarget s c.target ≤ 80000 ∨ c.irrevocable = true)) .running
      (fun _ => none) :=
  refuses_of_refuse (fun _ => rfl) fun _ u ⟨hcommit, hv, hlate⟩ => by
    have hno : (c.irrevocable || decide (cyclesToTarget u c.target ≤ 80000)) = true := by simpa [or_comm] using hlate
    simp only [hcommit, Option.filter_some, hv, beq_self_eq_true, if_true, hno]

/-- A final reply leaves the timetable alone. -/
theorem finish_tt (h : Hdr) (code : Nat) (st : Status) (d : Option Detail) (rs : List RField) (s : State) :
    (finish h code st d rs s).tt = s.tt := answer_tt h code st d rs s

/-- Settles O50: TT_ABORT completes before the irrevocable point and is refused from it on, and the commit passes it then only. -/
theorem abortFollowsR36 : Obligations.AbortFollowsR36 := by
  unfold Obligations.AbortFollowsR36
  refine ⟨?abort, ?early, ?irrevocable⟩
  case abort =>
    obtain ⟨-, -, habort, -⟩ := timetableCommandsComplete
    intro h version c s w hs u hc hv
    exact ⟨fun hfar hirr hfit => ⟨_, habort h version c s w hs ⟨hc, hv, hirr, hfar⟩ hfit, finish_tt _ _ _ _ _ _, rfl⟩,
      fun hlate => abort_refuses h version c s w hs ⟨hc, hv, hlate⟩⟩
  case early =>
    intro c s hc hirr hfar
    have hx : exec .ttCommitIrrevocable s = execTtCommitIrrevocable s := rfl
    simp only [hx, execTtCommitIrrevocable, hc, Nat.not_le.2 hfar, decide_false, Bool.and_false, Bool.false_eq_true, if_false,
      within_next]
    rfl
  case irrevocable =>
    intro c i s hc hirr hdue hstaged hok
    refine ⟨_, irrevocable_acts c s ⟨hc, hirr, hdue⟩, ?_⟩
    rw [passIrrevocable_of_revalidates hstaged hok]
    rfl

end Sys2Proof.Machine
end

/-! ## Shed-to-fit (R28 to R30) -/
section
namespace Sys2Proof.Machine

/-! ### Sorting -/

section
variable {α : Type} {le : α → α → Bool}

theorem insertBy_perm (x : α) (l : List α) : (insertBy le x l).Perm (x :: l) := by
  induction l with
  | nil => exact .refl _
  | cons y l ih =>
    rw [insertBy]
    split
    · exact (ih.cons y).trans (.swap x y l)
    · exact .refl _

theorem insertBy_pairwise (htotal : ∀ a b, le a b = true ∨ le b a = true)
    (htrans : ∀ a b c, le a b = true → le b c = true → le a c = true) (x : α) {l : List α}
    (h : l.Pairwise fun a b => le a b = true) : (insertBy le x l).Pairwise fun a b => le a b = true := by
  induction l with
  | nil => exact List.pairwise_singleton _ _
  | cons y l ih =>
    obtain ⟨hy, hl⟩ := List.pairwise_cons.1 h
    rw [insertBy]
    split
    next hle =>
      refine List.pairwise_cons.2 ⟨fun z hz => ?_, ih hl⟩
      rcases List.mem_cons.1 ((insertBy_perm x l).mem_iff.1 hz) with rfl | hz
      · exact hle
      · exact hy z hz
    next hle =>
      have hxy : le x y = true := (htotal x y).resolve_right hle
      refine List.pairwise_cons.2 ⟨fun z hz => ?_, h⟩
      rcases List.mem_cons.1 hz with rfl | hz
      · exact hxy
      · exact htrans x y z hxy (hy z hz)

/-- `sortBy` inserts one element after another. -/
theorem sortBy_append_singleton (l : List α) (x : α) : sortBy le (l ++ [x]) = insertBy le x (sortBy le l) := by
  rw [sortBy, List.foldl_append]
  rfl

theorem sortBy_perm (l : List α) : (sortBy le l).Perm l := by
  induction l using List.reverseRecOn with
  | nil => exact .refl _
  | append_singleton l x ih =>
    rw [sortBy_append_singleton]
    exact ((insertBy_perm x _).trans (ih.cons x)).trans (List.perm_append_singleton x l).symm

theorem sortBy_pairwise (htotal : ∀ a b, le a b = true ∨ le b a = true)
    (htrans : ∀ a b c, le a b = true → le b c = true → le a c = true) (l : List α) :
    (sortBy le l).Pairwise fun a b => le a b = true := by
  induction l using List.reverseRecOn with
  | nil => exact .nil
  | append_singleton l x ih =>
    rw [sortBy_append_singleton]
    exact insertBy_pairwise htotal htrans x ih

end

/-! ### The shed order and the shed table -/

theorem shedBefore_iff (a b : QAgg) : shedBefore a b = true ↔ a.prec < b.prec ∨ (a.prec = b.prec ∧ b.agg ≤ a.agg) :=
  decide_eq_true_iff

theorem shedBefore_total (a b : QAgg) : shedBefore a b = true ∨ shedBefore b a = true := by
  simp only [shedBefore_iff]
  omega

theorem shedBefore_trans (a b c : QAgg) (hab : shedBefore a b = true) (hbc : shedBefore b c = true) : shedBefore a c = true := by
  simp only [shedBefore_iff] at *
  omega

/-- What is shed is the shortest beginning of the list without which the rest fits. -/
theorem shedUntilFit_eq_take (cap : Nat × Nat → Nat) (i : TtImage) (l : List QAgg) :
    ∃ n, shedUntilFit cap i l = l.take n ∧ n ≤ l.length ∧ demandFits cap ((l.drop n).map (fun x => demandOf i x.agg)) = true ∧
      ∀ m < n, demandFits cap ((l.drop m).map (fun x => demandOf i x.agg)) = false := by
  induction l with
  | nil => exact ⟨0, rfl, le_rfl, rfl, fun m hm => absurd hm m.not_lt_zero⟩
  | cons a l ih =>
    rw [shedUntilFit]
    split
    next hfits => exact ⟨0, rfl, Nat.zero_le _, hfits, fun m hm => absurd hm m.not_lt_zero⟩
    next hover =>
      obtain ⟨n, htake, hlen, hfits, hleast⟩ := ih
      refine ⟨n + 1, congrArg (a :: ·) htake, Nat.succ_le_succ hlen, hfits, fun m hm => ?_⟩
      cases m with
      | zero => exact Bool.eq_false_iff.2 hover
      | succ m => exact hleast m (Nat.lt_of_succ_lt_succ hm)

/-- What the shed table says of an aggregate beside the orbit and the loss. -/
def shedRow (e : ShedEnt) : Nat × Nat × Nat := (e.agg, e.prec, e.reason)

@[simp] theorem logKeep_tt (r : LogRec) (s : State) : (logKeep r s).tt = s.tt := by unfold logKeep; split <;> rfl

@[simp] theorem logAdd_tt (cls : LogClass) (kind : String) (w : Option World) (vals : List Nat) (s : State) :
    (logAdd cls kind w vals s).tt = s.tt := by
  unfold logAdd
  split
  · rfl
  · exact logKeep_tt _ s

/-- Shedding aggregates one after another puts each behind the table, with its reason. -/
theorem shedOnes_rows (i : TtImage) (causes : List (BitVec 32)) (reason : Nat) (l : List QAgg) (s : State) :
    (l.foldl (fun s a => shedOne i causes a reason s) s).tt.shed.map shedRow =
      s.tt.shed.map shedRow ++ l.map (fun a => (a.agg, a.prec, reason)) := by
  induction l generalizing s with
  | nil => exact (List.append_nil _).symm
  | cons a l ih =>
    have hone : (shedOne i causes a reason s).tt.shed.map shedRow = s.tt.shed.map shedRow ++ [(a.agg, a.prec, reason)] := by
      rw [shedOne, logAdd_tt, List.map_append]
      rfl
    rw [List.foldl_cons, ih, hone, List.append_assoc, List.map_cons, List.singleton_append]

/-- Settles O42: the shed list is minimal by its recursion, the order is a total one, and the table grows row by row. -/
theorem shedToFitSheds : Obligations.ShedToFitSheds := by
  unfold Obligations.ShedToFitSheds
  refine ⟨shedUntilFit_eq_take, fun l => ⟨sortBy_perm l, sortBy_pairwise shedBefore_total shedBefore_trans l⟩, shedBefore_iff, ?_⟩
  intro i causes ls s live gone kept
  exact (shedOnes_rows i causes 2 _ _).trans (congrArg (· ++ _) (shedOnes_rows i causes 1 gone s))

end Sys2Proof.Machine
end

/-! ## What TT_LOAD refuses of an image's bytes (R33, R40, R41) -/
section
namespace Sys2Proof.Machine

/-! ### The header -/

/-- Before the digest's field an image's bytes are read as they stand. -/
theorem span_undigested {bs : List Byte} {off n : Nat} (hlen : 0x48 ≤ bs.length) (hn : off + n ≤ 0x48) :
    span (undigested bs) off n = span bs off n := by
  have hfront : off + n ≤ (bs.take 0x48).length := by rwa [List.length_take, Nat.min_eq_left hlen]
  have htake : (undigested bs).take (off + n) = bs.take (off + n) := by
    rw [undigested, List.append_assoc, List.take_append_of_le_length hfront, List.take_take, Nat.min_eq_left hn]
  rw [span, span, List.take_drop, List.take_drop, htake]

theorem num_undigested {bs : List Byte} {off n : Nat} (hlen : 0x48 ≤ bs.length) (hn : off + n ≤ 0x48) :
    num (undigested bs) off n = num bs off n := by rw [num, num, span_undigested hlen hn]

/-- What a header that passes says of the bytes (Table 1-6, R33). -/
theorem bytes_of_headerOk {bs : List Byte} (h : headerOk (readImage bs) = true) :
    0x180 ≤ bs.length ∧ num bs 0 4 = 0x48545432 ∧ num bs 4 2 = 2 ∧ num bs 0xC 4 = bs.length ∧ bs.length ≤ 268435456 ∧
      beNat (span bs 0x48 48) = beNat (sha384 (undigested bs)) := by
  simp only [headerOk, Bool.and_eq_true, beq_iff_eq, decide_eq_true_eq] at h
  obtain ⟨⟨⟨⟨⟨⟨⟨⟨hmagic, hformat⟩, hmax⟩, hintact⟩, -⟩, -⟩, -⟩, -⟩, -⟩ := h
  simp only [readImage, Bool.and_eq_true, beq_iff_eq, decide_eq_true_eq] at hmagic hformat hmax hintact
  obtain ⟨⟨⟨hlength, hmin⟩, hdigest⟩, -⟩ := hintact
  have hlen : 0x48 ≤ bs.length := le_trans (by decide) hmin
  rw [num_undigested hlen (by decide)] at hmagic hformat hmax hlength
  exact ⟨hmin, hmagic, hformat, hlength, hlength ▸ hmax, hdigest⟩

/-! ### The checks in their order -/

theorem imageRefusal_of_badHeader {s : State} {i : TtImage} (h : headerOk i = false) :
    imageRefusal s i = some (.badParam, some (.param (po 0))) := by rw [imageRefusal, h]; rfl

/-- An image is accepted where it passes every check. -/
theorem checks_of_accepted {s : State} {i : TtImage} (h : imageRefusal s i = none) :
    headerOk i = true ∧ dirFault i = none ∧ matchesModule s i = true := by
  unfold imageRefusal at h
  split at h
  · cases h
  next hheader =>
    split at h
    · cases h
    · split at h
      · cases h
      next hdir =>
        split at h
        · cases h
        next hmatch => exact ⟨by simpa using hheader, hdir, by simpa using hmatch⟩

/-! ### The directory -/

theorem requiredTypes_mem {i : TtImage} {t : Nat} :
    t ∈ requiredTypes i ↔ t ∈ [1, 2, 3, 4, 5, 6, 8, 9, 10] ∨ (t = 7 ∧ i.variantCount ≠ 0) := by
  by_cases h : i.variantCount = 0
  · simp [requiredTypes, h]
  · simp [requiredTypes, h]
    omega

/-- A directory with no fault holds every required type; each entry is sound, lies in its ranges, and has, where it is used, a type that no
entry before it has. -/
theorem dirFault_eq_none {i : TtImage} (h : dirFault i = none) :
    (∀ t ∈ requiredTypes i, t ∈ i.dir.map (fun d => secType d.body)) ∧
    ∀ (n : Nat) (d : DirEnt), i.dir[n]? = some d → d.sound = true ∧ sectionOk i d.body = true ∧
      (secType d.body ≠ 0 → secType d.body ∉ (i.dir.map (fun d => secType d.body)).take n) := by
  unfold dirFault at h
  dsimp only at h
  split at h
  · cases h
  next hreq =>
    rw [List.find?_eq_none] at hreq h
    refine ⟨fun t ht => by simpa using hreq t ht, fun n d hd => ?_⟩
    have hn := h n (List.mem_range.2 (List.getElem?_eq_some_iff.1 hd).1)
    rw [hd] at hn
    simp only [Bool.or_eq_true, Bool.not_eq_true', Bool.and_eq_true, bne_iff_ne, List.contains_iff_mem, not_or, not_and,
      Bool.not_eq_false] at hn
    obtain ⟨⟨hsound, hok⟩, hnew⟩ := hn
    exact ⟨hsound, hok, hnew⟩

/-- Where each used type is new, a used type stands at most once. -/
theorem count_le_one_of_new {l : List Nat} {t : Nat} (ht : t ≠ 0) (h : ∀ (n : Nat) (x : Nat), l[n]? = some x → x ≠ 0 → x ∉ l.take n) :
    l.count t ≤ 1 := by
  have hpair : l.Pairwise fun a b => b ≠ 0 → a ≠ b := by
    refine List.pairwise_iff_getElem.2 fun m n hm hn hmn h0 heq => h n _ (List.getElem?_eq_getElem hn) h0 ?_
    rw [← heq]
    exact List.mem_take_iff_getElem.2 ⟨m, by omega, rfl⟩
  by_contra htwo
  have hsub := List.duplicate_iff_sublist.1 (List.duplicate_iff_two_le_count.2 (Nat.lt_of_not_le htwo))
  exact List.rel_of_pairwise_cons (hpair.sublist hsub) (List.mem_singleton.2 rfl) ht rfl

/-- The entries of a type, counted. -/
theorem length_filter_secType (i : TtImage) (t : Nat) :
    (i.dir.filter (fun d => secType d.body == t)).length = (i.dir.map (fun d => secType d.body)).count t := by
  rw [List.count, List.countP_map, List.countP_eq_length_filter]
  rfl

/-- Each required type stands exactly once (R40). -/
theorem required_once {i : TtImage} (h : dirFault i = none) {t : Nat} (ht : t ∈ requiredTypes i) (h0 : t ≠ 0) :
    (i.dir.filter (fun d => secType d.body == t)).length = 1 := by
  obtain ⟨hreq, hent⟩ := dirFault_eq_none h
  have hmost : (i.dir.map (fun d => secType d.body)).count t ≤ 1 := by
    refine count_le_one_of_new h0 fun n x hx hx0 => ?_
    rw [List.getElem?_map, Option.map_eq_some_iff] at hx
    obtain ⟨d, hd, rfl⟩ := hx
    obtain ⟨-, -, hnew⟩ := hent n d hd
    exact hnew hx0
  rw [length_filter_secType]
  exact le_antisymm hmost (List.count_pos_iff.2 (hreq t ht))

/-- A VARIANT section lies in its ranges only where the header counts variants (R41). -/
theorem variantCount_ne_zero {i : TtImage} {b : Section} (hok : sectionOk i b = true) (h : secType b = 7) : i.variantCount ≠ 0 := by
  cases b
  case variant vs =>
    simp only [sectionOk, variantsOk, Bool.and_eq_true, decide_eq_true_eq, beq_iff_eq] at hok
    obtain ⟨⟨⟨hone, hcount⟩, -⟩, -⟩ := hok
    omega
  case unknown t => cases hok
  all_goals cases h

/-- VARIANT stands exactly once where the header counts variants, and else not at all. -/
theorem variant_once {i : TtImage} (h : dirFault i = none) :
    (i.dir.filter (fun d => secType d.body == 7)).length = if i.variantCount = 0 then 0 else 1 := by
  split
  next h0 =>
    obtain ⟨-, hent⟩ := dirFault_eq_none h
    refine List.length_eq_zero_iff.2 (List.filter_eq_nil_iff.2 fun d hd h7 => ?_)
    obtain ⟨n, hn⟩ := List.mem_iff_getElem?.1 hd
    obtain ⟨-, hok, -⟩ := hent n d hn
    exact variantCount_ne_zero hok (beq_iff_eq.1 h7) h0
  next h0 => exact required_once h (requiredTypes_mem.2 (.inr ⟨rfl, h0⟩)) (by decide)

/-- A calendar that matches the module marks retired exactly the channels held retired (R217). -/
theorem retired_of_calMatches {s : State} {es : List CalEnt} (h : calMatches s es = true) {c : Nat} {e : CalEnt} (he : es[c]? = some e) :
    calRetired e = true ↔ (chanOf s c).st = .retired := by
  have hent := List.all_eq_true.1 h (e, c) (List.mem_zipIdx_iff_getElem?.2 he)
  rw [beq_iff_eq.1 hent, decide_eq_true_iff]

theorem matchesModule_iff {s : State} {i : TtImage} : matchesModule s i = true ↔
    i.stepping = 0x00B0 ∧ i.portDigest = portDigest (mapAhead s) ∧
      ∀ es ∈ calSections i, calMatches s es = true ∧ es.all calPlaced = true := by
  simp only [matchesModule, Bool.and_eq_true, beq_iff_eq, List.all_eq_true, and_assoc]

/-- What an accepted image's bytes say. -/
theorem bytes_of_accepted {s : State} {bytes : List Byte} (h : imageRefusal s (readImage bytes) = none) :
    num bytes 6 2 = 0x00B0 ∧ beNat (span bytes 0x18 48) = portDigest (mapAhead s) ∧
      num bytes 0x14 2 = (readImage bytes).variantCount := by
  obtain ⟨hheader, -, hmatch⟩ := checks_of_accepted h
  obtain ⟨hmin, -⟩ := bytes_of_headerOk hheader
  obtain ⟨hstep, hport, -⟩ := matchesModule_iff.1 hmatch
  have hlen : 0x48 ≤ bytes.length := le_trans (by decide) hmin
  simp only [readImage] at hstep hport ⊢
  rw [num_undigested hlen (by decide)] at hstep ⊢
  rw [span_undigested hlen (by decide)] at hport
  exact ⟨hstep, hport, rfl⟩

/-- A row whose body ends with a status and an effect of its own queues that reply on that effect. -/
theorem exec_of_reply {c : Instr} {h : Hdr} {op : State → Op} {body : State → State → Out} {st : Status} {d : Option Detail}
    {rs : List RField} {s u : State} {w : World} (hx : ∀ s, exec c s = within s (.next (qcp (op s) h (body s) s)))
    (hs : starts (op s) h w s = true) (hb : body s (atFetch (op s) h s) = .reply st d rs u) :
    exec c s = .next (replied h (op s).code st d rs u s) := by
  rw [hx, within_next, qcp_of_starts _ hs, hb, replied]

/-- Settles O56: the refusals from TT_LOAD's body, the rest from the order of the checks. LENGTH as the number of bytes read is log
entry 131, the digest's computation log entry 29, the bytes behind PORT_DIGEST log entry 59. -/
theorem imagesAreRefusedByTheirBytes : Obligations.ImagesAreRefusedByTheirBytes := by
  unfold Obligations.ImagesAreRefusedByTheirBytes
  refine ⟨?busy, ?refused, ?header, ?accepted⟩
  case busy => exact fun h bytes => refuses_of_refuse (fun _ => rfl) fun _ u hc => if_pos hc
  case refused =>
    intro h bytes s w st d hs hc hr u
    have hnone : u.tt.commit.isSome = false := Option.isSome_eq_false_iff.2 (Option.isNone_iff_eq_none.2 hc)
    refine exec_of_reply (op := fun _ => ttLoadOp) (fun _ => rfl) hs ?_
    simp only [u, hnone, Bool.false_eq_true, if_false, hr]
  case header =>
    intro s bytes h
    refine ⟨_, imageRefusal_of_badHeader (Bool.eq_false_iff.2 fun hheader => ?_)⟩
    obtain ⟨-, hmagic, hformat, hlength, hmax, hdigest⟩ := bytes_of_headerOk hheader
    rcases h with h | h | h | h | h
    · exact h hmagic
    · exact h hformat
    · exact h hlength
    · exact Nat.not_le.2 h hmax
    · exact h hdigest
  case accepted =>
    intro s bytes h
    obtain ⟨hstep, hport, hcount⟩ := bytes_of_accepted h
    obtain ⟨-, hdir, hmatch⟩ := checks_of_accepted h
    obtain ⟨-, -, hcal⟩ := matchesModule_iff.1 hmatch
    obtain ⟨-, hent⟩ := dirFault_eq_none hdir
    refine ⟨hstep, hport, fun t ht => ?_, ?_, fun d hd => ?_, fun es hes c e he => ?_⟩
    · exact required_once hdir (requiredTypes_mem.2 (.inl ht)) (by rintro rfl; simp at ht)
    · rw [hcount]
      exact variant_once hdir
    · obtain ⟨n, hn⟩ := List.mem_iff_getElem?.1 hd
      obtain ⟨hsound, hok, -⟩ := hent n d hn
      exact ⟨hsound, hok⟩
    · exact retired_of_calMatches (hcal es hes).1 he

end Sys2Proof.Machine
end

/-! ## A frame's arrival, decision and tail status, and the front-end commands (chapters 3 and 6) -/
section
namespace Sys2Proof.Machine

/-- A header's decision falls in cycle 36 after its reference edge, and in 356 for an HBM lookup (R15, R136). -/
theorem decisionDue_iff (s : State) (f : Frame) : decisionDue s f = true ↔ inLookup f = true ∧
    s.time.now = f.ref + (if isHbmKind f.act.flKind = true then 356 else 36) := by
  rw [decisionDue, Bool.and_eq_true, beq_iff_eq, decisionAt, eq_comm (a := s.time.now)]

/-- A header that is due is decided with the faults of its cycle. -/
theorem decideNow_of_due {faults : List Nat} {fid : Nat} {f : Frame} {t : State} (hf : frameOf t fid = some f)
    (hdue : decisionDue t f = true) : decideNow faults fid t = decideWith faults f t := by
  simp only [decideNow, hf, hdue, if_true]

/-- Settles O30: each row acts, and each command's body comes to its effect, under the clause's conditions. That a
FORWARDING_DECISION in another cycle only brings faults is log entry 7, the front end's stages after the reference edge log entry 56,
and the end of HASH_SALT_SET's time log entry 103. -/
theorem frontEndRowsComplete : Obligations.FrontEndRowsComplete := by
  unfold Obligations.FrontEndRowsComplete
  refine ⟨?forwards, ?inband, ?undersized, ?discarded, ?drained, ?decides, ?brings, ?halted, ?decided, decisionDue_iff, ?bucket, ?tail,
    ?parse, ?counters, ?salt, ?probe⟩
  case forwards =>
    refine fun f ps => acts_of_next (fun _ => rfl) fun s ⟨hp, hlink, hopen, hlen, hin⟩ => ?_
    simp only [hp, hlink, hopen, Nat.not_lt.2 hlen, hin, Bool.not_true, Bool.false_eq_true, if_false]
  case inband =>
    refine fun f ps => acts_of_next (fun _ => rfl) fun s ⟨hp, hlink, hopen, hlen, hin⟩ => ?_
    simp only [hp, hlink, hopen, Nat.not_lt.2 hlen, hin, Bool.not_true, Bool.false_eq_true, if_false, if_true]
  case undersized =>
    refine fun f ps => acts_of_next (fun _ => rfl) fun s ⟨hp, hlink, hopen, hlen⟩ => ?_
    simp only [hp, hlink, hopen, hlen, Bool.not_true, Bool.false_eq_true, if_false, if_true]
  case discarded =>
    refine fun f ps => acts_of_next (fun _ => rfl) fun s ⟨hp, hlink, hclosed, hmode⟩ => ?_
    simp only [hp, hlink, hclosed, bump_mode, hmode, Bool.not_true, Bool.not_false, Bool.false_eq_true, if_false, if_true]
  case drained =>
    refine fun f ps => acts_of_next (fun _ => rfl) fun s ⟨hp, hlink, hclosed, hmode⟩ => ?_
    simp only [hp, hlink, hclosed, bump_mode, hmode, Bool.not_true, Bool.not_false, Bool.false_eq_true, if_false, if_true]
  case decides =>
    refine fun fid faults f => acts_of_next (fun _ => rfl) fun s ⟨hf, hin, hdue⟩ => ?_
    simp only [hf, hin, hdue, Bool.not_true, Bool.false_eq_true, if_false, if_true]
  case brings =>
    refine fun fid faults f => acts_of_next (fun _ => rfl) fun s ⟨hf, hin, hdue⟩ => ?_
    simp only [hf, hin, hdue, Bool.not_true, Bool.false_eq_true, if_false]
  case halted =>
    intro fid faults f t hf hdue hhalt
    rw [decideNow_of_due hf hdue, decideWith, if_pos hhalt]
  case decided =>
    intro fid faults f t hf hdue hhalt
    rw [decideNow_of_due hf hdue, decideWith, if_neg (Bool.eq_false_iff.1 hhalt)]
  case bucket =>
    refine fun fid corrected f => acts_of_next (fun _ => rfl) fun s ⟨hf, hin, hread, hnow⟩ => ?_
    simp only [hf, hin, hnow, and_self, if_true, bucketReturn, hread]
  case tail =>
    refine fun fid f => acts_of_next (fun _ => rfl) fun s ⟨hf, hunknown, horig, hnow⟩ => ?_
    simp only [hf, hunknown, horig, ← hnow, Option.isSome_none, ne_eq, not_true_eq_false, decide_false, Bool.or_self,
      Bool.false_eq_true, if_false]
  case parse =>
    refine fun h port inner ps => completes_of_done (fun _ => rfl) fun _ u hp => ?_
    simp only [hp]
  case counters =>
    refine fun h port clear => completes_of_done (fun _ => rfl) fun _ u hp => ?_
    simp only [Option.isNone_eq_false_iff.2 hp, Bool.false_eq_true, if_false]
  case salt => exact fun h salt => completes_of_done (fun _ => rfl) fun _ _ _ => rfl
  case probe =>
    refine fun h block hlen => completes_of_done (fun _ => rfl) fun _ _ _ => ?_
    simp only [hlen, ne_eq, not_true_eq_false, if_false, id]

end Sys2Proof.Machine
end

/-! ## Ports, lanes and the light supply (chapter 2) -/
section
namespace Sys2Proof.Machine

/-! ### What a port carries (R403) -/

/-- The lowest number among aggregates is the list's minimum. -/
theorem lowestAgg_eq_min? (l : List QAgg) : lowestAgg l = (l.map (fun a => a.agg)).min? := by cases l <;> rfl

/-- An aggregate still guaranteed that has the port as an egress or as an ingress port. -/
def IsCarried (s : State) (p : Nat) (b : QAgg) : Prop :=
  b ∈ guaranteed s ∧ (egressOf s b p = true ∨ ingressOf s b.agg p = true)

/-- The aggregates among which `carries` looks for the lowest are those the port carries. -/
theorem mem_carried_iff (s : State) (p : Nat) (b : QAgg) :
    b ∈ (guaranteed s).filter (fun a => egressOf s a p || ingressOf s a.agg p) ↔ IsCarried s p b := by
  rw [List.mem_filter, Bool.or_eq_true, IsCarried]

theorem carries_eq_none_iff (s : State) (p : Nat) : carries s p = none ↔ ∀ b, ¬ IsCarried s p b := by
  rw [carries, lowestAgg_eq_min?, List.min?_eq_none_iff, List.map_eq_nil_iff, List.eq_nil_iff_forall_not_mem]
  simp only [mem_carried_iff]

/-- The aggregate `carries` names is one the port carries, and none it carries has a lower number. -/
theorem carries_eq_some {s : State} {p n : Nat} (h : carries s p = some n) :
    ∃ a, IsCarried s p a ∧ a.agg = n ∧ ∀ b, IsCarried s p b → a.agg ≤ b.agg := by
  rw [carries, lowestAgg_eq_min?, List.min?_eq_some_iff] at h
  obtain ⟨hmem, hle⟩ := h
  obtain ⟨a, ha, rfl⟩ := List.mem_map.1 hmem
  exact ⟨a, (mem_carried_iff s p a).1 ha, rfl,
    fun b hb => hle _ (List.mem_map_of_mem ((mem_carried_iff s p b).2 hb))⟩

/-! ### A discarded frame leaves the ports alone -/

/-- A fold leaves the ports as they are where each of its steps does. -/
theorem foldl_ports {α : Type} {f : State → α → State} (hf : ∀ s x, (f s x).ports = s.ports) (l : List α) (s : State) :
    (l.foldl f s).ports = s.ports := by
  induction l generalizing s with
  | nil => rfl
  | cons x l ih => rw [List.foldl_cons, ih, hf]

@[simp] theorem freeStaging_ports (n : Nat) (s : State) : (freeStaging n s).ports = s.ports := by
  unfold freeStaging
  split
  · rfl
  · split <;> rfl

@[simp] theorem rxTailCheck_ports (p : Nat) (pol : SecPolicy) (tag : Option SecTag) (icv : Bool) (s : State) :
    (rxTailCheck p pol tag icv s).2.ports = s.ports := by
  unfold rxTailCheck
  repeat' split
  all_goals rfl

@[simp] theorem endTail_ports (f : Frame) (s : State) : (endTail f s).ports = s.ports := by
  unfold endTail
  split
  · split
    · rfl
    · exact rxTailCheck_ports _ _ _ _ _
  · rfl

/-- A final reply leaves the ports alone. -/
@[simp] theorem finish_ports (h : Hdr) (code : Nat) (st : Status) (d : Option Detail) (rs : List RField) (s : State) :
    (finish h code st d rs s).ports = s.ports := answer_ports h code st d rs s

@[simp] theorem loseFrame_ports (f : Frame) (s : State) : (loseFrame f s).ports = s.ports := by
  unfold loseFrame
  split <;> simp

@[simp] theorem freeCells_ports (k n : Nat) (s : State) : (freeCells k n s).ports = s.ports := rfl

theorem leaveQueue_ports (f : Frame) (s : State) : (leaveQueue f s).ports = s.ports := by
  unfold leaveQueue
  split <;> rfl

theorem dropSiding_ports (f : Frame) (s : State) : (dropSiding f s).ports = s.ports := by
  simp only [dropSiding, leaveSiding, freeCells_ports, updQueue_ports, updBuf_ports, updSide_ports]

@[simp] theorem takeOut_ports (f : Frame) (s : State) : (takeOut f s).ports = s.ports := by
  unfold takeOut
  split
  · exact leaveQueue_ports f s
  · exact dropSiding_ports f s
  · rfl

/-! ### What a link that goes down keeps -/

/-- Two states have the same port map, and each port the same administrative state. -/
def SameAdmin (s t : State) : Prop :=
  t.ports.map = s.ports.map ∧ ∀ q, (portOf t q).map (fun x => x.admin) = (portOf s q).map (fun x => x.admin)

theorem SameAdmin.trans {s t u : State} (h : SameAdmin s t) (h' : SameAdmin t u) : SameAdmin s u :=
  ⟨h'.1.trans h.1, fun q => (h'.2 q).trans (h.2 q)⟩

theorem sameAdmin_of_ports {s t : State} (h : t.ports = s.ports) : SameAdmin s t :=
  ⟨by rw [h], fun q => by rw [portOf, portOf, h]⟩

theorem sameAdmin_setLane (l : Nat) (x : LaneSt) (s : State) : SameAdmin s (setLane l x s) := ⟨rfl, fun _ => rfl⟩

theorem sameAdmin_setPort {p : Nat} {x y : PortSt} {s : State} (hx : portOf s p = some x) (hy : y.admin = x.admin) :
    SameAdmin s (setPort p y s) := by
  refine ⟨rfl, fun q => ?_⟩
  rw [portOf_setPort]
  split
  next h => rw [← h, hx, Option.map_some, Option.map_some, hy]
  next => rfl

theorem sameAdmin_updPort {f : PortSt → PortSt} (hf : ∀ x, (f x).admin = x.admin) (p : Nat) (s : State) :
    SameAdmin s (updPort p f s) := by
  unfold updPort
  split
  next x hx => exact sameAdmin_setPort hx (hf x)
  next => exact sameAdmin_of_ports rfl

theorem sameAdmin_foldl {α : Type} {f : State → α → State} (hf : ∀ s x, SameAdmin s (f s x)) (l : List α) (s : State) :
    SameAdmin s (l.foldl f s) := by
  induction l generalizing s with
  | nil => exact sameAdmin_of_ports rfl
  | cons x l ih => exact (hf s x).trans (ih _)

/-- Counting the cycles a link carried bits writes lanes and the cycle from which it counts. -/
theorem sameAdmin_countCarried (p : Nat) (s : State) : SameAdmin s (countCarried p s) := by
  unfold countCarried
  split
  next => exact sameAdmin_of_ports rfl
  next ps hp =>
    split
    · exact sameAdmin_of_ports rfl
    · refine SameAdmin.trans (t := setPort p { ps with upFrom := s.time.now } s) (sameAdmin_setPort hp rfl) ?_
      exact sameAdmin_foldl (fun _ _ => sameAdmin_setLane _ _ _) _ _

/-- Discarding what waits for a port (R59) clears its wire. -/
theorem sameAdmin_portDownFlush (p : Nat) (s : State) : SameAdmin s (portDownFlush p s) := by
  unfold portDownFlush
  refine SameAdmin.trans (sameAdmin_of_ports ?_)
    (sameAdmin_updPort (f := fun x => { x with wire := none, held := none, wireFree := 0 }) (fun _ => rfl) p _)
  rw [apply_ite State.ports, bump_ports, ite_self, foldl_ports]
  exact fun _ _ => by simp

/-- What `downPort` does to a port whose link is up. -/
theorem downPort_of_link {p : Nat} {ps : PortSt} {s : State} (why : LinkCause) (hp : portOf s p = some ps) (hl : ps.link = true) :
    downPort p why s = portDownFlush p (raise (32 * (p / 32)) (bump .linkDownCount p 0
      (updPort p (fun x => { x with link := false, cause := why }) (countCarried p s)))) := by
  simp only [downPort, hp, hl, Bool.not_true, Bool.false_eq_true, if_false]

/-- A link that goes down changes neither the port map nor the administrative state of any port. -/
theorem sameAdmin_downPort (p : Nat) (why : LinkCause) (s : State) : SameAdmin s (downPort p why s) := by
  cases hp : portOf s p with
  | none => exact sameAdmin_of_ports (by simp only [downPort, hp])
  | some ps =>
    cases hl : ps.link with
    | false => exact sameAdmin_of_ports (by simp only [downPort, hp, hl, Bool.not_false, if_true])
    | true =>
      rw [downPort_of_link why hp hl]
      have hlink : SameAdmin (countCarried p s)
          (raise (32 * (p / 32)) (bump .linkDownCount p 0
            (updPort p (fun x => { x with link := false, cause := why }) (countCarried p s)))) :=
        sameAdmin_updPort (f := fun x => { x with link := false, cause := why }) (fun _ => rfl) p _
      exact ((sameAdmin_countCarried p s).trans hlink).trans (sameAdmin_portDownFlush p _)

/-! ### PORT_ADMIN (R46) -/

/-- PORT_ADMIN sets a port of the map up. -/
theorem portAdmin_up_completes (h : Hdr) (port : Nat) (halve : Bool) (ps : PortSt) :
    Completes (.portAdmin h port true halve) h (fun _ => { code := 0x0203, world := .nonSecure })
      (fun s => portOf s port = some ps) (fun _ => []) (setPort port { ps with admin := true, halve := halve }) :=
  completes_of_done (fun _ => rfl) fun _ u hp => by simp only [hp, if_true]

/-- PORT_ADMIN sets a port of the map down that carries no guaranteed aggregate. -/
theorem portAdmin_down_completes (h : Hdr) (port : Nat) (halve : Bool) (ps : PortSt) :
    Completes (.portAdmin h port false halve) h (fun _ => { code := 0x0203, world := .nonSecure })
      (fun s => portOf s port = some ps ∧ carries s port = none) (fun _ => [])
      (fun s => downPort port .portAdmin (setPort port { ps with admin := false, halve := halve } s)) :=
  completes_of_done (fun _ => rfl) fun _ u ⟨hp, hfree⟩ => by simp only [hp, hfree, Bool.false_eq_true, if_false]

/-- PORT_ADMIN refuses to set down a port that carries a guaranteed aggregate, and names the lowest. -/
theorem portAdmin_down_refuses (h : Hdr) (port n : Nat) (halve : Bool) (ps : PortSt) :
    Refuses (.portAdmin h port false halve) h (fun _ => { code := 0x0203, world := .nonSecure })
      (fun s => portOf s port = some ps ∧ carries s port = some n) .resourceClaimed (fun _ => some (.aggregate n)) :=
  refuses_of_refuse (fun _ => rfl) fun _ u ⟨hp, hcarries⟩ => by simp only [hp, hcarries, Bool.false_eq_true, if_false]

/-- Settles O47: PORT_ADMIN completes or is refused by what the port carries, and a link that goes down keeps the map and every
port's administrative state. That a port is an ingress port of an aggregate by its class entries is log entry 12. -/
theorem portAdminFollowsR46 : Obligations.PortAdminFollowsR46 := by
  unfold Obligations.PortAdminFollowsR46
  intro h port up halve s w hs u carried
  refine ⟨fun ps hp hfree hfit => ?completes, fun ps b hp hup hb => ?refuses⟩
  case completes =>
    cases up with
    | true =>
      exact ⟨_, portAdmin_up_completes h port halve ps s w hs hp hfit, rfl, by rw [portOf_setPort, if_pos rfl, Option.map_some]⟩
    | false =>
      have hnone : carries u port = none := (carries_eq_none_iff u port).2 (hfree.resolve_left Bool.false_ne_true)
      obtain ⟨hmap, hadmin⟩ := sameAdmin_downPort port .portAdmin (setPort port { ps with admin := false, halve := halve } u)
      refine ⟨_, portAdmin_down_completes h port halve ps s w hs ⟨hp, hnone⟩ hfit, hmap, ?_⟩
      rw [hadmin, portOf_setPort, if_pos rfl, Option.map_some]
  case refuses =>
    subst hup
    obtain ⟨n, hn⟩ := Option.ne_none_iff_exists'.1 fun hnone => (carries_eq_none_iff u port).1 hnone b hb
    obtain ⟨a, ha, rfl, hlow⟩ := carries_eq_some hn
    exact ⟨a, ha, hlow, portAdmin_down_refuses h port a.agg halve ps s w hs ⟨hp, hn⟩⟩

/-! ### The rows of chapter 2 -/

/-- What `upPort` does to a port whose link is down and that can be up. -/
theorem upPort_of_operable {p : Nat} {ps : PortSt} {s : State} (hp : portOf s p = some ps) (hl : ps.link = false)
    (ho : operable s p ps = true) :
    upPort p s = raise (32 * (p / 32)) (setPort p (startVerify { ps with link := true, upFrom := s.time.now }) s) := by
  simp only [upPort, hp, hl, ho, Bool.not_true, Bool.or_self, Bool.false_eq_true, if_false]

/-- Settles O26: each command's body comes to its effect, and each happening acts, under the clause's conditions. A port carries an
aggregate also by its class entries (log entry 12), a forced recalibration counts its lane lost until it is done (log entry 53),
clearing zeroes the codeword histogram with the counters (log entry 106), and a lane comes back whole (log entry 109). -/
theorem portRowsComplete : Obligations.PortRowsComplete := by
  unfold Obligations.PortRowsComplete
  refine ⟨?mapApplied, ?mapStaged, ?mapRead, ?stagedRead, portAdmin_up_completes, portAdmin_down_completes, ?status, ?counters,
    ?lanes, ?recal, ?recalForced, ?thresholds, ?handover, ?restore, ?carts, ?down, ?up, ?lost, ?recalDone, ?handoverDone,
    ?restoreDone, ?restoreFailed, ?fault, ?insert, ?remove⟩
  case mapApplied =>
    refine fun h m => completes_of_done (fun _ => rfl) fun _ u ⟨hsound, hactive⟩ => ?_
    simp only [hsound, hactive, Option.isNone_none, if_true]
  case mapStaged =>
    refine fun h m => completes_of_done (fun _ => rfl) fun _ u ⟨hsound, hactive⟩ => ?_
    simp only [hsound, Option.isNone_eq_false_iff.2 (Option.isSome_iff_ne_none.2 hactive), Bool.false_eq_true, if_false]
  case mapRead => exact fun h => completes_of_done (fun _ => rfl) fun _ _ _ => rfl
  case stagedRead =>
    refine fun h m => completes_of_done (fun _ => rfl) fun _ u hstaged => ?_
    simp only [hstaged, if_true, id]
  case status =>
    refine fun h first count => completes_of_done (fun _ => rfl) fun _ u hrange => ?_
    simp only [hrange, Bool.not_true, Bool.false_eq_true, if_false, id]
  case counters =>
    refine fun h port clear => completes_of_done (fun _ => rfl) fun _ u hp => ?_
    simp only [hp, Bool.false_eq_true, if_false, portClear]
  case lanes =>
    refine fun h first count => completes_of_done (fun _ => rfl) fun _ u hrange => ?_
    simp only [hrange, Bool.not_true, Bool.false_eq_true, if_false]
    rfl
  case recal =>
    refine fun h lane p ps hlane => defers_of_pend (fun _ => rfl) fun _ u ⟨htablet, hport, hfree⟩ => ?_
    simp only [Nat.not_le.2 hlane, withTablets, htablet, hport, hfree, Bool.false_eq_true, if_false]
  case recalForced =>
    refine fun h lane p ps hlane => defers_of_pend (fun _ => rfl) fun _ u ⟨htablet, hport⟩ => ?_
    simp only [Nat.not_le.2 hlane, withTablets, htablet, hport, if_true, if_false]
  case thresholds =>
    refine fun h port a c win ps hc hca ha hwin hwin' => completes_of_done (fun _ => rfl) fun _ u hp => ?_
    have hact : ¬ (a < 10000 ∨ a > 200000000) := by omega
    have hclr : ¬ (c < 10000 ∨ c > 200000000 ∨ c ≥ a) := by omega
    have hwindow : ¬ (win < 1 ∨ win > 1024) := by omega
    simp only [hp, hact, hclr, hwindow, if_false]
  case handover =>
    refine fun h c hc => defers_of_pend (fun _ => rfl) fun _ u ⟨htablet, hpartner⟩ => ?_
    simp only [Nat.not_le.2 hc, withTablets, htablet, hpartner, Bool.false_eq_true, if_false]
  case restore =>
    refine fun h c hc => defers_of_pend (fun _ => rfl) fun _ u ⟨hblock, hpartner, hpresent, hout⟩ => ?_
    have hasked : (!(cartOf u c).handed && !(cartOf u c).held) = false := by rw [← Bool.not_or, hout, Bool.not_true]
    simp only [Nat.not_le.2 hc, hblock, hpartner, hpresent, hasked, Bool.not_true, Bool.or_self, Bool.false_eq_true, if_false]
  case carts => exact fun h => completes_of_done (fun _ => rfl) fun _ _ _ => rfl
  case down => exact fun p ps => acts_of_next (fun _ => rfl) fun s ⟨hp, hl⟩ => congrArg _ (downPort_of_link .outside hp hl)
  case up => exact fun p ps => acts_of_next (fun _ => rfl) fun s ⟨hp, hl, ho⟩ => congrArg _ (upPort_of_operable hp hl ho)
  case lost =>
    refine fun l => acts_of_next (fun _ => rfl) fun s ⟨hl, hwhole⟩ => ?_
    simp only [ge_iff_le, Nat.not_le.2 hl, hwhole, Bool.false_eq_true, or_self, if_false]
  case recalDone => exact fun l h => acts_of_next (fun _ => rfl) fun s hr => by simp only [hr]
  case handoverDone => exact fun c h x => acts_of_next (fun _ => rfl) fun s hr => by simp only [hr]
  case restoreDone => exact fun c h x => acts_of_next (fun _ => rfl) fun s hr => by simp only [hr, if_true]
  case restoreFailed =>
    exact fun c h x => acts_of_next (fun _ => rfl) fun s hr => by simp only [hr, Bool.false_eq_true, if_false]
  case fault =>
    refine fun c absent => acts_of_next (fun _ => rfl) fun s ⟨hc, hpresent, hhanded, hnew⟩ => ?_
    have hacts : ¬ ((cartOf s c).fault = true ∧ (!absent) = true) := by rcases hnew with h | h <;> simp [h]
    simp only [ge_iff_le, Nat.not_le.2 hc, hpresent, hhanded, hacts, Bool.not_true, Bool.false_eq_true, or_self, if_false]
  case insert =>
    refine fun c => acts_of_next (fun _ => rfl) fun s ⟨hc, habsent⟩ => ?_
    simp only [ge_iff_le, Nat.not_le.2 hc, habsent, Bool.false_eq_true, or_self, if_false]
  case remove =>
    refine fun c => acts_of_next (fun _ => rfl) fun s ⟨hc, hpresent, hhanded⟩ => ?_
    simp only [ge_iff_le, Nat.not_le.2 hc, hpresent, hhanded, Bool.not_true, Bool.false_eq_true, or_self, if_false]

end Sys2Proof.Machine
end

/-! ## The ingress meters (R75, R76) -/
section
namespace Sys2Proof.Machine

@[simp] theorem refill_param (h : Nat) (m : MeterSt) : (refill h m).param = m.param := by unfold refill; split <;> rfl

/-- A meter not yet refilled for the headway gains SLOPE up to its cap; any other keeps its credit. -/
theorem refill_credit (h : Nat) (m : MeterSt) :
    (refill h m).credit = if m.upto < h then min (m.credit + imSlope m.param) (imCap m.param) else m.credit := by
  unfold refill
  by_cases hdue : m.upto < h
  · rw [if_neg (Nat.not_le.2 hdue), if_pos hdue]
  · rw [if_pos (Nat.not_lt.1 hdue), if_neg hdue]

/-- A refill brings a meter up to its headway. -/
theorem le_refill_upto (h : Nat) (m : MeterSt) : h ≤ (refill h m).upto := by
  unfold refill
  split
  case isTrue hdone => exact hdone
  case isFalse => exact Nat.le_refl h

theorem refill_of_le {h : Nat} {m : MeterSt} (hdone : h ≤ m.upto) : refill h m = m := if_pos hdone

theorem refill_credit_le_cap {h : Nat} {m : MeterSt} (hcap : m.credit ≤ imCap m.param) : (refill h m).credit ≤ imCap m.param := by
  rw [refill_credit]
  split
  · exact Nat.min_le_right _ _
  · exact hcap

/-- A frame conforms where it is no longer than MAXSIZE and the refilled credit covers its charge (R76). -/
def MeterConforms (s : State) (len : Nat) (m : MeterSt) : Prop :=
  len ≤ imMaxSize m.param ∧ imCharge m.param len ≤ (refill (meterHw s) m).credit

/-- A conforming frame takes its charge from the refilled meter. -/
theorem meterTake_of_conforms {s : State} {len : Nat} {m : MeterSt} (h : MeterConforms s len m) :
    meterTake s len m = (true, { refill (meterHw s) m with credit := (refill (meterHw s) m).credit - imCharge m.param len }) := by
  obtain ⟨hsize, hcharge⟩ := h
  simp only [meterTake, refill_param, gt_iff_lt, ge_iff_le, if_neg (Nat.not_lt.2 hsize), if_pos hcharge]

/-- Any other frame leaves the refilled meter as it is. -/
theorem meterTake_of_not_conforms {s : State} {len : Nat} {m : MeterSt} (h : ¬ MeterConforms s len m) :
    meterTake s len m = (false, refill (meterHw s) m) := by
  by_cases hsize : len ≤ imMaxSize m.param
  · have hcharge : ¬ imCharge m.param len ≤ (refill (meterHw s) m).credit := fun hc => h ⟨hsize, hc⟩
    simp only [meterTake, refill_param, gt_iff_lt, ge_iff_le, if_neg (Nat.not_lt.2 hsize), if_neg hcharge]
  · simp only [meterTake, refill_param, gt_iff_lt, if_pos (Nat.not_le.1 hsize)]

/-- In packet mode every frame costs one packet. -/
theorem imCharge_of_packets {w : BitVec 64} (len : Nat) (hw : imByte w = false) : imCharge w len = 65536 := by
  simp only [imCharge, hw, Bool.false_eq_true, if_false]

/-- In byte mode a frame costs its length with OVERHEAD, and at least one byte. -/
theorem imCharge_of_bytes {w : BitVec 64} (len : Nat) (hw : imByte w = true) :
    64 ≤ imCharge w len ∧ (1 ≤ (len : Int) + imOverhead w → (imCharge w len : Int) = 64 * (len + imOverhead w)) := by
  have hcharge : imCharge w len = (max 1 ((len : Int) + imOverhead w)).toNat * 64 := if_pos hw
  omega

/-- Settles O12: the refilled meter is charged exactly where the frame conforms. -/
theorem meterChargesExactly : Obligations.MeterChargesExactly := by
  unfold Obligations.MeterChargesExactly
  intro s len m hcap
  have hrefilled : (refill (meterHw s) m).credit ≤ imCap m.param := refill_credit_le_cap hcap
  refine ⟨refill_credit _ m, fun h => refill_of_le (le_refill_upto h m), ?_⟩
  by_cases hc : MeterConforms s len m
  · have ⟨_, hcharge⟩ := hc
    rw [meterTake_of_conforms hc]
    exact ⟨iff_of_true rfl hc, fun _ => Nat.sub_add_cancel hcharge, nofun, refill_param _ m, (Nat.sub_le _ _).trans hrefilled,
      imCharge_of_packets len, imCharge_of_bytes len⟩
  · rw [meterTake_of_not_conforms hc]
    exact ⟨iff_of_false nofun hc, nofun, fun _ => rfl, refill_param _ m, hrefilled, imCharge_of_packets len, imCharge_of_bytes len⟩

end Sys2Proof.Machine
end

/-! ## The hash's input block and what the hash picks (R67, Table 3-5) -/
section
namespace Sys2Proof.Machine

@[simp] theorem beBytes_length (n v : Nat) : (beBytes n v).length = n := by simp [beBytes]

/-- A number of at most `n` bytes can be read back from them. -/
theorem beBytes_inj {n v w : Nat} (hv : v < 256 ^ n) (hw : w < 256 ^ n) (h : beBytes n v = beBytes n w) : v = w := by
  have hbyte : ∀ j < n, v / 256 ^ j % 256 = w / 256 ^ j % 256 := by
    intro j hj
    have hi : n - 1 - j < n := by omega
    have hj' : n - 1 - (n - 1 - j) = j := by omega
    have hpow : 2 ^ (8 * j) = 256 ^ j := Nat.pow_mul 2 8 j
    have hbytes := List.map_inj_left.1 h (n - 1 - j) (List.mem_range.2 hi)
    rw [hj', hpow] at hbytes
    simpa using congrArg BitVec.toNat hbytes
  rw [← Nat.mod_eq_of_lt hv, ← Nat.mod_eq_of_lt hw, ← foldl_bytes_eq_mod, ← foldl_bytes_eq_mod]
  refine List.foldl_ext _ _ _ fun x j hj => ?_
  rw [hbyte j (List.mem_range.1 hj)]

theorem hashBlock_length (a b p q proto kind : Nat) : (hashBlock a b p q proto kind).length = 40 := by simp [hashBlock]

/-- The order of the addresses does not matter. -/
theorem hashBlock_swap_addresses (a b p q proto kind : Nat) : hashBlock a b p q proto kind = hashBlock b a p q proto kind := by
  simp only [hashBlock, Nat.min_comm a b, Nat.max_comm a b]

/-- The order of the ports does not matter. -/
theorem hashBlock_swap_ports (a b p q proto kind : Nat) : hashBlock a b p q proto kind = hashBlock a b q p proto kind := by
  simp only [hashBlock, Nat.min_comm p q, Nat.max_comm p q]

/-- A block's first four fields are the ordered addresses and the ordered ports, each in its own bytes. -/
theorem hashBlock_inj {a b p q a' b' p' q' proto kind : Nat} (hab : a ≤ b) (hb : b < 2 ^ 128) (hpq : p ≤ q) (hq : q < 2 ^ 16)
    (hab' : a' ≤ b') (hb' : b' < 2 ^ 128) (hpq' : p' ≤ q') (hq' : q' < 2 ^ 16)
    (h : hashBlock a b p q proto kind = hashBlock a' b' p' q' proto kind) : a = a' ∧ b = b' ∧ p = p' ∧ q = q' := by
  simp only [hashBlock, Nat.min_eq_left, Nat.max_eq_right, hab, hpq, hab', hpq', List.append_assoc] at h
  obtain ⟨ha, h⟩ := List.append_inj h (by simp)
  obtain ⟨hb₁, h⟩ := List.append_inj h (by simp)
  obtain ⟨hp, h⟩ := List.append_inj h (by simp)
  obtain ⟨hq₁, -⟩ := List.append_inj h (by simp)
  exact ⟨beBytes_inj (by omega) (by omega) ha, beBytes_inj (by omega) (by omega) hb₁, beBytes_inj (by omega) (by omega) hp,
    beBytes_inj (by omega) (by omega) hq₁⟩

/-- A fraction below one of `n` lies below `n`. -/
theorem mul_div_lt_of_lt {x d n : Nat} (hx : x < d) (hn : 0 < n) : x * n / d < n :=
  Nat.div_lt_of_lt_mul (Nat.mul_lt_mul_of_pos_right hx hn)

/-- Settles O13: the block orders its addresses and its ports, and each pick is a fraction below one of its range. -/
theorem hashBlockIsSymmetric : Obligations.HashBlockIsSymmetric := by
  unfold Obligations.HashBlockIsSymmetric
  refine ⟨fun a b p q proto kind => ⟨hashBlock_length .., hashBlock_swap_addresses .., hashBlock_swap_ports ..⟩,
    fun a b p q a' b' p' q' proto kind => hashBlock_inj, fun h => Nat.mod_lt _ (by decide), fun h n hn => ⟨?ecmp, ?lag, ?bucket⟩⟩
  case ecmp => exact mul_div_lt_of_lt (Nat.div_lt_of_lt_mul h.isLt) hn
  case lag => exact mul_div_lt_of_lt (Nat.mod_lt _ (by decide)) hn
  case bucket => exact mul_div_lt_of_lt (Nat.div_lt_of_lt_mul h.isLt) hn

end Sys2Proof.Machine
end

/-! ## The rule-version and array-maintenance rows (Tables 3-9, 3-10) -/
section
namespace Sys2Proof.Machine

/-- The first update slot of a slice in a reserved cycle is the reserved one (R88). -/
theorem updateSlot_of_reserved {k : Nat} {s : State} (hres : slotReserved s = true) (hrun : slotsRun s k = 0) :
    updateSlot k s = reservedSlot k (hwPos s) (markSlot k s) := by
  simp only [updateSlot, hres, hrun, beq_self_eq_true, Bool.and_self, if_true]

/-- The second slot of a reserved cycle is a stolen one (R91). -/
theorem updateSlot_of_reserved_again {k : Nat} {s : State} (hres : slotReserved s = true) (hrun : slotsRun s k = 1) :
    updateSlot k s = stolenSlot k (hwPos s) (markSlot k s) := by
  simp [updateSlot, hres, hrun]

/-- The first slot of any other cycle is a stolen one (R91). -/
theorem updateSlot_of_unreserved {k : Nat} {s : State} (hres : slotReserved s = false) (hrun : slotsRun s k = 0) :
    updateSlot k s = stolenSlot k (hwPos s) (markSlot k s) := by
  simp [updateSlot, hres, hrun]

/-- UPDATE_SLOT runs the next update slot of a slice, once the cycle's searches are known. -/
theorem updateSlot_acts {k : Nat} {when_ : State → Prop} {eff : State → State}
    (h : ∀ s, when_ s → k < 32 ∧ updateSlot k (lookupOnce s) = eff s) : Acts (.updateSlot k) when_ eff := by
  refine acts_of_next (fun _ => rfl) fun s hs => ?_
  obtain ⟨hk, hslot⟩ := h s hs
  rw [if_neg (Nat.not_le.2 hk), hslot]

/-- Settles O27: each row's body comes to its effect under the clause's conditions. The switch orbits of RULE_VERSION_STATUS are log
entry 111, the steps of a plane's copy and clear log entry 82, and the arrays' order and the one stolen slot of a cycle log entry 120. -/
theorem versionRowsComplete : Obligations.VersionRowsComplete := by
  unfold Obligations.VersionRowsComplete
  refine ⟨?opens, ?commit, ?discard, ?discardDone, ?retire, ?status, ?reserved, ?stolenBeside, ?stolenAlone, ?repaired, ?corrected⟩
  case opens =>
    refine fun h => completes_of_done (fun _ => rfl) fun _ u ⟨hroom, hopened, hdiscard⟩ => ?_
    simp only [ge_iff_le, Nat.not_le.2 hroom, hopened, hdiscard, Option.isSome_none, Bool.or_self, Bool.false_eq_true, if_false]
  case commit =>
    refine fun h v => defers_of_pend (fun _ => rfl) fun _ u ⟨hopen, htablet⟩ => ?_
    simp only [hopen, withTablets, htablet, beginCommit, Bool.not_true, Bool.false_eq_true, if_false]
  case discard =>
    refine fun h v => defers_of_pend (fun _ => rfl) fun _ u ⟨hidle, hopen⟩ => ?_
    simp only [hidle, hopen, Bool.not_true, Bool.false_eq_true, if_false]
  case discardDone =>
    refine fun v h => acts_of_next (fun _ => rfl) fun s ⟨hdiscard, hclear⟩ => ?_
    simp only [hdiscard, hclear, Bool.false_eq_true, if_false]
  case retire =>
    refine fun h v r => completes_of_done (fun _ => rfl) fun _ u ⟨hfound, hold, hread⟩ => ?_
    simp only [hfound, Nat.not_lt.2 hold, hread, gt_iff_lt, Nat.lt_irrefl, if_false]
  case status => exact fun h => completes_of_done (fun _ => rfl) fun _ _ _ => rfl
  case reserved => exact fun k => updateSlot_acts fun s ⟨hk, hres, hrun⟩ => ⟨hk, updateSlot_of_reserved hres hrun⟩
  case stolenBeside => exact fun k => updateSlot_acts fun s ⟨hk, hres, hrun⟩ => ⟨hk, updateSlot_of_reserved_again hres hrun⟩
  case stolenAlone => exact fun k => updateSlot_acts fun s ⟨hk, hres, hrun⟩ => ⟨hk, updateSlot_of_unreserved hres hrun⟩
  case repaired =>
    refine fun k a row hk => acts_of_next (fun _ => rfl) fun s _ => ?_
    simp only [ge_iff_le, Nat.not_le.2 hk, if_false, if_true]
  case corrected =>
    refine fun k a row hk => acts_of_next (fun _ => rfl) fun s _ => ?_
    simp only [ge_iff_le, Nat.not_le.2 hk, Bool.false_eq_true, if_false]

end Sys2Proof.Machine
end

/-! ## The rule, array and route commands (Table 4-9) -/
section
namespace Sys2Proof.Machine

/-- Where no tablet conflicts, what a command's tablets guard is what it comes to. -/
theorem withTablets_of_free {a : Activity} {ds : List Domain} {s : State} (k : Out) (h : tabletConflict a ds s = none) :
    withTablets a ds s k = k := by
  rw [withTablets, h]

/-- A search whose steps fit begins (R406). -/
theorem startQuery_of_fits {h : Hdr} {k v : Nat} {q : Query} {ss : List Step} {s : State} (hfit : stepsFit s [(k, ss)] = true) :
    startQuery h k v q ss s =
      .start (queueOne k ss { s with arr := { s.arr with queries := s.arr.queries ++ [⟨h, k, v, q, []⟩] } }) := by
  simp only [startQuery, hfit, Bool.not_true, Bool.false_eq_true, if_false]

/-- Route plans found, that fit and meet no tablet, are queued (R90, R101). -/
theorem runRoutePlan_of_fits {f : Nat → Plan → Option Plan} {results : Plan → List RField} {s : State} {k : Nat} {p : Plan}
    {l : List (Nat × Plan)} (hplan : planAll f s = some ((k, p) :: l))
    (hfit : stepsFit s (((k, p) :: l).map (fun e => (e.1, e.2.steps))) = true)
    (hfree : tabletConflict .rv (sliceDoms allSlices) s = none) :
    runRoutePlan f results s = .done (results p) (queueSteps (((k, p) :: l).map (fun e => (e.1, e.2.steps))) s) := by
  unfold runRoutePlan
  simp only [hplan, hfit, withTablets_of_free _ hfree, Bool.not_true, Bool.false_eq_true, if_false]

/-- A route change whose checks come to its plan completes by queueing it. -/
theorem routePlanQueued_of_run {c : Instr} {h : Hdr} {code : Nat} {body : State → State → Out} {when_ : State → Prop}
    {f : Nat → Plan → Option Plan} {results : Plan → List RField}
    (hx : ∀ s, exec c s = within s (.next (qcp { code := code, world := .nonSecure } h (body s) s)))
    (hb : ∀ s u, when_ u → body s u = runRoutePlan f results u) : RoutePlanQueued c h code when_ f results :=
  fun _ _ _ => completes_of_done hx fun s u ⟨hwhen, hplan, hfit, hfree⟩ =>
    (hb s u hwhen).trans (runRoutePlan_of_fits hplan hfit hfree)

/-- Settles O28: each row's body comes to its effect under the clause's conditions. That MEAN_UNITS is rounded down, and free where no
bucket is in use, is log entry 60. -/
theorem ruleAndRouteRowsComplete : Obligations.RuleAndRouteRowsComplete := by
  unfold Obligations.RuleAndRouteRowsComplete
  refine ⟨?ruleAdd, ?ruleRemove, ?ruleChange, ?ruleSearch, ?ruleIter, ?ruleRead, ?ruleReadEmpty, ?partitions, ?arrayStatus, ?stealOn,
    ?stealOff, ?routeAdd, ?routeRemove, ?routeChange, ?routeLookup, ?routeStatus, ?routeHole⟩
  case ruleAdd =>
    refine fun h v slices part idx wide prio action value mask i => completes_of_done (fun _ => rfl) fun _ u ⟨hcheck, hfit, hfree⟩ => ?_
    simp only [hcheck, hfit, withTablets_of_free _ hfree, Bool.not_true, Bool.false_eq_true, if_false]
  case ruleRemove =>
    refine fun h v slices idx hslices hidx => completes_of_done (fun _ => rfl) fun _ u ⟨hopen, hpresent, hfit, hfree⟩ => ?_
    simp only [hopen, hslices, ge_iff_le, Nat.not_le.2 hidx, hpresent, hfit, withTablets_of_free _ hfree, Bool.not_true,
      Bool.false_eq_true, if_false]
  case ruleChange =>
    refine fun h v slices part idx old wide prio action value mask i lo hi =>
      completes_of_done (fun _ => rfl) fun _ u ⟨hcheck, hpart, hlo, hhi, hpresent, hfit, hfree⟩ => ?_
    have hin : (decide (old < lo) || decide (old ≥ hi)) = false := by simp [hlo, hhi]
    simp only [hcheck, hpart, hin, hpresent, hfit, withTablets_of_free _ hfree, Bool.not_true, Bool.false_eq_true, if_false]
  case ruleSearch =>
    refine fun h v slice part wide key hslice => begins_of_start (fun _ => rfl) fun _ u ⟨hlive, hpart, hfit⟩ => ?_
    simp only [hlive, ge_iff_le, Nat.not_le.2 hslice, hpart, startQuery_of_fits hfit, Bool.not_true, Bool.false_eq_true, if_false]
  case ruleIter =>
    refine fun h v slice part wide key sm cursor count hslice hmin hmax =>
      begins_of_start (fun _ => rfl) fun _ u ⟨hlive, hpart, hfit⟩ => ?_
    have hcount : ¬ (count < 1 ∨ count > 64) := by omega
    simp only [hlive, ge_iff_le, Nat.not_le.2 hslice, hpart, hcount, startQuery_of_fits hfit, Bool.not_true, Bool.false_eq_true,
      if_false]
  case ruleRead =>
    refine fun h slice idx val msk w pr a hslice hidx => completes_of_done (fun _ => rfl) fun _ u hrow => ?_
    simp only [ge_iff_le, Nat.not_le.2 hslice, Nat.not_le.2 hidx, draw, hrow, if_false]
  case ruleReadEmpty =>
    refine fun h slice idx hslice hidx => completes_of_done (fun _ => rfl) fun _ u hrow => ?_
    simp only [ge_iff_le, Nat.not_le.2 hslice, Nat.not_le.2 hidx, draw, hrow, if_false]
  case partitions =>
    refine fun h parts => completes_of_done (fun _ => rfl) fun _ u ⟨hsome, hlen, hsound⟩ => ?_
    simp only [hsome, gt_iff_lt, Nat.not_lt.2 hlen, hsound, Bool.false_eq_true, or_self, if_false]
  case arrayStatus =>
    refine fun h slice hslice => completes_of_done (fun _ => rfl) fun _ u _ => ?_
    simp only [ge_iff_le, Nat.not_le.2 hslice, if_false, id]
  case stealOn =>
    refine fun h slices hslices => completes_of_done (fun _ => rfl) fun _ u _ => ?_
    simp only [hslices, if_false, if_true]
  case stealOff =>
    refine fun h slices hslices => completes_of_done (fun _ => rfl) fun _ u _ => ?_
    simp only [hslices, Bool.false_eq_true, if_false]
  case routeAdd =>
    refine fun h v table v6 pfx len result htable hpfx => routePlanQueued_of_run (fun _ => rfl) fun _ u ⟨hopen, hnew⟩ => ?_
    simp only [hopen, ge_iff_le, Nat.not_le.2 htable, hpfx, hnew, Bool.not_true, Bool.false_eq_true, if_false]
  case routeRemove =>
    refine fun h v table v6 pfx len => routePlanQueued_of_run (fun _ => rfl) fun _ u ⟨hopen, hpresent⟩ => ?_
    simp only [hopen, hpresent, Bool.not_true, Bool.false_eq_true, if_false]
  case routeChange =>
    refine fun h v table v6 pfx len result htable hpfx => routePlanQueued_of_run (fun _ => rfl) fun _ u ⟨hopen, hpresent⟩ => ?_
    simp only [hopen, ge_iff_le, Nat.not_le.2 htable, hpfx, hpresent, Bool.not_true, Bool.false_eq_true, if_false]
  case routeLookup =>
    refine fun h v table v6 addr k rest => begins_of_start (fun _ => rfl) fun _ u ⟨hlive, hslices, hfit⟩ => ?_
    simp only [hlive, hslices, startQuery_of_fits hfit, Bool.not_true, Bool.false_eq_true, if_false]
  case routeStatus => exact fun h => completes_of_done (fun _ => rfl) fun _ _ _ => rfl
  case routeHole => exact fun h n hn => completes_of_done (fun _ => rfl) fun _ _ _ => if_pos hn

end Sys2Proof.Machine
end

/-! ## Write-backs of a flow record (R119, R218) -/
section
namespace Sys2Proof.Machine

/-! ### One write-back -/

/-- A write-back writes age, counters and USER, and of the rest the telemetry alone. -/
theorem applyWb_eq (w : WriteBack) (r : FlowRec) : applyWb w r = { r with
    lastSeen := w.orbit
    pkts := (r.pkts + 1) % 2 ^ 48
    wrap := r.wrap || r.pkts + 1 == 2 ^ 48
    bytes := (r.bytes + w.len) % 2 ^ 64
    user := w.user.getD r.user
    ext := (applyWb w r).ext } := by
  unfold applyWb
  split
  · split <;> rfl
  · rfl

theorem applyWb_pkts (w : WriteBack) (r : FlowRec) : (applyWb w r).pkts = (r.pkts + 1) % 2 ^ 48 := by rw [applyWb_eq]

theorem applyWb_wrap_iff (w : WriteBack) (r : FlowRec) : (applyWb w r).wrap = true ↔ r.wrap = true ∨ r.pkts + 1 = 2 ^ 48 := by
  rw [applyWb_eq, Bool.or_eq_true, beq_iff_eq]

theorem applyWb_bytes (w : WriteBack) (r : FlowRec) : (applyWb w r).bytes = (r.bytes + w.len) % 2 ^ 64 := by rw [applyWb_eq]

theorem applyWb_lastSeen (w : WriteBack) (r : FlowRec) : (applyWb w r).lastSeen = w.orbit := by rw [applyWb_eq]

theorem applyWb_user (w : WriteBack) (r : FlowRec) : (applyWb w r).user = w.user.getD r.user := by rw [applyWb_eq]

theorem recKey_applyWb (w : WriteBack) (r : FlowRec) : recKey (applyWb w r) = recKey r := by rw [applyWb_eq, recKey, recKey]

/-- An extended lookup's write-back of an extended record updates its telemetry. -/
theorem applyWb_ext_of_extended {w : WriteBack} {r : FlowRec} {e : FlowExt} (he : r.ext = some e) (hw : w.ext = true) :
    (applyWb w r).ext = some { e with
      minLen := if e.minLen = 0 then w.len else min e.minLen w.len
      maxLen := max e.maxLen w.len
      tcpOr := e.tcpOr ||| w.tcp
      dscp := w.dscp } := by
  simp only [applyWb, he, hw, if_true]

/-- A compact lookup's write-back writes a record's first half alone. -/
theorem applyWb_ext_of_compact {w : WriteBack} (r : FlowRec) (hw : w.ext = false) : (applyWb w r).ext = r.ext := by
  cases he : r.ext with
  | none => simp only [applyWb, he]
  | some e => simp only [applyWb, he, hw, Bool.false_eq_true, if_false]

theorem applyWb_ext_isSome (w : WriteBack) (r : FlowRec) : (applyWb w r).ext.isSome = r.ext.isSome := by
  cases he : r.ext with
  | none => simp only [applyWb, he]
  | some e =>
    cases hw : w.ext with
    | true => rw [applyWb_ext_of_extended he hw, Option.isSome_some, Option.isSome_some]
    | false => rw [applyWb_ext_of_compact r hw, he]

/-! ### Any number of them, in order -/

/-- A record after write-backs applied in order. -/
def applyWbs (ws : List WriteBack) (r : FlowRec) : FlowRec := ws.foldl (fun r w => applyWb w r) r

theorem applyWbs_append_singleton (ws : List WriteBack) (w : WriteBack) (r : FlowRec) :
    applyWbs (ws ++ [w]) r = applyWb w (applyWbs ws r) := List.foldl_concat ..

/-- What each of the write-backs keeps, all of them keep. -/
theorem applyWbs_keeps {α : Type} (g : FlowRec → α) {ws : List WriteBack} (h : ∀ w ∈ ws, ∀ r, g (applyWb w r) = g r) (r : FlowRec) :
    g (applyWbs ws r) = g r :=
  List.foldlRecOn (motive := fun t => g t = g r) ws _ rfl fun t ht w hw => (h w hw t).trans ht

theorem applyWbs_pkts (ws : List WriteBack) {r : FlowRec} (hr : r.pkts < 2 ^ 48) :
    (applyWbs ws r).pkts = (r.pkts + ws.length) % 2 ^ 48 := by
  induction ws using List.reverseRecOn with
  | nil => exact (Nat.mod_eq_of_lt hr).symm
  | append_singleton ws w ih =>
    rw [applyWbs_append_singleton, applyWb_pkts, ih, Nat.mod_add_mod, List.length_append, List.length_singleton, Nat.add_assoc]

/-- WRAP is set by the write-back with which the sum reaches 2^48, and stays. -/
theorem applyWbs_wrap_iff (ws : List WriteBack) {r : FlowRec} (hr : r.pkts < 2 ^ 48) :
    (applyWbs ws r).wrap = true ↔ r.wrap = true ∨ 2 ^ 48 ≤ r.pkts + ws.length := by
  induction ws using List.reverseRecOn with
  | nil => exact (or_iff_left (Nat.not_le.2 hr)).symm
  | append_singleton ws w ih =>
    have hreach : 2 ^ 48 ≤ r.pkts + ws.length ∨ (r.pkts + ws.length) % 2 ^ 48 + 1 = 2 ^ 48 ↔ 2 ^ 48 ≤ r.pkts + (ws.length + 1) := by
      omega
    rw [applyWbs_append_singleton, applyWb_wrap_iff, ih, applyWbs_pkts ws hr, or_assoc, hreach, List.length_append,
      List.length_singleton]

theorem applyWbs_bytes (ws : List WriteBack) {r : FlowRec} (hr : r.bytes < 2 ^ 64) :
    (applyWbs ws r).bytes = (r.bytes + (ws.map (fun w => w.len)).sum) % 2 ^ 64 := by
  induction ws using List.reverseRecOn with
  | nil => exact (Nat.mod_eq_of_lt hr).symm
  | append_singleton ws w ih =>
    rw [applyWbs_append_singleton, applyWb_bytes, ih, Nat.mod_add_mod, List.map_append, List.sum_append, List.map_singleton,
      List.sum_singleton, Nat.add_assoc]

theorem applyWbs_lastSeen (ws : List WriteBack) (r : FlowRec) :
    (applyWbs ws r).lastSeen = (ws.getLast?.map (fun w => w.orbit)).getD r.lastSeen := by
  cases ws using List.reverseRecOn with
  | nil => rfl
  | append_singleton ws w =>
    rw [applyWbs_append_singleton, applyWb_lastSeen, List.getLast?_concat, Option.map_some, Option.getD_some]

/-- Settles O14: each field after any number of write-backs, by induction on the last of them. That a RESIDENT hit of an extended record
writes its first half alone is log entry 35. -/
theorem writeBacksAddUp : Obligations.WriteBacksAddUp := by
  unfold Obligations.WriteBacksAddUp
  refine ⟨fun ws r hpkts hbytes => ?_, fun w r e => applyWb_ext_of_extended⟩
  refine ⟨applyWbs_pkts ws hpkts, fun _ => applyWbs_wrap_iff ws hpkts, applyWbs_bytes ws hbytes, applyWbs_lastSeen ws r, ?key, ?isExt,
    ?user, ?telemetry⟩
  case key => exact applyWbs_keeps recKey (fun w _ r => recKey_applyWb w r) r
  case isExt => exact applyWbs_keeps (fun t => t.ext.isSome) (fun w _ r => applyWb_ext_isSome w r) r
  case user =>
    refine fun hws => applyWbs_keeps FlowRec.user (fun w hw r => ?_) r
    rw [applyWb_user, hws w hw, Option.getD_none]
  case telemetry => exact fun hws => applyWbs_keeps FlowRec.ext (fun w hw r => applyWb_ext_of_compact r (hws w hw)) r

end Sys2Proof.Machine
end

/-! ## The placement of a flow record (R110, R111, R122, Table 5-5) -/
section
namespace Sys2Proof.Machine

/-! ### Indices (Table 5-5) -/

theorem toNat_dieIndex {k row : Nat} (hk : k < 32) (hrow : row < 2 ^ 26) :
    (dieIndex k row).toNat = 2 ^ 31 + k * 2 ^ 26 + row := by
  rw [dieIndex, BitVec.toNat_ofNat]
  omega

theorem toNat_hbmIndex {k place : Nat} (hk : k < 32) (hplace : place < 2 ^ 26) :
    (hbmIndex k place).toNat = k * 2 ^ 26 + place := by
  rw [hbmIndex, BitVec.toNat_ofNat]
  omega

theorem idxOnDie_iff (i : BitVec 32) : idxOnDie i = true ↔ 2 ^ 31 ≤ i.toNat := by
  rw [idxOnDie, ← BitVec.msb_eq_getLsbD_last i, BitVec.msb_eq_decide, decide_eq_true_iff]

/-- An on-die index says its slice and row. -/
theorem dieIndex_fields {k row : Nat} (hk : k < 32) (hrow : row < 2 ^ 26) :
    idxOnDie (dieIndex k row) = true ∧ idxSlice (dieIndex k row) = k ∧ idxPlace (dieIndex k row) = row := by
  rw [idxOnDie_iff, idxSlice, idxPlace, field, field, toNat_dieIndex hk hrow]
  omega

/-- An HBM index says its slice and place. -/
theorem hbmIndex_fields {k place : Nat} (hk : k < 32) (hplace : place < 2 ^ 26) :
    idxOnDie (hbmIndex k place) = false ∧ idxSlice (hbmIndex k place) = k ∧ idxPlace (hbmIndex k place) = place := by
  rw [← Bool.not_eq_true, idxOnDie_iff, idxSlice, idxPlace, field, field, toNat_hbmIndex hk hplace]
  omega

/-- The record at an on-die index is the row's. -/
theorem recAt_dieIndex (s : State) {k row : Nat} (hk : k < 32) (hrow : row < 2 ^ 26) :
    recAt s (dieIndex k row) = tfind s.flow.resident (k, row) := by
  obtain ⟨hdie, hslice, hplace⟩ := dieIndex_fields hk hrow
  rw [recAt, if_pos hdie, hslice, hplace]

/-- The record at an HBM index is the place's. -/
theorem recAt_hbmIndex (s : State) {k place : Nat} (hk : k < 32) (hplace : place < 2 ^ 26) :
    recAt s (hbmIndex k place) = tfind s.flow.hbm (k, place) := by
  obtain ⟨hdie, hslice, hplace⟩ := hbmIndex_fields hk hplace
  rw [recAt, if_neg (Bool.not_eq_true _ ▸ hdie), hslice, hplace]

/-! ### Free rows and slots -/

theorem resident_none_of_unused {s : State} {k row : Nat} (h : rowUsed s k row = false) : tfind s.flow.resident (k, row) = none := by
  rw [rowUsed, Bool.or_eq_false_iff] at h
  obtain ⟨hown, -⟩ := h
  exact Option.isNone_iff_eq_none.1 (Option.isSome_eq_false_iff.1 hown)

/-- The row `freeRow` finds lies in its range and is open, and it holds no record, nor, for an extended record, does the odd row
after it. -/
theorem freeRow_eq_some {s : State} {k lo hi row : Nat} {ext : Bool} (h : freeRow s k lo hi ext = some row) :
    (lo ≤ row ∧ row < hi) ∧ rowOpen s k row = true ∧ tfind s.flow.resident (k, row) = none ∧
      (ext = true → row % 2 = 0 ∧ tfind s.flow.resident (k, row + 1) = none) := by
  obtain ⟨d, hd, hrow⟩ := List.exists_of_findSome?_eq_some h
  rw [List.mem_range] at hd
  rw [Option.ite_none_right_eq_some] at hrow
  obtain ⟨hfree, heq⟩ := hrow
  cases heq
  simp only [Bool.and_eq_true, Bool.not_eq_true', Bool.or_eq_true, beq_iff_eq] at hfree
  obtain ⟨⟨hopen, hunused⟩, hpair⟩ := hfree
  refine ⟨by omega, hopen, resident_none_of_unused hunused, fun hext => ?_⟩
  obtain ⟨heven, hnext⟩ := hpair.resolve_left (by rw [hext]; decide)
  exact ⟨heven, resident_none_of_unused hnext⟩

/-- The slot `freeSlot` finds is one of the bucket's and holds no record, nor, for an extended record, does the bucket's other slot. -/
theorem freeSlot_eq_some {s : State} {k bucket place : Nat} {ext : Bool} (h : freeSlot s k bucket ext = some place) :
    place / 2 = bucket ∧ tfind s.flow.hbm (k, place) = none ∧
      (ext = true → place % 2 = 0 ∧ tfind s.flow.hbm (k, place + 1) = none) := by
  unfold freeSlot at h
  dsimp only at h
  split at h
  next hfirst =>
    rw [Option.ite_none_left_eq_some] at h
    obtain ⟨hpair, heq⟩ := h
    cases heq
    refine ⟨by omega, hfirst, fun hext => ⟨by omega, ?_⟩⟩
    simpa [hext] using hpair
  next a hfirst =>
    rw [Option.ite_none_left_eq_some] at h
    obtain ⟨hpair, heq⟩ := h
    cases heq
    simp only [Bool.or_eq_true, not_or, Bool.not_eq_true, Option.isSome_eq_false_iff, Option.isNone_iff_eq_none] at hpair
    obtain ⟨⟨hcompact, -⟩, hsecond⟩ := hpair
    exact ⟨by omega, hsecond, fun hext => absurd hext (by rw [hcompact]; decide)⟩

theorem bucketOf_lt (h : BitVec 32) {n : Nat} (hn : 0 < n) : bucketOf h n < n :=
  mul_div_lt_of_lt (Nat.div_lt_of_lt_mul h.isLt) hn

/-! ### Where R122 places a record -/

/-- Where a record may be placed: a RESIDENT one in the pool, any other in a slot of its bucket on an active channel or in the
stash (R122). -/
inductive PlaceKind (s : State) (k : Nat) (r : FlowRec) : Bool → BitVec 32 → Prop where
  | pool (row : Nat) (h : freeRow s k 0 (32768 - s.flow.stash) r.ext.isSome = some row) : PlaceKind s k r true (dieIndex k row)
  | slot (place : Nat) (hchan : chanActive s (bucketOf (hashOfKey s r.key) s.flow.b % 384) = true)
      (h : freeSlot s k (bucketOf (hashOfKey s r.key) s.flow.b) r.ext.isSome = some place) : PlaceKind s k r false (hbmIndex k place)
  | stash (row : Nat) (h : freeRow s k (32768 - s.flow.stash) 32768 r.ext.isSome = some row) :
      PlaceKind s k r false (dieIndex k row)

theorem placeFor_of_found {s : State} {k : Nat} {r : FlowRec} (resident : Bool) (h : (findRec s k (recKey r)).isSome = true) :
    placeFor s k r resident = .inl .learnExists := if_pos h

/-- The stash's part of `placeFor`. -/
theorem placeKind_of_stash {s : State} {k : Nat} {r : FlowRec} {i : BitVec 32}
    (h : (match freeRow s k (32768 - s.flow.stash) 32768 r.ext.isSome with
      | some row => Sum.inr (dieIndex k row)
      | none => Sum.inl Ctr.learnRefusedStash) = .inr i) : PlaceKind s k r false i := by
  split at h
  next row hrow =>
    cases h
    exact .stash row hrow
  next => cases h

/-- A record is placed only where none of its key stands on the slice. -/
theorem placeFor_eq_inr {s : State} {k : Nat} {r : FlowRec} {resident : Bool} {i : BitVec 32} (h : placeFor s k r resident = .inr i) :
    findRec s k (recKey r) = none ∧ PlaceKind s k r resident i := by
  unfold placeFor at h
  dsimp only at h
  split at h
  · cases h
  next hnew =>
    refine ⟨by simpa using hnew, ?_⟩
    cases resident with
    | true =>
      rw [if_pos rfl] at h
      split at h
      next row hrow =>
        cases h
        exact .pool row hrow
      next => cases h
    | false =>
      rw [if_neg Bool.false_ne_true] at h
      split at h
      · cases h
      next hchan =>
        split at h
        next place hplace =>
          split at h
          · cases h
            exact .slot place (by simpa using hchan) hplace
          · exact placeKind_of_stash h
        next => exact placeKind_of_stash h

/-- Settles O51: the kind of place names the free row or slot, which holds nothing. -/
theorem placementNeverOverwrites : Obligations.PlacementNeverOverwrites := by
  unfold Obligations.PlacementNeverOverwrites
  refine fun s k r resident hk hb hmax hstash => ⟨placeFor_of_found resident, fun i h => ?_⟩
  obtain ⟨hnew, hkind⟩ := placeFor_eq_inr h
  refine ⟨hnew, ?_⟩
  cases hkind with
  | pool row hrow =>
    obtain ⟨⟨-, hlt⟩, hopen, hfree, hpair⟩ := freeRow_eq_some hrow
    have hrange : row < 2 ^ 26 := by omega
    obtain ⟨hdie, hslice, hplace⟩ := dieIndex_fields hk hrange
    rw [recAt_dieIndex s hk hrange, hdie, hslice, hplace, if_pos rfl]
    exact ⟨hfree, rfl, fun _ => ⟨hopen, hlt, hpair⟩, nofun⟩
  | stash row hrow =>
    obtain ⟨hbounds, hopen, hfree, hpair⟩ := freeRow_eq_some hrow
    have hrange : row < 2 ^ 26 := by omega
    obtain ⟨hdie, hslice, hplace⟩ := dieIndex_fields hk hrange
    rw [recAt_dieIndex s hk hrange, hdie, hslice, hplace, if_neg Bool.false_ne_true]
    exact ⟨hfree, rfl, fun _ => ⟨hopen, hbounds, hpair⟩, nofun⟩
  | slot place hchan hslot =>
    obtain ⟨hbucket, hfree, hpair⟩ := freeSlot_eq_some hslot
    have hrange : place < 2 ^ 26 := by
      have := bucketOf_lt (hashOfKey s r.key) hb
      omega
    obtain ⟨hdie, hslice, hplace⟩ := hbmIndex_fields hk hrange
    rw [recAt_hbmIndex s hk hrange, hdie, hslice, hplace]
    refine ⟨hfree, rfl, nofun, fun _ => ⟨rfl, hbucket, ?_, hpair⟩⟩
    rw [chanOfPlace, hbucket]
    exact hchan

end Sys2Proof.Machine
end

/-! ## The flow-record rows (chapter 5) -/
section
namespace Sys2Proof.Machine

/-- A half idle with its waiting write-backs goes with the asker's (R126, R127). -/
theorem ageJudged_of_idle {slice : Nat} {i asker : BitVec 32} {akey : FlowKey} {r : FlowRec} {s : State}
    (h : idle s (withPending s i r) = true) :
    ageJudged slice i asker akey r s = dropIfKey (some .aged) asker akey (remove (some .aged) false none i s) := if_pos h

/-- A half that is not idle answers that its pair is live (R127). -/
theorem ageJudged_of_live {slice : Nat} {i asker : BitVec 32} {akey : FlowKey} {r : FlowRec} {s : State}
    (h : idle s (withPending s i r) = false) :
    ageJudged slice i asker akey r s = sendMsg slice (idxSlice asker) (.live akey asker) s := if_neg (Bool.eq_false_iff.1 h)

/-- One record returned draws once, for its reserved bits. -/
theorem recFlds_singleton (i : BitVec 32) (r : FlowRec) (s : State) : recFlds [(i, r)] s = ([idxFld i, recFld r s.fresh], drawn s) := rfl

/-- A parameter within its bounds is not refused. -/
theorem not_outside {lo hi n : Nat} (hlo : lo ≤ n) (hhi : n ≤ hi) : ¬ (n < lo ∨ n > hi) :=
  not_or.2 ⟨Nat.not_lt.2 hlo, Nat.not_lt.2 hhi⟩

/-- FLOW_NEXT does not refuse a cursor that is the walk's end or an index of a place that exists (Table 5-5). -/
theorem cursor_not_refused {s : State} {cursor : BitVec 32} (h : cursor = 0xFFFFFFFF ∨ idxOk s cursor = true) :
    ¬ (cursor ≠ 0xFFFFFFFF ∧ (!idxOk s cursor) = true) := by
  rintro ⟨hend, hplace⟩
  rw [h.resolve_left hend] at hplace
  cases hplace

/-- FLOW_INSERT is not held off a RESIDENT record, nor a record whose channel is neither frozen nor retraining (Table 5-8). -/
theorem channel_not_refused {resident : Bool} {st : ChState} (h : resident = true ∨ st ≠ .frozen ∧ st ≠ .retraining) :
    (!resident && (st == .frozen || st == .retraining)) = false := by
  rcases h with hres | ⟨hfrozen, hretraining⟩
  · rw [hres, Bool.not_true, Bool.false_and]
  · rw [beq_false_of_ne hfrozen, beq_false_of_ne hretraining, Bool.or_self, Bool.and_false]

/-- An index whose row, where it is one, lies in an open region is not the secure world's (R111). -/
theorem not_secureRow {s : State} {i : BitVec 32} (h : idxOnDie i = true → rowOpen s (idxSlice i) (idxPlace i) = true) :
    (idxOnDie i && !rowOpen s (idxSlice i) (idxPlace i)) = false := by
  cases hdie : idxOnDie i with
  | false => rfl
  | true => rw [h hdie, Bool.not_true, Bool.and_false]

/-- Settles O31: each row acts, and each command's body comes to its effect, under the clause's conditions. That FLOW_INSERT forms
no pair, what FLOW_NEXT skips and what a pair's deletion counts are log entry 35, that a sweep ages what stands on die at once log
entry 36, and that a search or a walk waits for its channel log entry 123. -/
theorem flowRowsComplete : Obligations.FlowRowsComplete := by
  unfold Obligations.FlowRowsComplete
  refine ⟨?learn, ?answered, ?gone, ?reused, ?aged, ?live, ?delete, ?sweep, ?writeBack, ?flushDone, ?searchDie, ?searchBegins, ?next,
    ?nextBegins, ?flush, ?insert, ?deleteDie, ?deleteBegins, ?zone, ?sweepSet, ?learnLimit, ?status, ?counters⟩
  case learn => exact fun slice => acts_of_next (fun _ => rfl) fun _ _ => rfl
  case answered =>
    refine fun slice key i p r t => acts_of_next (fun _ => rfl) fun s ⟨htake, hrec, hkey⟩ => ?_
    simp only [htake, hrec, hkey, ne_eq, not_true_eq_false, if_false]
  case gone =>
    refine fun slice key i p t => acts_of_next (fun _ => rfl) fun s ⟨htake, hrec⟩ => ?_
    simp only [htake, hrec]
  case reused =>
    refine fun slice key i p r t => acts_of_next (fun _ => rfl) fun s ⟨htake, hrec, hkey⟩ => ?_
    simp only [htake, hrec, ne_eq, hkey, not_false_eq_true, if_true]
  case aged =>
    refine fun slice key i asker akey r t => acts_of_next (fun _ => rfl) fun s ⟨htake, hrec, hkey, hidle⟩ => ?_
    simp only [htake, hrec, hkey, ageJudged_of_idle hidle, if_true]
  case live =>
    refine fun slice key i asker akey r t => acts_of_next (fun _ => rfl) fun s ⟨htake, hrec, hkey, hidle⟩ => ?_
    simp only [htake, hrec, hkey, ageJudged_of_live hidle, if_true]
  case delete =>
    refine fun slice key i t => acts_of_next (fun _ => rfl) fun s htake => ?_
    simp only [htake]
  case sweep =>
    refine fun slice hslice => acts_of_next (fun _ => rfl) fun s ⟨hup, hdue⟩ => ?_
    simp only [ge_iff_le, Nat.not_le.2 hslice, hup, hdue, Bool.not_true, Bool.false_eq_true, or_self, if_false]
  case writeBack =>
    refine fun fid w => acts_of_next (fun _ => rfl) fun s hfound => ?_
    simp only [hfound]
  case flushDone =>
    refine fun port f => acts_of_next (fun _ => rfl) fun s hfound => ?_
    simp only [hfound]
  case searchDie =>
    refine fun h domain key i r => completes_of_done (fun _ => rfl) fun _ u hfound => ?_
    simp only [hfound, recFlds_singleton]
  case searchBegins =>
    refine fun h domain key => begins_of_start (fun _ => rfl) fun _ u ⟨hdie, hopen, hstored⟩ => ?_
    simp only [hdie, hopen, hstored, Bool.false_eq_true, if_false, if_true]
  case next =>
    refine fun h cursor value mask count found read next hmin hmax =>
      completes_of_done (fun _ => rfl) fun _ u ⟨hcursor, hopen, hwalk⟩ => ?_
    simp only [cursor_not_refused hcursor, not_outside hmin hmax, hopen, hwalk, Bool.false_eq_true, if_false]
  case nextBegins =>
    refine fun h cursor value mask count found read next hmin hmax =>
      begins_of_start (fun _ => rfl) fun _ u ⟨hcursor, hopen, hwalk⟩ => ?_
    simp only [cursor_not_refused hcursor, not_outside hmin hmax, hopen, hwalk, Bool.false_eq_true, if_false]
  case flush =>
    refine fun h port domains => defers_of_pend (fun _ => rfl) fun _ u ⟨hnew, hport, hfree⟩ => ?_
    simp only [hnew, Option.isNone_eq_false_iff.2 hport, withTablets_of_free _ hfree, Bool.false_eq_true, if_false]
  case insert =>
    refine fun h r resident i hpaired hpending hok => completes_of_done (fun _ => rfl) fun _ u ⟨hnew, hchan, hplace⟩ => ?_
    simp only [hpaired, hpending, hok, hnew, channel_not_refused hchan, hplace, Bool.not_true, Bool.or_self, Bool.false_eq_true, if_false]
  case deleteDie =>
    refine fun h index domain key r => completes_of_done (fun _ => rfl) fun _ u ⟨hopen, hrec, hkey, hdie⟩ => ?_
    simp only [not_secureRow hopen, hrec, hkey, hdie, ne_eq, not_true_eq_false, Bool.false_eq_true, if_false, if_true]
  case deleteBegins =>
    refine fun h index domain key r => begins_of_start (fun _ => rfl) fun _ u ⟨hopen, hrec, hkey, hdie⟩ => ?_
    simp only [not_secureRow hopen, hrec, hkey, hdie, ne_eq, not_true_eq_false, Bool.false_eq_true, if_false]
  case zone =>
    refine fun h zone limit hzone hmin hmax => completes_of_done (fun _ => rfl) fun _ u hfree => ?_
    simp only [ge_iff_le, Nat.not_le.2 hzone, not_outside hmin hmax, withTablets_of_free _ hfree, if_false]
  case sweepSet =>
    refine fun h period hmin hmax => completes_of_done (fun _ => rfl) fun _ u hfree => ?_
    simp only [not_outside hmin hmax, withTablets_of_free _ hfree, if_false]
  case learnLimit =>
    refine fun h port limit ps hmin hmax => completes_of_done (fun _ => rfl) fun _ u hport => ?_
    simp only [hport, not_outside hmin hmax, if_false]
  case status => exact fun h slice hslice => completes_of_done (fun _ => rfl) fun _ _ _ => if_neg (Nat.not_le.2 hslice)
  case counters => exact fun h slice clear hslice => completes_of_done (fun _ => rfl) fun _ _ _ => if_neg (Nat.not_le.2 hslice)

end Sys2Proof.Machine
end

/-! ## The forwarding-table, multicast and fabric commands (Tables 6-12, 7-4) -/
section
namespace Sys2Proof.Machine

/-- An add whose entry is sound, has room and meets free rows is queued on every slice it names (Table 6-12, R405). -/
theorem tableAdd_of_free {v idx ixParam i : Nat} {ks : List Nat} {a : Arr} {b : Body} {room : State → Bool}
    {res : Nat → List RField} {s : State} (hidx : idx = 0xFFFFFFFF ∨ idx < tableSize a) (hopen : isOpen s v = true)
    (hslices : ks.isEmpty = false) (hindex : tableIndex s ks a idx = some i)
    (hrows : ks.all (fun k => (shadowRow s k a i).free) = true) (hroom : room s = true)
    (hfit : stepsFit s (ks.map (fun k => (k, placeSteps a i b (planeBit v)))) = true)
    (hfree : tabletConflict .rv (sliceDoms ks) s = none) :
    tableAdd v ks a idx ixParam b none room res s =
      .done (res i) (queueSteps (ks.map (fun k => (k, placeSteps a i b (planeBit v)))) s) := by
  have hin : ¬ (idx ≠ 0xFFFFFFFF ∧ idx ≥ tableSize a) := fun ⟨hne, hge⟩ => hidx.elim hne (Nat.not_lt.2 hge)
  simp only [tableAdd, hopen, hslices, hin, hindex, hrows, hroom, hfit, withTablets_of_free _ hfree, Bool.not_true,
    Bool.false_eq_true, if_false]

/-- A removal of an entry present on every slice it names queues the clear of its plane bit there (R409). -/
theorem tableRemove_of_present {v idx ixParam : Nat} {ks : List Nat} {a : Arr} {s : State} (hidx : idx < tableSize a)
    (hopen : isOpen s v = true) (hslices : ks.isEmpty = false) (hpresent : ks.any (fun k => !(shadowRow s k a idx).inV v) = false)
    (hfit : stepsFit s (ks.map (fun k => (k, [⟨a, idx, .planeClear (v % 4)⟩]))) = true)
    (hfree : tabletConflict .rv (sliceDoms ks) s = none) :
    tableRemove v ks a idx ixParam s = .done [] (queueSteps (ks.map (fun k => (k, [⟨a, idx, .planeClear (v % 4)⟩]))) s) := by
  simp only [tableRemove, hopen, hslices, ge_iff_le, Nat.not_le.2 hidx, hpresent, hfit, withTablets_of_free _ hfree, Bool.not_true,
    Bool.false_eq_true, if_false]

/-- A command whose own checks leave an add of a sound entry with room queues the entry. -/
theorem entryQueued_of_tableAdd {c : Instr} {h : Hdr} {code v idx : Nat} (ixParam : Nat) {body : State → State → Out}
    {ks : List Nat} {a : Arr} {b : Body} {when_ : State → Prop} {room : State → Bool} {res : Nat → List RField}
    (hx : ∀ s, exec c s = within s (.next (qcp { code := code, world := .nonSecure } h (body s) s)))
    (hb : ∀ s u, when_ u → room u = true ∧
      (isOpen u v = true → body s u = tableAdd v ks a idx ixParam b none room res u)) :
    EntryQueued c h code v ks a idx b when_ res := by
  refine fun i hidx => completes_of_done hx fun s u ⟨hwhen, hopen, hslices, hindex, hrows, hfit, hfree⟩ => ?_
  obtain ⟨hroom, hbody⟩ := hb s u hwhen
  exact (hbody hopen).trans (tableAdd_of_free hidx hopen hslices hindex hrows hroom hfit hfree)

/-- A command that comes to a removal drops the entry. -/
theorem entryDropped_of_tableRemove {c : Instr} {h : Hdr} {code v idx ixParam : Nat} {ks : List Nat} {a : Arr}
    (hx : ∀ s, exec c s = within s (.next (qcp { code := code, world := .nonSecure } h (tableRemove v ks a idx ixParam) s))) :
    EntryDropped c h code v ks a idx :=
  fun hidx => completes_of_done hx fun _ _ ⟨hopen, hslices, hpresent, hfit, hfree⟩ =>
    tableRemove_of_present hidx hopen hslices hpresent hfit hfree

/-- Settles O29: each row's body comes to its effect under the clause's conditions. That MCAST_ADD's LIST is the lowest free index is
log entry 10, a group's four rows log entry 9, and the distinct blocks PLACED counts log entry 22. -/
theorem tableRowsComplete : Obligations.TableRowsComplete := by
  unfold Obligations.TableRowsComplete
  refine ⟨?actionAdd, ?nexthopAdd, ?ecmpAdd, ?lagAdd, ?actionRemove, ?nexthopRemove, ?ecmpRemove, ?lagRemove, ?mcastAdd, ?mcastRemove,
    ?excCounters, ?fabricCounters, ?fabricStatus⟩
  case actionAdd =>
    exact fun h v slices idx data => entryQueued_of_tableAdd 2 (fun _ => rfl) fun _ _ _ => ⟨rfl, fun _ => rfl⟩
  case nexthopAdd =>
    refine fun h v slices idx nh => entryQueued_of_tableAdd 2 (fun _ => rfl) fun _ u hsound => ⟨rfl, fun _ => ?_⟩
    simp only [hsound]
  case ecmpAdd =>
    refine fun h v slices group ms hmin hmax => entryQueued_of_tableAdd 2 (fun _ => rfl) fun _ u hroom => ⟨hroom, fun _ => ?_⟩
    have hsize : ¬ (ms.isEmpty = true ∨ ms.length > 256) := by
      rw [List.isEmpty_iff_length_eq_zero]; omega
    simp only [hsize, if_false]
  case lagAdd =>
    refine fun h v lag ports hlag hmin hmax => entryQueued_of_tableAdd 1 (fun _ => rfl) fun _ u hports => ⟨rfl, fun hopen => ?_⟩
    have hsize : ¬ (ports.isEmpty = true ∨ ports.length > 64) := by
      rw [List.isEmpty_iff_length_eq_zero]; omega
    simp only [hopen, ge_iff_le, Nat.not_le.2 hlag, hports, ← or_assoc, hsize, decide_false, Bool.and_false, Bool.false_eq_true,
      or_self, if_false]
  case actionRemove => exact fun h v slices idx => entryDropped_of_tableRemove fun _ => rfl
  case nexthopRemove => exact fun h v slices idx => entryDropped_of_tableRemove fun _ => rfl
  case ecmpRemove => exact fun h v slices group => entryDropped_of_tableRemove fun _ => rfl
  case lagRemove => exact fun h v lag => entryDropped_of_tableRemove fun _ => rfl
  case mcastAdd =>
    refine fun h v group dests r hgroup hlen =>
      completes_of_done (fun _ => rfl) fun _ u ⟨hopen, hports, hnew, hrow, hroom, hfit, hfree⟩ => ?_
    simp only [hopen, ge_iff_le, Nat.not_le.2 hgroup, gt_iff_lt, Nat.not_lt.2 hlen, hports, hnew, hrow, hroom, hfit,
      withTablets_of_free _ hfree, Bool.not_true, Bool.false_eq_true, or_self, if_false]
  case mcastRemove =>
    refine fun h v group r e => completes_of_done (fun _ => rfl) fun _ u ⟨hopen, hpresent, hfit, hfree⟩ => ?_
    simp only [hopen, hpresent, hfit, withTablets_of_free _ hfree, Bool.not_true, Bool.false_eq_true, if_false]
  case excCounters =>
    exact fun h slice clear hslice => completes_of_done (fun _ => rfl) fun _ _ _ => if_neg (Nat.not_le.2 hslice)
  case fabricCounters =>
    exact fun h slice clear hslice => completes_of_done (fun _ => rfl) fun _ _ _ => if_neg (Nat.not_le.2 hslice)
  case fabricStatus =>
    refine fun h slice block hslice => completes_of_done (fun _ => rfl) fun _ u ⟨hactive, hblock⟩ => ?_
    simp only [ge_iff_le, Nat.not_le.2 hslice, Option.isNone_eq_false_iff.2 hactive, Nat.not_le.2 hblock, Bool.false_eq_true,
      if_false, id]

end Sys2Proof.Machine
end

/-! ## The microcode rows (Table 6-13) -/
section
namespace Sys2Proof.Machine

/-- Settles O32: each row's body comes to its effect under the clause's conditions. A word's error found and rewritten in two rows, and
the numbers of the words, are log entry 65; that a swap with no active timetable asks for no name is log entry 68. -/
theorem ucodeRowsComplete : Obligations.UcodeRowsComplete := by
  unfold Obligations.UcodeRowsComplete
  refine ⟨?load, ?unsigned, ?loaded, ?swap, ?status, ?corrected, ?uncorrectable⟩
  case load =>
    refine fun h action slices img hslices =>
      defers_of_pend (fun _ => rfl) fun _ u ⟨hfree, hswap, hnamed, hold, hsigner, hstepping, hstores, hkind, hsound⟩ => ?_
    simp only [hslices, withTablets_of_free _ hfree, hswap, hnamed, hold, hsigner, hstepping, hstores, hkind, hsound,
      Option.isSome_none, Bool.or_self, Bool.not_true, Bool.false_eq_true, ne_eq, not_true_eq_false, or_self, if_false]
  case unsigned =>
    refine fun h action slices img s w hslices hstarts ⟨hfree, hswap, hnamed, hold, hsigner⟩ =>
      exec_of_reply (op := fun _ => { code := 0x0E01, world := .secure, host := true }) (fun _ => rfl) hstarts ?_
    simp only [hslices, withTablets_of_free _ hfree, hswap, hnamed, hold, hsigner, Option.isSome_none, Bool.or_self, Bool.not_false,
      Bool.false_eq_true, if_false, if_true]
  case loaded =>
    refine fun l rest => acts_of_next (fun _ => rfl) fun s hload => ?_
    simp only [hload]
  case swap =>
    refine fun h parser action slices hbank hslices =>
      begins_of_start (fun _ => rfl) fun _ u ⟨hfilled, hnamed, hedits, hagree, hidle⟩ => ?_
    have hone : ¬ ((!parser) = true ∧ (!action) = true) := by
      rcases hbank with rfl | rfl <;> simp only [Bool.not_true, Bool.false_eq_true, false_and, and_false, not_false_eq_true]
    have hsame := Bool.and_eq_false_imp.2 fun haction => (Bool.not_eq_false' _).mpr (hedits haction)
    simp only [hone, hslices, hfilled, hnamed, hsame, hagree, hidle, Option.isSome_none, Bool.not_true,
      Bool.false_eq_true, if_false]
  case status => exact fun h slice hslice => completes_of_done (fun _ => rfl) fun _ _ _ => if_neg (Nat.not_le.2 hslice)
  case corrected =>
    refine fun slice word hslice hword => acts_of_next (fun _ => rfl) fun s _ => ?_
    simp only [ge_iff_le, Nat.not_le.2 hslice, Nat.not_le.2 hword, or_self, Bool.false_eq_true, if_false]
  case uncorrectable =>
    refine fun slice word hslice hword => acts_of_next (fun _ => rfl) fun s _ => ?_
    simp only [ge_iff_le, Nat.not_le.2 hslice, Nat.not_le.2 hword, or_self, if_false, if_true]

end Sys2Proof.Machine
end

/-! ## The placement of reservations (R166) -/
section
namespace Sys2Proof.Machine

/-! ### One cell -/

/-- What every placement keeps: no place is given twice (R159), and each cell stands in a sub-box that is not lost, the lowest one
open to it among the cells placed before it. -/
structure Placed (lost : List Nat) (rs : List Resv) : Prop where
  apart : rs.Pairwise (fun a b => a.c = b.c → a.i ≠ b.i ∧ a.j ≠ b.j)
  standing : ∀ r ∈ rs, r.c < 96 ∧ r.c ∉ lost
  lowest : ∀ (a b : List Resv) (r : Resv), rs = a ++ r :: b → ∀ c < r.c, boxClosed lost a r.i r.j c

/-- Whether a sub-box is open to a pair's next cell (R166). -/
def boxOpen (lost : List Nat) (rs : List Resv) (i j c : Nat) : Bool :=
  !lost.contains c && !rs.any (fun r => r.c == c && (r.i == i || r.j == j))

/-- The sub-box of a pair's next cell. -/
def nextBox (lost : List Nat) (rs : List Resv) (i j : Nat) : Option Nat := (List.range 96).find? (boxOpen lost rs i j)

theorem boxOpen_iff {lost : List Nat} {rs : List Resv} {i j c : Nat} :
    boxOpen lost rs i j c = true ↔ ¬ boxClosed lost rs i j c := by
  simp [boxOpen, boxClosed]

theorem boxOpen_eq_false_iff {lost : List Nat} {rs : List Resv} {i j c : Nat} :
    boxOpen lost rs i j c = false ↔ boxClosed lost rs i j c := by
  rw [Bool.eq_false_iff, ne_eq, boxOpen_iff, not_not]

/-- A pair's next cell takes the lowest sub-box open to it. -/
theorem nextBox_eq_some {lost : List Nat} {rs : List Resv} {i j c : Nat} (h : nextBox lost rs i j = some c) :
    c < 96 ∧ ¬ boxClosed lost rs i j c ∧ ∀ d < c, boxClosed lost rs i j d := by
  obtain ⟨hopen, hmem, hlow⟩ := List.find?_range_eq_some.1 h
  exact ⟨List.mem_range.1 hmem, boxOpen_iff.1 hopen, fun d hd => boxOpen_eq_false_iff.1 ((Bool.not_eq_true' _).mp (hlow d hd))⟩

/-- A pair's next cell finds no sub-box where all are taken or lost. -/
theorem nextBox_eq_none {lost : List Nat} {rs : List Resv} {i j : Nat} (h : nextBox lost rs i j = none) :
    ∀ c < 96, boxClosed lost rs i j c := fun c hc =>
  boxOpen_eq_false_iff.1 (Bool.eq_false_iff.2 (List.find?_eq_none.1 h c (List.mem_range.2 hc)))

/-- A pair's cells are placed one after another. -/
theorem placePair_succ (lost : List Nat) (i j n : Nat) (rs : List Resv) :
    placePair lost i j (n + 1) rs = (nextBox lost rs i j).bind (fun c => placePair lost i j n (rs ++ [⟨i, j, c⟩])) := by
  rw [placePair]
  split
  next hnone =>
    rw [show nextBox lost rs i j = none from hnone]
    rfl
  next c hsome =>
    rw [show nextBox lost rs i j = some c from hsome]
    rfl

theorem Placed.nil (lost : List Nat) : Placed lost [] := ⟨.nil, nofun, fun a b r h => by simp at h⟩

/-- A cell placed in the lowest open sub-box keeps a placement sound. -/
theorem Placed.append_singleton {lost : List Nat} {rs : List Resv} {i j c : Nat} (hrs : Placed lost rs)
    (hnext : nextBox lost rs i j = some c) : Placed lost (rs ++ [⟨i, j, c⟩]) := by
  obtain ⟨hlt, hopen, hlow⟩ := nextBox_eq_some hnext
  obtain ⟨hlost, hfree⟩ := not_or.1 hopen
  refine ⟨List.pairwise_append.2 ⟨hrs.apart, List.pairwise_singleton _ _, ?_⟩,
    List.forall_mem_append.2 ⟨hrs.standing, List.forall_mem_singleton.2 ⟨hlt, hlost⟩⟩, fun a b r heq => ?_⟩
  · refine fun r hr => List.forall_mem_singleton.2 fun hc => ?_
    exact not_or.1 fun hsame => hfree ⟨r, hr, hc, hsame⟩
  · rcases List.eq_nil_or_concat b with rfl | ⟨b, x, rfl⟩
    · obtain ⟨rfl, hr⟩ := List.append_inj' heq rfl
      obtain rfl := List.singleton_inj.1 hr
      exact hlow
    · rw [List.concat_eq_append, ← List.cons_append, ← List.append_assoc] at heq
      exact hrs.lowest a b r (List.append_inj' heq rfl).1

/-! ### A pair's cells -/

/-- The cells of a pair. -/
def pairCells (i j : Nat) (rs : List Resv) : Nat := (rs.filter (fun r => r.i == i && r.j == j)).length

theorem placePair_sound {lost : List Nat} {i j n : Nat} {rs rs' : List Resv} (hrs : Placed lost rs)
    (h : placePair lost i j n rs = some rs') : Placed lost rs' := by
  induction n generalizing rs with
  | zero => rwa [← Option.some.inj h]
  | succ n ih =>
    rw [placePair_succ, Option.bind_eq_some_iff] at h
    obtain ⟨c, hnext, hrest⟩ := h
    exact ih (hrs.append_singleton hnext) hrest

/-- A placed pair gains its count, another pair nothing. -/
theorem placePair_pairCells {lost : List Nat} {i j n : Nat} {rs rs' : List Resv} (h : placePair lost i j n rs = some rs')
    (i' j' : Nat) : pairCells i' j' rs' = pairCells i' j' rs + if (i == i' && j == j') = true then n else 0 := by
  induction n generalizing rs with
  | zero => rw [← Option.some.inj h, ite_self, Nat.add_zero]
  | succ n ih =>
    rw [placePair_succ, Option.bind_eq_some_iff] at h
    obtain ⟨c, -, hrest⟩ := h
    rw [ih hrest, pairCells, pairCells, List.filter_append, List.length_append, List.filter_singleton, Nat.add_assoc]
    cases i == i' && j == j' <;> simp [Nat.add_comm]

/-- A pair that cannot be placed stops at a cell that finds every sub-box taken or lost. -/
theorem placePair_eq_none {lost : List Nat} {i j n : Nat} {rs : List Resv} (h : placePair lost i j n rs = none) :
    ∃ m < n, ∃ rs', placePair lost i j m rs = some rs' ∧ ∀ c < 96, boxClosed lost rs' i j c := by
  induction n generalizing rs with
  | zero => cases h
  | succ n ih =>
    cases hnext : nextBox lost rs i j with
    | none => exact ⟨0, Nat.succ_pos n, rs, rfl, nextBox_eq_none hnext⟩
    | some c =>
      rw [placePair_succ, hnext] at h
      obtain ⟨m, hm, rs', hplaced, hfull⟩ := ih h
      refine ⟨m + 1, Nat.succ_lt_succ hm, rs', ?_, hfull⟩
      rw [placePair_succ, hnext]
      exact hplaced

/-! ### A block's counts -/

theorem placeBlock_append_singleton (lost : List Nat) (cs : List ResvCount) (x : ResvCount) :
    placeBlock lost (cs ++ [x]) = (placeBlock lost cs).bind (placePair lost x.i x.j x.n) := by
  simp only [placeBlock, List.foldl_append, List.foldl_cons, List.foldl_nil]

theorem placeBlock_sound {lost : List Nat} {cs : List ResvCount} {rs : List Resv} (h : placeBlock lost cs = some rs) :
    Placed lost rs := by
  induction cs using List.reverseRecOn generalizing rs with
  | nil => rw [← Option.some.inj h]; exact .nil lost
  | append_singleton cs x ih =>
    rw [placeBlock_append_singleton, Option.bind_eq_some_iff] at h
    obtain ⟨rs₀, hdone, hlast⟩ := h
    exact placePair_sound (ih hdone) hlast

/-- Every pair holds the sum of its counts. -/
theorem placeBlock_pairCells {lost : List Nat} {cs : List ResvCount} {rs : List Resv} (h : placeBlock lost cs = some rs)
    (i j : Nat) : pairCells i j rs = ((cs.filter (fun c => c.i == i && c.j == j)).map (fun c => c.n)).sum := by
  induction cs using List.reverseRecOn generalizing rs with
  | nil => rw [← Option.some.inj h]; rfl
  | append_singleton cs x ih =>
    rw [placeBlock_append_singleton, Option.bind_eq_some_iff] at h
    obtain ⟨rs₀, hdone, hlast⟩ := h
    rw [placePair_pairCells hlast, ih hdone, List.filter_append, List.filter_singleton, List.map_append, List.sum_append]
    cases x.i == i && x.j == j <;> rfl

/-- A block that cannot be placed stops at a cell that finds every sub-box taken or lost. -/
theorem placeBlock_eq_none {lost : List Nat} {cs : List ResvCount} (h : placeBlock lost cs = none) :
    ∃ (done rest : List ResvCount) (x : ResvCount) (n : Nat) (rs : List Resv), cs = done ++ x :: rest ∧ n < x.n ∧
      placeBlock lost (done ++ [{ x with n := n }]) = some rs ∧ ∀ c < 96, boxClosed lost rs x.i x.j c := by
  induction cs using List.reverseRecOn with
  | nil => cases h
  | append_singleton cs y ih =>
    cases hcs : placeBlock lost cs with
    | none =>
      obtain ⟨done, rest, x, n, rs, rfl, hn, hplaced, hfull⟩ := ih hcs
      exact ⟨done, rest ++ [y], x, n, rs, List.append_assoc .., hn, hplaced, hfull⟩
    | some rs₀ =>
      rw [placeBlock_append_singleton, hcs] at h
      obtain ⟨n, hn, rs, hplaced, hfull⟩ := placePair_eq_none h
      refine ⟨cs, [], y, n, rs, rfl, hn, ?_, hfull⟩
      rw [placeBlock_append_singleton, hcs]
      exact hplaced

/-- Settles O15: a placement grows cell by cell, each in the lowest sub-box open to it (R159, R166). -/
theorem placementIsSound : Obligations.PlacementIsSound := by
  unfold Obligations.PlacementIsSound
  refine ⟨fun lost cs rs h => ?_, fun lost cs => placeBlock_eq_none⟩
  obtain ⟨hapart, hstanding, hlowest⟩ := placeBlock_sound h
  exact ⟨hapart, hstanding, placeBlock_pairCells h, hlowest⟩

end Sys2Proof.Machine
end

/-! ## The signal box's grants (R169, R172, R174, R175, R182) -/
section
namespace Sys2Proof.Machine

/-! ### One iteration of a sub-box -/

/-- The ingress slice an egress slice grants in an iteration (R169). -/
def grantedBy (x : Match) (lane : Nat) (is : List Nat) (j : Nat) : Option Nat :=
  (fromUp (tget x.gp (lane, j) 0)).find? (fun i => is.contains i && requests x i j)

/-- The egress slices whose grants an ingress slice holds in an iteration. -/
def heldBy (x : Match) (lane : Nat) (is js : List Nat) (i : Nat) : List Nat :=
  ((js.filterMap (fun j => (grantedBy x lane is j).map (fun i => (i, j)))).filter (fun g => g.1 == i)).map (fun g => g.2)

/-- What an ingress slice accepts in an iteration: one grant, or with a multicast grant all it holds for that cell (R172). -/
def acceptedBy (x : Match) (lane : Nat) (is js : List Nat) (i : Nat) : Option (Nat × List Nat × Bool) :=
  match (fromUp (tget x.ap (lane, i) 0)).find? (fun j => (heldBy x lane is js i).contains j) with
  | none => none
  | some j =>
    if mcWants x i j then some (i, j :: (heldBy x lane is js i).filter (fun k => k ≠ j ∧ mcWants x i k), true)
    else some (i, [j], false)

theorem iterate_eq_filterMap (x : Match) (lane : Nat) (is js : List Nat) :
    iterate x lane is js = is.filterMap (acceptedBy x lane is js) := rfl

theorem mem_heldBy {x : Match} {lane : Nat} {is js : List Nat} {i j : Nat} :
    j ∈ heldBy x lane is js i ↔ j ∈ js ∧ grantedBy x lane is j = some i := by
  simp [heldBy]

/-- An acceptance is for its own ingress slice, of grants that slice holds: one of them, but for multicast. -/
theorem acceptedBy_eq_some {x : Match} {lane : Nat} {is js : List Nat} {i : Nat} {e : Nat × List Nat × Bool}
    (h : acceptedBy x lane is js i = some e) :
    e.1 = i ∧ e.2.1 ≠ [] ∧ (∀ j ∈ e.2.1, j ∈ heldBy x lane is js i) ∧ (e.2.2 = false → e.2.1.length = 1) := by
  unfold acceptedBy at h
  split at h
  · cases h
  next j hfind =>
    have hj : j ∈ heldBy x lane is js i := List.contains_iff_mem.1 (List.find?_some hfind :)
    split at h
    · obtain rfl := Option.some.inj h
      exact ⟨rfl, List.cons_ne_nil _ _, List.forall_mem_cons.2 ⟨hj, fun _ => List.mem_of_mem_filter⟩, nofun⟩
    · obtain rfl := Option.some.inj h
      exact ⟨rfl, List.cons_ne_nil _ _, List.forall_mem_singleton.2 hj, fun _ => rfl⟩

/-- What an iteration accepts: a free ingress slice with free egress slices that granted it; one of them, but for multicast. -/
theorem accepted_of_mem_iterate {x : Match} {lane : Nat} {is js : List Nat} {e : Nat × List Nat × Bool}
    (he : e ∈ iterate x lane is js) :
    e.1 ∈ is ∧ e.2.1 ≠ [] ∧ (∀ j ∈ e.2.1, j ∈ js ∧ grantedBy x lane is j = some e.1) ∧
      (e.2.2 = false → e.2.1.length = 1) := by
  rw [iterate_eq_filterMap] at he
  obtain ⟨i, hi, hacc⟩ := List.mem_filterMap.1 he
  obtain ⟨rfl, hne, hheld, hone⟩ := acceptedBy_eq_some hacc
  exact ⟨hi, hne, fun j hj => mem_heldBy.1 (hheld j hj), hone⟩

/-- Two acceptances are of different ingress slices and share no egress slice. -/
def AcceptsApart (a b : Nat × List Nat × Bool) : Prop := a.1 ≠ b.1 ∧ ∀ j ∈ a.2.1, j ∉ b.2.1

/-- An iteration accepts at most once for an ingress slice, and no egress slice twice. -/
theorem iterate_pairwise_apart (x : Match) (lane : Nat) {is : List Nat} (js : List Nat) (his : is.Nodup) :
    (iterate x lane is js).Pairwise AcceptsApart := by
  rw [iterate_eq_filterMap]
  refine List.Pairwise.filterMap _ (fun i k hne a ha b hb => ?_) his
  obtain ⟨rfl, -, hheld, -⟩ := acceptedBy_eq_some ha
  obtain ⟨rfl, -, hheld', -⟩ := acceptedBy_eq_some hb
  refine ⟨hne, fun j hj hj' => hne ?_⟩
  have hgrant := (mem_heldBy.1 (hheld j hj)).2
  have hgrant' := (mem_heldBy.1 (hheld' j hj')).2
  exact Option.some.inj (hgrant.symm.trans hgrant')

/-! ### The grants of one sub-box -/

/-- The grant of a sub-box that an acceptance makes. -/
def asGrant (c : Nat) (e : Nat × List Nat × Bool) : Grant := ⟨e.1, c, e.2.1, e.2.2⟩

/-- A fold keeps what each of its steps keeps. -/
theorem foldl_keeps {σ α β : Type} (p : σ → β) {f : σ → α → σ} (hf : ∀ s a, p (f s a) = p s) (l : List α)
    (s : σ) : p (l.foldl f s) = p s := by
  induction l generalizing s with
  | nil => rfl
  | cons a l ih => rw [List.foldl_cons, ih, hf]

theorem accept_singleton_grants (lane c : Nat) (first : Bool) (e : Nat × List Nat × Bool) (x : Match) :
    (accept lane c first [e] x).grants = x.grants ++ [asGrant c e] := by
  simp only [accept, List.foldl_cons, List.foldl_nil, apply_ite Match.grants, ite_self]
  split
  · split <;> rfl
  · exact foldl_keeps Match.grants (fun _ _ => by rfl) _ _

/-- Accepting adds one grant for each acceptance. -/
theorem accept_grants (lane c : Nat) (first : Bool) (l : List (Nat × List Nat × Bool)) (x : Match) :
    (accept lane c first l x).grants = x.grants ++ l.map (asGrant c) := by
  induction l generalizing x with
  | nil => exact (List.append_nil _).symm
  | cons e l ih =>
    have hcons : accept lane c first (e :: l) x = accept lane c first l (accept lane c first [e] x) := rfl
    rw [hcons, ih, accept_singleton_grants, List.append_assoc, List.singleton_append, List.map_cons]

/-- Two grants take no place of a block twice: in one sub-box their ingress slices differ and they share no egress slice (R159). -/
def Apart (a b : Grant) : Prop := a.c = b.c → a.i ≠ b.i ∧ ∀ j ∈ a.dests, j ∉ b.dests

theorem apart_asGrant {c : Nat} {a b : Nat × List Nat × Bool} (h : AcceptsApart a b) : Apart (asGrant c a) (asGrant c b) :=
  fun _ => h

/-- The ingress slices free at a sub-box: running, and not of one of its reserved slots. -/
def freeIngress (resv : List Resv) (halted : List Nat) (c : Nat) : List Nat :=
  allSlices.filter (fun i => !halted.contains i && !(resv.filter (fun r => r.c == c)).any (fun r => r.i == i))

/-- The egress slices free at a sub-box: running, not FULL, and not of one of its reserved slots. -/
def freeEgress (resv : List Resv) (halted full : List Nat) (c : Nat) : List Nat :=
  allSlices.filter (fun j => !halted.contains j && !full.contains j && !(resv.filter (fun r => r.c == c)).any (fun r => r.j == j))

theorem mem_freeIngress {resv : List Resv} {halted : List Nat} {c i : Nat} :
    i ∈ freeIngress resv halted c ↔ i < 32 ∧ i ∉ halted ∧ ∀ r ∈ resv, r.c = c → r.i ≠ i := by
  simp [freeIngress, allSlices]

theorem mem_freeEgress {resv : List Resv} {halted full : List Nat} {c j : Nat} :
    j ∈ freeEgress resv halted full c ↔ j < 32 ∧ (j ∉ halted ∧ j ∉ full) ∧ ∀ r ∈ resv, r.c = c → r.j ≠ j := by
  simp [freeEgress, allSlices, and_assoc]

/-- A grant uses one running sub-box of the 96 with slices free at it, and a unicast grant serves one egress slice. -/
structure GrantFits (resv : List Resv) (halted full : List Nat) (g : Grant) : Prop where
  box : g.c < 96
  middle : g.c / 3 ∉ halted
  ingress : g.i ∈ freeIngress resv halted g.c
  served : g.dests ≠ []
  egress : ∀ j ∈ g.dests, j ∈ freeEgress resv halted full g.c
  unicast : g.mcast = false → g.dests.length = 1

/-- What an iteration among the free slices of a running sub-box accepts, fits. -/
theorem grantFits_of_mem_iterate {x : Match} {lane m : Nat} {resv : List Resv} {halted full is js : List Nat}
    {e : Nat × List Nat × Bool} (hm : m < 32) (hlane : lane < 3) (hrun : m ∉ halted)
    (his : ∀ i ∈ is, i ∈ freeIngress resv halted (3 * m + lane))
    (hjs : ∀ j ∈ js, j ∈ freeEgress resv halted full (3 * m + lane)) (he : e ∈ iterate x lane is js) :
    GrantFits resv halted full (asGrant (3 * m + lane) e) := by
  obtain ⟨hi, hne, hdests, hone⟩ := accepted_of_mem_iterate he
  have hmid : (3 * m + lane) / 3 = m := by omega
  exact ⟨show 3 * m + lane < 96 by omega, show (3 * m + lane) / 3 ∉ halted by rwa [hmid], his _ hi, hne,
    fun j hj => hjs j (hdests j hj).1, hone⟩

/-- The slices of a list that are no ingress of an acceptance. -/
def unmatchedIngress (a : List (Nat × List Nat × Bool)) (is : List Nat) : List Nat :=
  is.filter (fun i => !a.any (fun e => e.1 == i))

/-- The slices of a list that no acceptance serves. -/
def unmatchedEgress (a : List (Nat × List Nat × Bool)) (js : List Nat) : List Nat :=
  js.filter (fun j => !a.any (fun e => e.2.1.contains j))

/-- What a running sub-box's first iteration accepts. -/
def firstAccepts (lane m : Nat) (resv : List Resv) (halted full : List Nat) (x : Match) : List (Nat × List Nat × Bool) :=
  iterate x lane (freeIngress resv halted (3 * m + lane)) (freeEgress resv halted full (3 * m + lane))

/-- What a running sub-box's second iteration accepts, among the slices the first left unmatched. -/
def secondAccepts (lane m : Nat) (resv : List Resv) (halted full : List Nat) (x : Match) : List (Nat × List Nat × Bool) :=
  let a := firstAccepts lane m resv halted full x
  iterate (accept lane (3 * m + lane) true a x) lane (unmatchedIngress a (freeIngress resv halted (3 * m + lane)))
    (unmatchedEgress a (freeEgress resv halted full (3 * m + lane)))

theorem matchBox_grants_of_running {lane m : Nat} {halted : List Nat} (hrun : m ∉ halted) (resv : List Resv) (full : List Nat)
    (x : Match) : (matchBox lane m resv halted full x).grants = x.grants ++
      (firstAccepts lane m resv halted full x ++ secondAccepts lane m resv halted full x).map (asGrant (3 * m + lane)) := by
  rw [matchBox, if_neg (mt List.contains_iff_mem.1 hrun), accept_grants, accept_grants, List.append_assoc, List.map_append]
  rfl

/-- The second iteration's acceptances are apart from the first's. -/
theorem accepts_pairwise_apart (lane m : Nat) (resv : List Resv) (halted full : List Nat) (x : Match) :
    (firstAccepts lane m resv halted full x ++ secondAccepts lane m resv halted full x).Pairwise AcceptsApart := by
  have hnodup : (freeIngress resv halted (3 * m + lane)).Nodup := List.nodup_range.filter _
  refine List.pairwise_append.2 ⟨iterate_pairwise_apart _ _ _ hnodup, iterate_pairwise_apart _ _ _ (hnodup.filter _),
    fun e he e' he' => ?_⟩
  obtain ⟨hi', -, hdests', -⟩ := accepted_of_mem_iterate he'
  simp only [unmatchedIngress, unmatchedEgress, List.mem_filter, Bool.not_eq_true', List.any_eq_false, beq_iff_eq,
    List.contains_iff_mem] at hi' hdests'
  exact ⟨hi'.2 e he, fun j hj hj' => (hdests' j hj').1.2 e he hj⟩

/-- The grants a sub-box adds (R169): its own, fitting, and apart from each other. -/
theorem matchBox_grants {lane m : Nat} (hm : m < 32) (hlane : lane < 3) (resv : List Resv) (halted full : List Nat) (x : Match) :
    ∃ l, (matchBox lane m resv halted full x).grants = x.grants ++ l ∧ l.Pairwise Apart ∧
      ∀ g ∈ l, g.c = 3 * m + lane ∧ GrantFits resv halted full g := by
  by_cases hrun : m ∈ halted
  · exact ⟨[], by rw [matchBox, if_pos (List.contains_iff_mem.2 hrun), List.append_nil], .nil, nofun⟩
  · refine ⟨_, matchBox_grants_of_running hrun resv full x,
      List.pairwise_map.2 ((accepts_pairwise_apart lane m resv halted full x).imp apart_asGrant),
      List.forall_mem_map.2 fun e he => ⟨rfl, ?_⟩⟩
    rcases List.mem_append.1 he with he | he
    · exact grantFits_of_mem_iterate hm hlane hrun (fun _ h => h) (fun _ h => h) he
    · exact grantFits_of_mem_iterate hm hlane hrun (fun _ => List.mem_of_mem_filter) (fun _ => List.mem_of_mem_filter) he

/-! ### The grants of a block -/

/-- The number of a sub-box, given as intermediate and lane (R158). -/
def boxNumber (b : Nat × Nat) : Nat := 3 * b.1 + b.2

/-- The sub-boxes of a block as intermediate and lane, in the order in which they are matched (R169). -/
def boxOrder (first : Nat) : List (Nat × Nat) :=
  (List.range 32).flatMap (fun n => [0, 1, 2].map (fun lane => ((first + n) % 32, lane)))

theorem computeGrants_of_requests {s : State} {x : Match} (h : ¬ (x.req.isEmpty && x.mc.isEmpty) = true) :
    computeGrants s x = (boxOrder s.time.blkCount).foldl
      (fun x b => matchBox b.2 b.1 (nextResv s) s.fab.halted s.fab.full x) x := by
  simp only [computeGrants, h, boxOrder, List.foldl_flatMap, List.foldl_map]
  rfl

theorem mem_boxOrder_lt {first : Nat} {b : Nat × Nat} (h : b ∈ boxOrder first) : b.1 < 32 ∧ b.2 < 3 := by
  simp only [boxOrder, List.mem_flatMap, List.mem_map] at h
  obtain ⟨n, -, lane, hlane, rfl⟩ := h
  refine ⟨Nat.mod_lt _ (by decide), ?_⟩
  simp only [List.mem_cons, List.not_mem_nil, or_false] at hlane
  omega

/-- Every sub-box is matched once. -/
theorem boxOrder_nodup (first : Nat) : ((boxOrder first).map boxNumber).Nodup := by
  rw [boxOrder, List.map_flatMap, List.nodup_flatMap]
  refine ⟨fun n _ => by simp [boxNumber], List.nodup_range.imp_of_mem fun {n k} hn hk hne => ?_⟩
  have hn := List.mem_range.1 hn
  have hk := List.mem_range.1 hk
  simp only [Function.onFun, boxNumber, List.disjoint_left, List.map_cons, List.map_nil, List.mem_cons, List.not_mem_nil, or_false]
  omega

/-- Grants that fit and are apart stay so while sub-boxes not yet matched are matched. -/
theorem matchBoxes_sound {resv : List Resv} {halted full : List Nat} {bs : List (Nat × Nat)} {x : Match}
    (hbs : ∀ b ∈ bs, b.1 < 32 ∧ b.2 < 3) (honce : (bs.map boxNumber).Nodup)
    (hnew : ∀ g ∈ x.grants, g.c ∉ bs.map boxNumber)
    (hapart : x.grants.Pairwise Apart) (hfits : ∀ g ∈ x.grants, GrantFits resv halted full g) :
    let y := bs.foldl (fun x b => matchBox b.2 b.1 resv halted full x) x
    y.grants.Pairwise Apart ∧ ∀ g ∈ y.grants, GrantFits resv halted full g := by
  induction bs generalizing x with
  | nil => exact ⟨hapart, hfits⟩
  | cons b bs ih =>
    obtain ⟨hb, hbs⟩ := List.forall_mem_cons.1 hbs
    obtain ⟨hfirst, honce⟩ := List.nodup_cons.1 honce
    obtain ⟨l, hgrants, hl, hbox⟩ := matchBox_grants hb.1 hb.2 resv halted full x
    refine ih hbs honce ?_ ?_ ?_ <;> rw [hgrants]
    · exact List.forall_mem_append.2 ⟨fun g hg h => hnew g hg (List.mem_cons_of_mem _ h), fun g hg => (hbox g hg).1 ▸ hfirst⟩
    · refine List.pairwise_append.2 ⟨hapart, hl, fun g hg g' hg' hc => absurd ?_ (hnew g hg)⟩
      rw [hc, (hbox g' hg').1]
      exact List.mem_cons_self
    · exact List.forall_mem_append.2 ⟨hfits, fun g hg => (hbox g hg).2⟩

/-- The grants of a block are apart and fit. -/
theorem computeGrants_sound (s : State) :
    (computeGrants s (reports s)).grants.Pairwise Apart ∧
    ∀ g ∈ (computeGrants s (reports s)).grants, GrantFits (nextResv s) s.fab.halted s.fab.full g := by
  by_cases h : ((reports s).req.isEmpty && (reports s).mc.isEmpty) = true
  · rw [computeGrants, if_pos h]
    exact ⟨.nil, nofun⟩
  · rw [computeGrants_of_requests h]
    exact matchBoxes_sound (fun _ => mem_boxOrder_lt) (boxOrder_nodup _) nofun .nil nofun

/-! ### A block boundary -/

@[simp] theorem pmcCount_fab (block code qual n : Nat) (s : State) : (pmcCount block code qual n s).fab = s.fab := by
  unfold pmcCount
  split <;> rfl

/-- The reports of FULL change nothing else of the fabric (R182). -/
theorem reportFull_fab (s : State) :
    (reportFull s).fab = { s.fab with full := (liveSlices s).filter (fun k => decide (freePool s k < 384)) } :=
  foldl_keeps State.fab (fun _ _ => by rw [pmcCount_fab, bump_fab]) _ _

/-- A boundary's effects on the fabric: FULL is reported, the grants made last come into force, and the next are made with the
pointers they leave. -/
theorem blockEffects_fab (s : State) :
    let x := computeGrants (matchState s) (reports (matchState s))
    (blockEffects s).fab =
      { (reportFull s).fab with grants := (reportFull s).fab.next, next := x.grants, gp := x.gp, ap := x.ap } :=
  foldl_keeps State.fab (fun _ _ => pmcCount_fab _ _ _ _ _) _ _

/-- Settles O16: the grants of a block are apart and fit, sub-box by sub-box in the order of R169 (R159, R172, R174, R175, R182). -/
theorem grantsNeverCollide : Obligations.GrantsNeverCollide := by
  unfold Obligations.GrantsNeverCollide
  refine ⟨fun s => ?_, fun s => ?_⟩
  · obtain ⟨hapart, hfits⟩ := computeGrants_sound s
    refine ⟨hapart, fun g hg => ?_⟩
    obtain ⟨hbox, hmid, hin, hserved, hout, hone⟩ := hfits g hg
    obtain ⟨hi, hrun, hresv⟩ := mem_freeIngress.1 hin
    refine ⟨hbox, hi, hrun, hmid, hserved, fun j hj => ?_, hone, fun r hr hc => ⟨hresv r hr hc, fun hj => ?_⟩⟩
    · obtain ⟨hlt, hopen, -⟩ := mem_freeEgress.1 (hout j hj)
      exact ⟨hlt, hopen⟩
    · exact (mem_freeEgress.1 (hout _ hj)).2.2 r hr hc rfl
  · rw [blockEffects_fab]
    exact ⟨show (reportFull s).fab.next = s.fab.next by rw [reportFull_fab], rfl⟩

end Sys2Proof.Machine
end

/-! ## The fabric and egress rows (chapters 7 to 9) -/
section
namespace Sys2Proof.Machine

/-- The lanes of a slice inject in order: those below a lane, then the lane. -/
theorem injectBelow_succ (slice lane : Nat) (s : State) :
    injectBelow slice (lane + 1) s = injectSlot slice lane (injectBelow slice lane s) := by
  rw [injectBelow, List.range_succ, List.foldl_append]
  rfl

/-- An unused slot of a live slice is used, and carries its turn where the middle slice it faces is live (R157, R175). -/
theorem injectSlot_of_unused {slice lane : Nat} {s : State} (hlive : sliceHalted s slice = false)
    (hunused : tget s.fab.injAt (slice, lane) 0 ≠ s.time.now + 1) :
    injectSlot slice lane s = if sliceHalted s (middleNow slice s) = true then injUsed slice lane s
      else injectTurn slice lane (injUsed slice lane s) :=
  if_neg (not_or.2 ⟨Bool.eq_false_iff.1 hlive, hunused⟩)

/-- A halted slice's slot, and one used in this cycle, sends nothing. -/
theorem injectSlot_of_used {slice lane : Nat} {s : State}
    (h : sliceHalted s slice = true ∨ tget s.fab.injAt (slice, lane) 0 = s.time.now + 1) : injectSlot slice lane s = s :=
  if_pos h

/-- A port whose link is up, on a module that forwards, schedules in a cycle where it has not selected (R195). -/
theorem schedules_of_unused {ps : PortSt} {s : State} (hlink : ps.link = true) (hfwd : forwarding s = true)
    (hunused : ps.selAt ≠ s.time.now + 1) : (!ps.link || !forwarding s || ps.selAt == s.time.now + 1) = false := by
  rw [hlink, hfwd, beq_false_of_ne hunused]
  rfl

/-- Settles O33: each row's body comes to its effect under the clause's conditions. That CELL_INJECT first does the cycle's lookups
and depths, once each, and the lanes below is log entries 7 and 26; that a frame's pool cells leave at its selection is log
entry 39, and the siding's order log entry 40. -/
theorem fabricAndEgressRowsAct : Obligations.FabricAndEgressRowsAct := by
  unfold Obligations.FabricAndEgressRowsAct
  refine ⟨?inject, injectBelow_succ, fun _ _ _ => injectSlot_of_unused, fun _ _ _ => injectSlot_of_used, ?released, ?badCrc,
    ?late, ?select, ?cut, ?aged, ?onDie, ?sample, ?verified, ?unverified⟩
  case inject =>
    refine fun slice lane hslice hlane => acts_of_next (fun _ => rfl) fun s _ => ?_
    exact if_neg (not_or.2 ⟨Nat.not_le.2 hslice, Nat.not_le.2 hlane⟩)
  case released => exact fun slice c => acts_of_next (fun _ => rfl) fun s hdue => by simp only [hdue]
  case badCrc => exact fun slice c => acts_of_next (fun _ => rfl) fun s hdue => by simp only [hdue]
  case late => exact fun slice c => acts_of_next (fun _ => rfl) fun s hdue => by simp only [hdue]
  case select =>
    refine fun port ps => acts_of_next (fun _ => rfl) fun s ⟨hport, hlink, hfwd, hunused, hfree⟩ => ?_
    simp only [hport, schedules_of_unused hlink hfwd hunused, hfree, Bool.false_eq_true, if_false, if_true]
  case cut =>
    refine fun port ps w n q =>
      acts_of_next (fun _ => rfl) fun s ⟨hport, hlink, hfwd, hunused, hbusy, hwire, hpre, hready, hcut⟩ => ?_
    simp only [hport, schedules_of_unused hlink hfwd hunused, hbusy, hwire, hpre, hready, hcut, Bool.not_true, Bool.false_eq_true,
      if_false]
  case aged =>
    refine fun slice corrected c f => acts_of_next (fun _ => rfl) fun s ⟨hdone, hframe, hold⟩ => ?_
    simp only [hdone, hframe, sideReturn, if_pos hold]
  case onDie =>
    refine fun slice corrected c f => acts_of_next (fun _ => rfl) fun s ⟨hdone, hframe, hyoung⟩ => ?_
    simp only [hdone, hframe, sideReturn, if_neg hyoung]
  case sample =>
    refine fun slice hslice => acts_of_next (fun _ => rfl) fun s hdue => ?_
    simp only [ge_iff_le, Nat.not_le.2 hslice, hdue, Bool.not_true, Bool.false_eq_true, or_self, if_false]
  case verified =>
    refine fun port ps => acts_of_next (fun _ => rfl) fun s ⟨hport, hverifying⟩ => ?_
    simp only [hport, hverifying, ne_eq, not_true_eq_false, if_false, if_true]
  case unverified =>
    refine fun port ps => acts_of_next (fun _ => rfl) fun s ⟨hport, hverifying⟩ => ?_
    simp only [hport, hverifying, ne_eq, not_true_eq_false, Bool.false_eq_true, if_false]

end Sys2Proof.Machine
end

/-! ## Egress credit and histograms (R204 to R208) -/
section
namespace Sys2Proof.Machine

/-! ### Accrual without a selection (R205) -/

theorem mSlope_nonneg (w : BitVec 64) : 0 ≤ mSlope w := Int.natCast_nonneg _

theorem mHi_nonneg (w : BitVec 64) : 0 ≤ mHi w := by unfold mHi; positivity

theorem mLo_nonneg (w : BitVec 64) : 0 ≤ mLo w := by unfold mLo; positivity

@[simp] theorem accrue_zero (w : BitVec 64) (held : Bool) (c : Int) : accrue w held 0 c = c := if_pos (.inl rfl)

theorem accrue_of_disabled {w : BitVec 64} (hen : mEn w = false) (held : Bool) (n : Nat) (c : Int) : accrue w held n c = c :=
  if_pos (.inr (by rw [hen]; rfl))

/-- Nothing stops a queue's credit at 0: it holds frames, or EMPTY_RESET is clear. -/
def fillsAboveZero (w : BitVec 64) (held : Bool) : Bool := held || !mEmptyReset w

theorem fillsAboveZero_iff (w : BitVec 64) (held : Bool) : fillsAboveZero w held = true ↔ held = true ∨ mEmptyReset w = false := by
  simp [fillsAboveZero]

/-- A credit `c` that a positive slope brings up to 0 in some number of cycles, rounded up, needs more than `n` of them iff `n`
cycles leave it negative. -/
theorem succ_le_ceil_div_iff {s : Int} (hs : 0 < s) (n : Nat) (c : Int) :
    ((n + 1 : Nat) : Int) ≤ (-c + s - 1) / s ↔ c + n * s < 0 := by
  rw [Int.le_ediv_iff_mul_le hs, Nat.cast_succ, Int.add_mul, Int.one_mul]
  omega

/-- The closed form from the first cycle on: the credit fills up to HI in the last cycle where the cycles before leave it
negative or nothing stops it at 0, and is 0 otherwise. -/
theorem accrue_succ_eq {w : BitVec 64} (hen : mEn w = true) (held : Bool) (n : Nat) (c : Int) :
    accrue w held (n + 1) c =
      if fillsAboveZero w held = true ∨ c + n * mSlope w < 0 then min (c + (n + 1) * mSlope w) (mHi w) else 0 := by
  have hs := mSlope_nonneg w
  have hhi := mHi_nonneg w
  have hlast : c + ((n : Int) + 1) * mSlope w = c + n * mSlope w + mSlope w := by ring
  have hns : 0 ≤ (n : Int) * mSlope w := by positivity
  unfold accrue
  rw [if_neg (by simp [hen]), Nat.cast_succ]
  by_cases hfill : fillsAboveZero w held = true
  · rw [if_pos (by simpa [fillsAboveZero] using hfill), if_pos (.inl hfill)]
  rw [if_neg (by simpa [fillsAboveZero] using hfill)]
  simp only [hfill, Bool.false_eq_true, false_or]
  by_cases hc : c ≥ 0
  · rw [if_pos hc, if_neg (by omega)]
  rw [if_neg hc]
  by_cases hle : c + ((n : Int) + 1) * mSlope w ≤ 0
  · rw [if_pos hle]
    split <;> omega
  · have hpos : 0 < mSlope w := pos_of_mul_pos_right (a := (n : Int) + 1) (by omega) (by positivity)
    rw [if_neg hle, ← Nat.cast_succ]
    exact if_congr ((and_iff_right hpos).trans (succ_le_ceil_div_iff hpos n c)) rfl rfl

theorem meterCycle_eq (w : BitVec 64) (held : Bool) (c : Int) :
    meterCycle w held c = if fillsAboveZero w held = true ∨ c < 0 then min (c + mSlope w) (mHi w) else min c 0 :=
  if_congr (by rw [fillsAboveZero_iff, or_assoc, or_comm (a := c < 0)]) rfl rfl

/-- One cycle more is R205's rule applied once more. -/
theorem accrue_succ {w : BitVec 64} (hen : mEn w = true) (held : Bool) (n : Nat) (c : Int) :
    accrue w held (n + 1) c = meterCycle w held (accrue w held n c) := by
  have hs := mSlope_nonneg w
  have hhi := mHi_nonneg w
  rw [accrue_succ_eq hen, meterCycle_eq]
  cases n with
  | zero =>
    rw [accrue_zero, Nat.cast_zero, Int.zero_mul, Int.add_zero, Int.zero_add, Int.one_mul]
    split <;> omega
  | succ n =>
    have hone : c + ((n : Int) + 1) * mSlope w = c + n * mSlope w + mSlope w := by ring
    have htwo : c + ((n : Int) + 1 + 1) * mSlope w = c + n * mSlope w + mSlope w + mSlope w := by ring
    rw [accrue_succ_eq hen, Nat.cast_succ, hone, htwo]
    by_cases hfill : fillsAboveZero w held = true
    · simp only [hfill, true_or, if_true]
      omega
    · simp only [hfill, Bool.false_eq_true, false_or]
      split_ifs <;> omega

theorem accrue_eq_iterate {w : BitVec 64} (hen : mEn w = true) (held : Bool) (n : Nat) (c : Int) :
    accrue w held n c = (meterCycle w held)^[n] c := by
  induction n with
  | zero => exact accrue_zero w held c
  | succ n ih => rw [accrue_succ hen, ih, Function.iterate_succ_apply']

/-! ### A parameter word that comes into force (R206) -/

theorem setMeterWord_credit_of_kept {w : BitVec 64} {q : QueueSt} (t : Nat) (h : mByte w = mByte q.word ∧ mEn w = mEn q.word) :
    (setMeterWord t w q).credit = max (-(mLo w)) (min (mHi w) (creditAtCycle q t)) :=
  if_neg (not_or.2 ⟨not_not.2 h.1, not_not.2 h.2⟩)

theorem setMeterWord_credit_of_changed {w : BitVec 64} {q : QueueSt} (t : Nat) (h : mByte w ≠ mByte q.word ∨ mEn w ≠ mEn q.word) :
    (setMeterWord t w q).credit = 0 := if_pos h

/-- Clamped into [-LO, HI] a credit lies between them, as neither is negative. -/
theorem clamped_mem_range (w : BitVec 64) (c : Int) :
    -(mLo w) ≤ max (-(mLo w)) (min (mHi w) c) ∧ max (-(mLo w)) (min (mHi w) c) ≤ mHi w := by
  have hlo := mLo_nonneg w
  have hhi := mHi_nonneg w
  omega

/-- Settles O46: by induction on the cycles without a selection: the closed form takes one more cycle by one application of
R205's rule. Its slope, HI and LO are never negative, so R206's clamp lands in [-LO, HI]. -/
theorem creditFollowsR205 : Obligations.CreditFollowsR205 := by
  unfold Obligations.CreditFollowsR205
  refine ⟨fun w held n c hen => accrue_eq_iterate hen held n c, fun w held n c hen => accrue_of_disabled hen held n c,
    fun t w q _ => ⟨rfl, rfl, rfl, fun hkept => ?_, setMeterWord_credit_of_changed t⟩⟩
  rw [setMeterWord_credit_of_kept t hkept]
  exact ⟨rfl, clamped_mem_range w _⟩

/-! ### The bins of a histogram (Table 9-5) -/

theorem histBin_le (v : Nat) : histBin v ≤ 19 := by
  unfold histBin
  split <;> omega

/-- The bins above `j` hold the values from `2 ^ j` on. -/
theorem lt_histBin_iff {j v : Nat} (hj : j < 19) : j < histBin v ↔ 2 ^ j ≤ v := by
  unfold histBin
  split
  next hv =>
    subst hv
    simp
  next hv =>
    rw [← Nat.le_log2 hv]
    omega

theorem histBin_eq_zero_iff (v : Nat) : histBin v = 0 ↔ v = 0 := by
  have h := lt_histBin_iff (j := 0) (v := v) (by decide)
  omega

theorem histBin_eq_iff {j v : Nat} (h1 : 1 ≤ j) (h18 : j ≤ 18) : histBin v = j ↔ 2 ^ (j - 1) ≤ v ∧ v ≤ 2 ^ j - 1 := by
  have hpos : 0 < 2 ^ j := by positivity
  calc histBin v = j ↔ j - 1 < histBin v ∧ ¬ j < histBin v := by omega
    _ ↔ 2 ^ (j - 1) ≤ v ∧ ¬ 2 ^ j ≤ v := by rw [lt_histBin_iff (by omega), lt_histBin_iff (by omega)]
    _ ↔ 2 ^ (j - 1) ≤ v ∧ v ≤ 2 ^ j - 1 := by omega

theorem histBin_eq_last_iff (v : Nat) : histBin v = 19 ↔ 262144 ≤ v := by
  have h := lt_histBin_iff (j := 18) (v := v) (by decide)
  have hle := histBin_le v
  omega

/-! ### Samples join their bins at the cycle's end (R208, R210) -/

theorem ctr_bump (c c' : Ctr) (i j i' j' : Nat) (s : State) :
    ctr (bump c i j s) c' i' j' = if (c, i, j) = (c', i', j') then ctr s c i j + 1 else ctr s c' i' j' :=
  tget_tset _ _ _ _ _

theorem binAdd_of_lt {e : Ctr × Nat × Nat} {s : State} (h : ctr s e.1 e.2.1 e.2.2 < 2 ^ 48 - 1) :
    binAdd e s = bump e.1 e.2.1 e.2.2 s := if_neg (Nat.not_le.2 h)

theorem binAdd_of_le {e : Ctr × Nat × Nat} {s : State} (h : 2 ^ 48 - 1 ≤ ctr s e.1 e.2.1 e.2.2) : binAdd e s = s := if_pos h

/-- A sample raises its own bin by one, up to the largest value. -/
theorem ctr_binAdd_self {e : Ctr × Nat × Nat} {s : State} (h : ctr s e.1 e.2.1 e.2.2 ≤ 2 ^ 48 - 1) :
    ctr (binAdd e s) e.1 e.2.1 e.2.2 = min (ctr s e.1 e.2.1 e.2.2 + 1) (2 ^ 48 - 1) := by
  rcases h.lt_or_eq with hlt | hmax
  · rw [binAdd_of_lt hlt, ctr_bump, if_pos rfl, min_eq_left (Nat.succ_le_of_lt hlt)]
  · rw [binAdd_of_le hmax.ge, hmax, min_eq_right (Nat.le_succ _)]

theorem ctr_binAdd_of_ne {e : Ctr × Nat × Nat} {c : Ctr} {i j : Nat} (hne : (c, i, j) ≠ e) (s : State) :
    ctr (binAdd e s) c i j = ctr s c i j := by
  rcases Nat.lt_or_ge (ctr s e.1 e.2.1 e.2.2) (2 ^ 48 - 1) with hlt | hge
  · rw [binAdd_of_lt hlt, ctr_bump, if_neg hne.symm]
  · rw [binAdd_of_le hge]

theorem binAdd_frame (e : Ctr × Nat × Nat) (s : State) : binAdd e s = { s with ctrs := (binAdd e s).ctrs } := by
  unfold binAdd
  split <;> rfl

/-- Samples in a row raise a bin by the number of them that are its own, up to the largest value. -/
theorem ctr_foldl_binAdd {e : Ctr × Nat × Nat} {s : State} (l : List (Ctr × Nat × Nat)) (h : ctr s e.1 e.2.1 e.2.2 ≤ 2 ^ 48 - 1) :
    ctr (l.foldl (fun s e => binAdd e s) s) e.1 e.2.1 e.2.2 = min (ctr s e.1 e.2.1 e.2.2 + l.count e) (2 ^ 48 - 1) := by
  induction l generalizing s with
  | nil => exact (min_eq_left h).symm
  | cons x l ih =>
    rw [List.foldl_cons]
    by_cases hx : x = e
    · subst hx
      have hself := ctr_binAdd_self h
      rw [ih (hself ▸ min_le_right _ _), hself, List.count_cons_self]
      omega
    · have hother := ctr_binAdd_of_ne (c := e.1) (i := e.2.1) (j := e.2.2) (Ne.symm hx) s
      rw [ih (hother ▸ h), hother, List.count_cons_of_ne hx]

@[simp] theorem apogeeRaise_ctrs (k : Nat × Nat) (cells pkts delay : Nat) (s : State) :
    (apogeeRaise k cells pkts delay s).ctrs = s.ctrs := by
  unfold apogeeRaise
  exact (apply_ite State.ctrs _ _ _).trans (ite_self _)

/-- Of what a cycle observed only the samples reach the counters: delays and depths go to the apogee words. -/
theorem observeEnd_ctrs (s : State) : (observeEnd s).ctrs =
    (s.egr.samples.foldl (fun s e => binAdd e s) { s with egr := { s.egr with samples := [], delays := [] } }).ctrs := by
  unfold observeEnd
  rw [foldl_keeps State.ctrs, foldl_keeps State.ctrs]
  · exact fun s e => apogeeRaise_ctrs _ _ _ _ s
  · intro s e
    split
    · exact apogeeRaise_ctrs _ _ _ _ s
    · rfl

/-- Settles O49: the bins by the powers of two they begin at, the counts by induction on the cycle's samples. -/
theorem histogramBinsSaturate : Obligations.HistogramBinsSaturate := by
  unfold Obligations.HistogramBinsSaturate
  refine ⟨fun v => ⟨Nat.lt_succ_of_le (histBin_le v), histBin_eq_zero_iff v, fun j => histBin_eq_iff, histBin_eq_last_iff v⟩,
    fun _ _ _ _ _ => rfl,
    fun e s h => ⟨ctr_binAdd_self h, fun c i j hne => ctr_binAdd_of_ne hne s, binAdd_frame e s⟩, fun e s h => ?_⟩
  calc ctr (observeEnd s) e.1 e.2.1 e.2.2
      = ctr (s.egr.samples.foldl (fun s e => binAdd e s) { s with egr := { s.egr with samples := [], delays := [] } })
          e.1 e.2.1 e.2.2 := by rw [ctr, observeEnd_ctrs, ← ctr]
    _ = min (ctr s e.1 e.2.1 e.2.2 + s.egr.samples.count e) (2 ^ 48 - 1) := ctr_foldl_binAdd s.egr.samples h

end Sys2Proof.Machine
end

/-! ## The HBM channel rows (chapter 10) -/
section
namespace Sys2Proof.Machine

/-- A frozen or retraining channel of the 384 passes the check of RETRAIN_AND_RESUME and RETIRE (R228). -/
theorem recovers_of_frozen {channel : Nat} {s : State} (hchan : channel < 384) (hfrozen : chanFrozen s channel = true) :
    (decide (channel ≥ 384) || !chanFrozen s channel) = false := by
  rw [hfrozen, decide_eq_false (Nat.not_le.2 hchan)]
  rfl

/-- Settles O35: each row's body comes to its effect under the clause's conditions. That an HBM_ORDER_SET defers while another waits,
and their order, is log entry 38; what HBM_FREEZE carries of its diagnosis is log entry 86. -/
theorem hbmRowsComplete : Obligations.HbmRowsComplete := by
  unfold Obligations.HbmRowsComplete
  refine ⟨?trigger, ?freeze, ?status, ?order, ?orderDone, ?freezeRead, ?retrain, ?retrained, ?retrainFailed, ?retire, ?ecc, ?thresh⟩
  case trigger => exact fun channel bank row => acts_of_next (fun _ => rfl) fun _ hdue => if_pos hdue
  case freeze =>
    refine fun channel cause cmd window beat address syndrome hchan => acts_of_next (fun _ => rfl) fun s hactive => ?_
    simp only [ge_iff_le, Nat.not_le.2 hchan, hactive, Bool.not_true, Bool.false_eq_true, or_self, if_false]
  case status =>
    refine fun h first count => completes_of_done (fun _ => rfl) fun _ u hrange => ?_
    simp only [hrange, Bool.not_true, Bool.false_eq_true, if_false, id]
  case order =>
    refine fun h regions order => defers_of_pend (fun _ => rfl) fun _ u hzeroed => ?_
    simp only [hzeroed, Bool.not_true, Bool.false_eq_true, if_false]
  case orderDone =>
    refine fun h rs o rest => acts_of_next (fun _ => rfl) fun s hfirst => ?_
    simp only [hfirst]
  case freezeRead =>
    refine fun h channel hchan => completes_of_done (fun _ => rfl) fun _ u hfrozen => ?_
    simp only [ge_iff_le, Nat.not_le.2 hchan, hfrozen, ne_eq, not_true_eq_false, if_false]
    rfl
  case retrain =>
    refine fun h channel hchan => defers_of_pend (fun _ => rfl) fun _ u ⟨hfrozen, hfree⟩ => ?_
    simp only [recovers_of_frozen hchan hfrozen, Bool.false_eq_true, if_false, withTablets_of_free _ hfree]
  case retrained =>
    refine fun channel h => acts_of_next (fun _ => rfl) fun s hwait => ?_
    simp only [hwait, if_true]
  case retrainFailed =>
    refine fun channel h => acts_of_next (fun _ => rfl) fun s hwait => ?_
    simp only [hwait, Bool.false_eq_true, if_false]
  case retire =>
    refine fun h channel hchan => completes_of_done (fun _ => rfl) fun _ u ⟨hfrozen, hfree⟩ => ?_
    simp only [recovers_of_frozen hchan hfrozen, Bool.false_eq_true, if_false, withTablets_of_free _ hfree]
  case ecc =>
    refine fun h channel first count hchan => completes_of_done (fun _ => rfl) fun _ u hrange => ?_
    simp only [ge_iff_le, Nat.not_le.2 hchan, hrange, Bool.not_true, Bool.false_eq_true, if_false, id]
  case thresh =>
    refine fun h threshold hlow hhigh => completes_of_done (fun _ => rfl) fun _ u _ => ?_
    exact if_neg (not_or.2 ⟨Nat.not_lt.2 hlow, Nat.not_lt.2 hhigh⟩)

end Sys2Proof.Machine
end

/-! ## A channel's activation table (R222) -/
section
namespace Sys2Proof.Machine

/-- The row an entry of an activation table counts. -/
def actKey (a : ActCount) : Nat × Nat := (a.bank, a.row)

@[simp] theorem actKey_mk (b r n : Nat) : actKey ⟨b, r, n⟩ = (b, r) := rfl

/-- An entry after an activation of a listed row: its own row's entry counts one more. -/
def raiseAct (b r : Nat) (a : ActCount) : ActCount := if a.bank = b ∧ a.row = r then { a with count := a.count + 1 } else a

@[simp] theorem raiseAct_self (b r n : Nat) : raiseAct b r ⟨b, r, n⟩ = ⟨b, r, n + 1⟩ := if_pos ⟨rfl, rfl⟩

theorem raiseAct_of_ne {b r : Nat} {a : ActCount} (h : actKey a ≠ (b, r)) : raiseAct b r a = a :=
  if_neg fun ⟨hbank, hrow⟩ => h (Prod.ext hbank hrow)

@[simp] theorem actKey_raiseAct (b r : Nat) (a : ActCount) : actKey (raiseAct b r a) = actKey a := by
  unfold raiseAct
  split <;> rfl

theorem map_raiseAct_of_notMem {b r : Nat} {l : List ActCount} (h : (b, r) ∉ l.map actKey) : l.map (raiseAct b r) = l :=
  (List.map_congr_left fun a ha => raiseAct_of_ne fun hkey => h (List.mem_map.2 ⟨a, ha, hkey⟩)).trans (List.map_id l)

theorem actsOk_iff (l : List ActCount) : actsOk l ↔ l.length ≤ 32 ∧ (l.map actKey).Nodup := Iff.rfl

/-! ### The entry of lowest count -/

/-- One entry of the search for the lowest count: the place and count of the lowest so far, and the entries passed. -/
def lowestStep (acc : Nat × Nat × Nat) (a : ActCount) : Nat × Nat × Nat :=
  if a.count < acc.2.1 then (acc.2.2, a.count, acc.2.2 + 1) else (acc.1, acc.2.1, acc.2.2 + 1)

theorem lowestAct_cons (x : ActCount) (l : List ActCount) : lowestAct (x :: l) = (l.foldl lowestStep (0, x.count, 1)).1 := by
  have hfirst : lowestStep (0, x.count, 0) x = (0, x.count, 1) := if_neg (Nat.lt_irrefl _)
  rw [← hfirst]
  rfl

/-- In `pre ++ x :: post` the entry `x` is the first of the lowest count. -/
def FirstLowest (pre : List ActCount) (x : ActCount) (post : List ActCount) : Prop :=
  (∀ e ∈ pre, x.count < e.count) ∧ ∀ e ∈ post, x.count ≤ e.count

theorem FirstLowest.le {pre post : List ActCount} {x : ActCount} (h : FirstLowest pre x post) :
    ∀ e ∈ pre ++ x :: post, x.count ≤ e.count := by
  obtain ⟨hpre, hpost⟩ := h
  exact List.forall_mem_append.2 ⟨fun e he => (hpre e he).le, List.forall_mem_cons.2 ⟨le_rfl, hpost⟩⟩

/-- The search holds the first entry of the lowest count among those passed. -/
theorem foldl_lowestStep (x : ActCount) (l : List ActCount) :
    ∃ pre y post, x :: l = pre ++ y :: post ∧ FirstLowest pre y post ∧
      l.foldl lowestStep (0, x.count, 1) = (pre.length, y.count, (x :: l).length) := by
  induction l using List.reverseRecOn with
  | nil => exact ⟨[], x, [], rfl, ⟨nofun, nofun⟩, rfl⟩
  | append_singleton l a ih =>
    obtain ⟨pre, y, post, hl, hlow, hfold⟩ := ih
    rw [List.foldl_append, hfold, List.foldl_cons, List.foldl_nil, lowestStep]
    split
    next hless =>
      exact ⟨x :: l, a, [], rfl, ⟨fun e he => hless.trans_le (hlow.le e (hl ▸ he)), nofun⟩, by simp⟩
    next hmore =>
      obtain ⟨hpre, hpost⟩ := hlow
      exact ⟨pre, y, post ++ [a], by rw [← List.cons_append, hl, List.append_assoc, List.cons_append],
        ⟨hpre, List.forall_mem_append.2 ⟨hpost, List.forall_mem_singleton.2 (Nat.not_lt.1 hmore)⟩⟩, by simp⟩

/-- `lowestAct` is the place of the first entry of the lowest count. -/
theorem lowestAct_spec {l : List ActCount} (hne : l ≠ []) :
    ∃ pre x post, l = pre ++ x :: post ∧ FirstLowest pre x post ∧ lowestAct l = pre.length := by
  obtain ⟨y, l, rfl⟩ := List.exists_cons_of_ne_nil hne
  obtain ⟨pre, x, post, hl, hlow, hfold⟩ := foldl_lowestStep y l
  exact ⟨pre, x, post, hl, hlow, by rw [lowestAct_cons, hfold]⟩

/-! ### What an activation does to the table -/

theorem any_row_eq_true_iff (b r : Nat) (l : List ActCount) :
    l.any (fun a => a.bank == b && a.row == r) = true ↔ (b, r) ∈ l.map actKey := by
  simp [actKey]

/-- A listed row counts one more. -/
theorem countAct_of_mem {b r : Nat} {l : List ActCount} (h : (b, r) ∈ l.map actKey) : countAct b r l = l.map (raiseAct b r) :=
  if_pos ((any_row_eq_true_iff b r l).2 h)

/-- An unlisted row takes a free entry. -/
theorem countAct_of_room {b r : Nat} {l : List ActCount} (h : (b, r) ∉ l.map actKey) (hroom : l.length < 32) :
    countAct b r l = l ++ [⟨b, r, 1⟩] :=
  (if_neg (mt (any_row_eq_true_iff b r l).1 h)).trans (if_pos hroom)

/-- Where no entry is free, an unlisted row takes the first of the lowest count. -/
theorem countAct_of_full {b r : Nat} {l : List ActCount} (h : (b, r) ∉ l.map actKey) (hfull : 32 ≤ l.length) :
    ∃ pre x post, l = pre ++ x :: post ∧ FirstLowest pre x post ∧ countAct b r l = pre ++ ⟨b, r, x.count + 1⟩ :: post := by
  obtain ⟨pre, x, post, rfl, hlow, hplace⟩ := lowestAct_spec (l := l) (by rintro rfl; simp at hfull)
  refine ⟨pre, x, post, rfl, hlow, ?_⟩
  rw [countAct, if_neg (mt (any_row_eq_true_iff b r _).1 h), if_neg (Nat.not_lt.2 hfull), hplace]
  simp

theorem countAct_listed {b r n : Nat} {pre post : List ActCount} (hok : actsOk (pre ++ ⟨b, r, n⟩ :: post)) :
    countAct b r (pre ++ ⟨b, r, n⟩ :: post) = pre ++ ⟨b, r, n + 1⟩ :: post := by
  obtain ⟨-, hnodup⟩ := (actsOk_iff _).1 hok
  rw [List.map_append, List.map_cons, List.nodup_middle, List.nodup_cons, List.mem_append, not_or] at hnodup
  obtain ⟨⟨hpre, hpost⟩, -⟩ := hnodup
  rw [countAct_of_mem (by simp [actKey]), List.map_append, List.map_cons, map_raiseAct_of_notMem hpre,
    map_raiseAct_of_notMem hpost, raiseAct_self]

/-- Every activation keeps at most 32 entries, no row twice. -/
theorem actsOk_countAct (b r : Nat) {l : List ActCount} (hok : actsOk l) : actsOk (countAct b r l) := by
  obtain ⟨hlen, hnodup⟩ := (actsOk_iff l).1 hok
  by_cases hmem : (b, r) ∈ l.map actKey
  · have hkeys : (l.map (raiseAct b r)).map actKey = l.map actKey := by simp
    rw [countAct_of_mem hmem, actsOk_iff, hkeys, List.length_map]
    exact ⟨hlen, hnodup⟩
  · rcases Nat.lt_or_ge l.length 32 with hroom | hfull
    · rw [countAct_of_room hmem hroom, actsOk_iff, List.map_append, List.length_append]
      exact ⟨hroom, by simpa using hnodup.concat hmem⟩
    · obtain ⟨pre, x, post, rfl, -, hcount⟩ := countAct_of_full hmem hfull
      rw [List.map_append, List.map_cons, List.perm_middle.mem_iff] at hmem
      rw [List.map_append, List.map_cons, List.nodup_middle] at hnodup
      rw [hcount, actsOk_iff, List.map_append, List.map_cons, List.nodup_middle]
      exact ⟨by simpa using hlen, List.nodup_cons.2 ⟨mt (List.mem_cons_of_mem _) hmem, hnodup.of_cons⟩⟩

/-- The rows a trigger refreshes. -/
theorem mem_neighbours_iff (b r x y : Nat) :
    (x, y) ∈ neighbours b r ↔ x = b ∧ y < 16384 ∧ (y + 2 = r ∨ y + 1 = r ∨ y = r + 1 ∨ y = r + 2) := by
  simp only [neighbours, List.mem_filterMap, List.mem_append, List.mem_ite_nil_right, List.mem_cons, List.not_mem_nil, or_false,
    Option.ite_none_right_eq_some, Option.some.injEq, Prod.mk.injEq]
  constructor
  · rintro ⟨a, hrow, hlt, rfl, rfl⟩
    exact ⟨rfl, hlt, by omega⟩
  · rintro ⟨rfl, hlt, hrow⟩
    exact ⟨y, by omega, hlt, rfl, rfl⟩

theorem chanOf_activate (c off : Nat) (s : State) : chanOf (activate c off s) c =
    { chanOf s c with acts := countAct (bankRow s off).1 (bankRow s off).2 (chanOf s c).acts } :=
  (chanOf_updChan c c _ s).trans (if_pos rfl)

theorem notMem_actKeys {b r : Nat} {l : List ActCount} (h : ∀ e ∈ l, (e.bank, e.row) ≠ (b, r)) : (b, r) ∉ l.map actKey :=
  fun hm => by
    obtain ⟨e, he, hkey⟩ := List.mem_map.1 hm
    exact h e he hkey

/-- Settles O45: a table's rows are told apart by bank and row, so an activation touches one entry; that a full table gives up the
first entry of the lowest count is by induction on the entries searched (R222). -/
theorem activationsAreCounted : Obligations.ActivationsAreCounted := by
  unfold Obligations.ActivationsAreCounted
  refine ⟨fun b r l => actsOk_countAct b r, fun b r n pre post => countAct_listed,
    fun b r l hnew => countAct_of_room (notMem_actKeys hnew), fun b r l hnew hfull => ?_, mem_neighbours_iff, chanOf_activate⟩
  obtain ⟨pre, x, post, rfl, hlow, hcount⟩ := countAct_of_full (notMem_actKeys hnew) hfull.ge
  exact ⟨pre, x, post, rfl, hlow.le, hlow.1, hcount⟩

end Sys2Proof.Machine
end

/-! ## Network time and the TIME_IO pins (chapter 11) -/
section
namespace Sys2Proof.Machine

/-- A table does not find a key it does not list. -/
theorem tfind_eq_none_of_notMem {κ α : Type} [DecidableEq κ] {t : Tab κ α} {k : κ} (h : k ∉ t.map (fun e => e.1)) :
    tfind t k = none := by
  induction t with
  | nil => rfl
  | cons e r ih =>
    obtain ⟨hne, hr⟩ := not_or.1 (List.mem_cons.not.1 h)
    rw [tfind, if_neg (Ne.symm hne), ih hr]

/-- Setting the entries of a list in which each key stands once puts each under its key and leaves every other key. -/
theorem tget_foldl_tset {κ α : Type} [DecidableEq κ] {l : Tab κ α} (hl : (l.map (fun e => e.1)).Nodup) (t : Tab κ α) (k : κ)
    (d : α) : tget (l.foldl (fun t e => tset t e.1 e.2) t) k d = (tfind l k).getD (tget t k d) := by
  induction l generalizing t with
  | nil => rfl
  | cons e r ih =>
    obtain ⟨hnew, hr⟩ := List.nodup_cons.1 hl
    rw [List.foldl_cons, ih hr, tget_tset, tfind]
    split
    next h => rw [tfind_eq_none_of_notMem (h ▸ hnew), Option.getD_none, Option.getD_some]
    next => rfl

/-- A pin configured or released in this cycle is at its end as that left it (R246). -/
theorem pinOf_pinsEnd {s : State} {pin : Nat} {x : PinSt} (hnodup : (s.clock.pinsNx.map (fun e => e.1)).Nodup)
    (hx : tfind s.clock.pinsNx pin = some x) : pinOf (pinsEnd s) pin = x :=
  (tget_foldl_tset hnodup _ pin PinSt.init).trans (by rw [hx, Option.getD_some])

/-- `periodDue` names the eighth in which the time less the phase is a multiple of the period, where all are whole eighths
(R245). -/
theorem periodDue_exact {s : State} {per ph e : Nat} (hph : ph < per) (hper8 : per % 5120 = 0) (htc8 : s.time.tc % 5120 = 0)
    (hph8 : ph % 5120 = 0) (hdue : periodDue s per ph = some e) : (s.time.tc + e * 5120 + (per - ph)) % per = 0 := by
  have hpos : 0 < per := Nat.zero_lt_of_lt hph
  rw [periodDue, Nat.mod_eq_of_lt hph] at hdue
  set off := (s.time.tc + (per - ph)) % per with hoff
  have hlt : off < per := Nat.mod_lt _ hpos
  have hoff8 : off % 5120 = 0 := by
    rw [hoff, Nat.mod_mod_of_dvd _ (Nat.dvd_of_mod_eq_zero hper8)]
    omega
  rw [Nat.add_right_comm, Nat.add_mod, ← hoff]
  split at hdue
  next hzero =>
    obtain rfl := Option.some.inj hdue
    simp [hzero]
  next =>
    split at hdue
    next hsoon =>
      obtain rfl := Option.some.inj hdue
      have heighths : (per - off) / 5120 * 5120 = per - off := by omega
      rw [heighths, Nat.add_mod_mod, Nat.add_sub_cancel' hlt.le, Nat.mod_self]
    next => exact absurd hdue nofun

/-- A pin that captures takes an edge no nearer than 20 ns to its last one where its queue has room (R246). -/
theorem capture_acts (pin : Nat) (rising : Bool) (eighth : Nat) :
    Acts (.timeIoCapture pin rising eighth)
      (fun s => pin ≤ 4 ∧ eighth ≤ 7 ∧ captures s pin rising = true ∧
        (∀ l, (pinOf s pin).lastEdge = some l → l + 256 ≤ s.time.now * 8 + eighth) ∧ (pinOf s pin).captures.length < 16)
      (fun s => updPin pin (fun p => { p with
        lastEdge := some (s.time.now * 8 + eighth), captures := p.captures ++ [s.time.tc + eighth * 5120] }) s) :=
  acts_of_next (fun _ => rfl) fun s ⟨hpin, height, hcap, hapart, hroom⟩ => by
    simp only [gt_iff_lt, Nat.not_lt.2 hpin, Nat.not_lt.2 height, hcap, ge_iff_le, Nat.not_le.2 hroom, Bool.not_true,
      Bool.false_eq_true, or_self, if_false]
    cases hlast : (pinOf s pin).lastEdge with
    | none => rfl
    | some l => exact if_neg fun h => Nat.not_lt.2 (hapart l hlast) (of_decide_eq_true h)

/-- What TIME_IO_ONE_SHOT makes of a pin whose shot at `t` has not fired and falls by the end of this cycle (R245). -/
theorem oneShot_acts (pin t w : Nat) (skipped : Bool) :
    Acts (.timeIoOneShot pin)
      (fun s => pin < 4 ∧ (pinOf s pin).fn = some (.oneShot t w) ∧ (pinOf s pin).fired = false ∧ t < s.time.tc + unitsPerCycle ∧
        (pinOf s pin).skipped = skipped)
      (fun s => (if skipped then raise 1461 else id) (updPin pin (fun p =>
        { drivePulse ((t - s.time.tc) / 5120) w s.time.now p with fired := true, skipped := false }) s)) :=
  acts_of_next (fun _ => rfl) fun s ⟨hpin, hfn, hfired, hdue, hskipped⟩ => by
    simp only [hpin, hfn, hfired, hdue, hskipped, Bool.not_false, and_self, if_true]
    split <;> rfl

/-- Settles O25: each command's body comes to its effect, and each happening acts, under the clause's conditions; a pin's writes of a
cycle are a fold over distinct pins. An edge falls in the eighth that holds its time, and its pulse keeps its width, by log entry 116;
a step accepted without a size of its own is an eighth of the sum of eight samples by log entry 83. -/
theorem timeRowsComplete : Obligations.TimeRowsComplete := by
  unfold Obligations.TimeRowsComplete
  refine ⟨?status, ?read, ?sources, ?accepted, ?refused, ?threshold, ?step, ?abort, ?holdover, ?ioSet, ?ioSetAgain, ?release,
    fun s pin x => pinOf_pinsEnd, ?ioRead, ?srcChange, ?refFails, ?refRecovers, ?holdoverEntry, ?irrevocable, ?periodic,
    fun s per ph e _ => periodDue_exact, fun pin t w => oneShot_acts pin t w false, fun pin t w => oneShot_acts pin t w true,
    capture_acts⟩
  case status => exact fun h => completes_of_done (fun _ => rfl) fun _ _ _ => rfl
  case read => exact fun h => completes_of_done (fun _ => rfl) fun _ _ _ => rfl
  case sources =>
    refine fun h srcs pa pb => completes_of_done (fun _ => rfl) fun _ u ⟨ha, hb⟩ => ?_
    simp only [ha, hb, Bool.false_eq_true, if_false]
  case accepted => exact fun h o => completes_of_done (fun _ => rfl) fun _ u hin => if_neg (Nat.not_lt.2 hin)
  case refused => exact fun h o => completes_of_done (fun _ => rfl) fun _ u hbeyond => if_pos hbeyond
  case threshold =>
    exact fun h jt => completes_of_done (fun _ => rfl) fun _ u ⟨hlow, hhigh⟩ =>
      if_neg (not_or.2 ⟨Nat.not_lt.2 hlow, Nat.not_lt.2 hhigh⟩)
  case step =>
    refine fun h delta target d n => defers_of_pend (fun _ => rfl) fun _ u ⟨hasked, hwhole, htarget, hfree⟩ => ?_
    simp only [hasked, hwhole, if_false, htarget, withTablets_of_free _ hfree]
  case abort =>
    refine fun h x => completes_of_done (fun _ => rfl) fun _ u ⟨hstep, hirr, hfar⟩ => ?_
    simp only [hstep, hirr, Nat.not_le.2 hfar, decide_false, Bool.or_self, Bool.false_eq_true, if_false]
  case holdover =>
    exact fun h ms fr ar fi ai => completes_of_done (fun _ => rfl) fun _ u ⟨hlow, hhigh⟩ =>
      if_neg (not_or.2 ⟨Nat.not_lt.2 hlow, Nat.not_lt.2 hhigh⟩)
  case ioSet =>
    refine fun h pin fn => completes_of_done (fun _ => rfl) fun _ u ⟨hpin, hok, hfree⟩ => ?_
    simp only [ge_iff_le, Nat.not_le.2 hpin, hok, hfree, Bool.not_true, Bool.false_eq_true, if_false, pinLater]
  case ioSetAgain =>
    refine fun h pin fn g => completes_of_done (fun _ => rfl) fun _ u ⟨hpin, hok, hheld, hring⟩ => ?_
    simp only [ge_iff_le, Nat.not_le.2 hpin, hok, hheld, hring, Bool.not_true, Bool.false_eq_true, if_false, if_true, pinLater]
  case release =>
    refine fun h pin g => completes_of_done (fun _ => rfl) fun _ u ⟨hpin, hheld, hring⟩ => ?_
    simp only [ge_iff_le, Nat.not_le.2 hpin, hheld, hring, if_false, if_true, pinLater]
  case ioRead =>
    refine fun h pin => completes_of_done (fun _ => rfl) fun _ u ⟨hpin, hcap⟩ => ?_
    simp only [hpin, hcap, decide_true, Bool.and_self, if_true]
  case srcChange => exact fun src ok => acts_of_next (fun _ => rfl) fun _ _ => rfl
  case refFails => exact acts_of_next (fun _ => rfl) fun _ _ => rfl
  case refRecovers => exact acts_of_next (fun _ => rfl) fun _ _ => rfl
  case holdoverEntry => exact acts_of_guard (fun _ h => h) fun _ => rfl
  case irrevocable =>
    refine fun x => acts_of_next (fun _ => rfl) fun s ⟨hstep, hdue⟩ => ?_
    simp only [hstep, hdue, if_true]
  case periodic =>
    refine fun pin per ph w e => acts_of_next (fun _ => rfl) fun s ⟨hpin, hperiod, hpos, hfirst, _, hdue⟩ => ?_
    simp only [hperiod, hdue, hpin, hpos, hfirst, Bool.not_false, and_self, if_true]
    rfl

end Sys2Proof.Machine
end

/-! ## What a step does with a command, whatever the command -/
section
namespace Sys2Proof.Machine

/-- Settles O1: `step` is defined so. That commands wait in a queue of the model's is log entry 2. -/
theorem stepRunsTheFrontCommand : Obligations.StepRunsTheFrontCommand := by
  unfold Obligations.StepRunsTheFrontCommand
  exact fun c rest s => rfl

theorem pending_of_within {s t : State} {o : Host.Outcome State Fault Refusal} (h : within s o = .next t) : t.pending = s.pending := by
  cases o with
  | next u => cases h; rfl
  | fault r => cases h
  | refused r => cases h

theorem pending_of_timePasses {s t u : State} (h : timePasses s u = .next t) : t.pending = s.pending := by
  cases h
  rfl

/-- No command touches the queue: time passes at the boundary rows alone, and they put the queue back. -/
theorem exec_pending {c : Instr} {s t : State} (h : exec c s = .next t) : t.pending = s.pending := by
  cases hc : isBoundary c with
  | false =>
    obtain ⟨o, ho⟩ := exec_within c s hc
    exact pending_of_within (ho.symm.trans h)
  | true => rcases eq_of_isBoundary hc with rfl | rfl | rfl <;> exact pending_of_timePasses h

/-- Settles O3: every row but the three boundary rows is `within` its cycle. That a command acts within one cycle is log entry 2. -/
theorem commandsKeepQueueAndClock : Obligations.CommandsKeepQueueAndClock := by
  unfold Obligations.CommandsKeepQueueAndClock
  refine fun c s t h => ⟨exec_pending h, fun hc => ?_⟩
  obtain ⟨o, ho⟩ := exec_within c s hc
  exact time_of_within (ho.symm.trans h)

/-- The outcome is a next state. -/
def Answers (o : Host.Outcome State Fault Refusal) : Prop := ∃ t, o = .next t

theorem answers_within {s : State} {o : Host.Outcome State Fault Refusal} (h : Answers o) : Answers (within s o) := by
  obtain ⟨t, rfl⟩ := h
  exact ⟨keeping s t, within_next s t⟩

/-- Every row answers a next state: a protocol row and most happenings on their one path, the rest on each of their branches. -/
theorem exec_answers (c : Instr) (s : State) : Answers (exec c s) := by
  cases c
  case ruleVersionDiscardDone | holdoverEntry | timeStepIrrevocable | timeIoPeriodicEdge | pairAnswer | pairAge | pairDelete |
      ageingSweep | flowFlushDone | rowActivationTrigger | hbmFreeze | retrainDone | hbmOrderSetDone | hbmWriteBack |
      traceStreamEntry | agentTrap | agentTimerFire | agentUcodeScrub | fwImageWriteDone | fwSwitchDone | agentImageLoadDone |
      sidingReadReturn | egressSelect | preemptVerifyDone | histSample | cellRelease | forwardingDecision | hbmBucketReadReturn |
      frameTailStatus | laneRecalDone | laneLost | cartHandoverDone | cartRestoreDone | sanitizeDone | hbmZeroingDone |
      moduleFaultHalt | mainPowerReturn | stbyContact | mmcReady | moduleSeated | pwrGood | softStartFail | standbyPowerRemoved |
      coolantFault | barAccessFault | barAccessErrRead | timeLoRead | ucodeLoadDone | ucodeScrubRewrite | ttCommitIrrevocable |
      cellInject | updateSlot =>
    refine answers_within ?_
    repeat' split
    all_goals exact ⟨_, rfl⟩
  case arrayRepaired | timeIoCapture | timeIoOneShot | frameReceive | cartFault | cartInsert | cartRemove | sliceHalt |
      drainWipeDone | powerOffDone | holdUpExhausted | calibrationDone | modReset | modResetLRise | evcClaim | inbandCommand |
      replyWrite =>
    refine answers_within ?_
    dsimp only
    repeat' split
    all_goals exact ⟨_, rfl⟩
  all_goals exact ⟨_, rfl⟩

/-- Settles O4: a command in front is answered, and on an empty queue a cycle passes. -/
theorem everyStepIsAnswered : Obligations.EveryStepIsAnswered := by
  unfold Obligations.EveryStepIsAnswered
  intro s
  cases hp : s.pending with
  | nil => exact ⟨tick s, by rw [step, hp]⟩
  | cons c rest =>
    obtain ⟨t, ht⟩ := exec_answers c { s with pending := rest }
    exact ⟨t, by rw [step, hp]; exact ht⟩

end Sys2Proof.Machine
end

/-! ## The checks of Table 13-2 in their order -/
section
namespace Sys2Proof.Machine

/-- A row's command stands fetched, or there is room to fetch it (R278) and its ring is not held by PERST# (R366). -/
def fetchable (h : Hdr) (code : Nat) (s : State) : Bool :=
  s.qcp.exec.any (isFetched h code) ||
    (decide (inExec s h.ring < execLimit h.ring) && !(s.mmc.perst && h.ring != .inband))

theorem qcp_of_stopped {s : State} (op : Op) (h : Hdr) (body : State → Out) (hp : protocolRuns s = false) : qcp op h body s = s := by
  simp only [qcp, hp, Bool.not_false, if_true]

theorem qcp_of_full {op : Op} {h : Hdr} {s : State} (body : State → Out) (hnew : s.qcp.exec.any (isFetched h op.code) = false)
    (hfull : execLimit h.ring ≤ inExec s h.ring) : qcp op h body s = s := by
  unfold qcp
  split
  · rfl
  · split
    · rfl
    · simp only [hnew, ge_iff_le, hfull, decide_true, Bool.true_or, Bool.not_false, Bool.and_self, if_true]

/-- A command that can be fetched waits where an earlier one holds it back (R277), and else is examined. -/
theorem qcp_of_fetchable {op : Op} {h : Hdr} {w : World} {s : State} (body : State → Out) (hp : protocolRuns s = true)
    (hw : ringWorld s h.ring = some w) (hf : fetchable h op.code s = true) :
    qcp op h body s =
      if heldBack h op.code (atFetch op h s) then atFetch op h s else runCmd op h w body (atFetch op h s) := by
  have hroom : (!s.qcp.exec.any (isFetched h op.code) &&
      (decide (inExec s h.ring ≥ execLimit h.ring) || (s.mmc.perst && h.ring != .inband))) = false := by
    rw [← Bool.not_eq_true', ← hf, fetchable]
    simp only [ge_iff_le, Bool.not_and, Bool.not_or, Bool.not_not, ← decide_not, not_le]
  simp only [qcp, hp, hw, hroom, Bool.not_true, Bool.false_eq_true, if_false]
  rfl

theorem qcp_of_examined {op : Op} {h : Hdr} {w : World} {s : State} (body : State → Out) (he : examined op h w s = true) :
    qcp op h body s = runCmd op h w body (atFetch op h s) := by
  simp only [examined, Bool.and_eq_true, Bool.not_eq_true', beq_iff_eq] at he
  obtain ⟨⟨⟨hp, hw⟩, hf⟩, hfree⟩ := he
  rw [qcp_of_fetchable body hp hw hf, hfree, if_neg Bool.false_ne_true]

/-- Settles O8: the checks are the branches of `runCmd`, which a command comes to once nothing holds it back. -/
theorem checksRefuseInOrder : Obligations.ChecksRefuseInOrder := by
  unfold Obligations.ChecksRefuseInOrder
  refine ⟨fun op h body s => qcp_of_stopped op h body, fun op h body s => qcp_of_full body, ?held, ?refused, ?halt⟩
  case held =>
    intro op h body s w hp hw hf hheld
    have hfetch : fetchable h op.code s = true := by
      rcases hf with hthere | ⟨hroom, hperst⟩
      · rw [fetchable, hthere, Bool.true_or]
      · rw [fetchable, decide_eq_true hroom, hperst, Bool.false_and, Bool.not_false, Bool.and_self, Bool.or_true]
    rw [qcp_of_fetchable body hp hw hfetch, if_pos hheld]
  case refused =>
    intro op h body s w he u
    refine ⟨fun hw => ?world, fun hw hm => ?mode, fun hw hm hl => ?life, fun hw hm hl hh => ?host, fun st d hs hb => ?body,
      fun rs v hs hb hfit => ?reply⟩
    case world => simp only [qcp_of_examined body he, runCmd, hw, Bool.not_false, if_true, u]
    case mode =>
      simp only [u] at hm
      simp only [qcp_of_examined body he, runCmd, hw, hm, Bool.not_true, Bool.not_false, Bool.false_eq_true, if_false, if_true, u]
    case life =>
      simp only [u] at hm
      simp only [qcp_of_examined body he, runCmd, hw, hm, hl, Bool.not_true, Bool.not_false, Bool.false_eq_true, if_false, if_true, u]
    case host =>
      simp only [u] at hm
      simp only [qcp_of_examined body he, runCmd, hw, hm, hl, hh, Bool.not_true, Bool.false_eq_true, if_false, if_true, u]
    case body => rw [qcp_of_starts body hs, hb]
    case reply =>
      rw [qcp_of_starts body hs, hb]
      exact if_neg (Bool.eq_false_iff.1 hfit)
  case halt =>
    intro op s hhalt hreads hcode
    simp only [modeAllows, hhalt, hreads, beq_self_eq_true, Bool.true_or, Bool.not_true, beq_eq_false_iff_ne.2 hcode, Bool.and_false,
      Bool.or_self]

end Sys2Proof.Machine
end

/-! ## The commands that only read -/
section
namespace Sys2Proof.Machine

/-- `t` differs from `s` at most in the protocol's own state, the performance counters, the event flags, the log, the counters and
the count of free values drawn. -/
def ReadFrame (s t : State) : Prop :=
  t = { s with fresh := t.fresh, qcp := t.qcp, evc := t.evc, pmu := t.pmu, log := t.log, ctrs := t.ctrs }

@[simp] theorem ReadFrame.refl (s : State) : ReadFrame s s := rfl

theorem ReadFrame.trans {s t u : State} (h : ReadFrame s t) (h' : ReadFrame t u) : ReadFrame s u := by
  unfold ReadFrame at h h' ⊢
  rw [h', h]

theorem ReadFrame.symm {s t : State} (h : ReadFrame s t) : ReadFrame t s := by
  unfold ReadFrame at h ⊢
  rw [h]

theorem readFrame_fetchCmd (h : Hdr) (code : Nat) (inb : Option (Nat × BitVec 48)) (s : State) :
    ReadFrame s (fetchCmd h code inb s) := by
  unfold fetchCmd pmcCount
  dsimp only
  split <;> rfl

theorem readFrame_atFetch (op : Op) (h : Hdr) (s : State) : ReadFrame s (atFetch op h s) := by
  unfold atFetch
  split
  · exact .refl s
  · exact readFrame_fetchCmd _ _ _ s

theorem readFrame_answer (h : Hdr) (code : Nat) (st : Status) (d : Option Detail) (rs : List RField) (s : State) :
    ReadFrame s (answer h code st d rs s) := by
  obtain ⟨q, c, e⟩ := answer_frame h code st d rs s
  rw [e]
  rfl

theorem readFrame_logAdd (cls : LogClass) (kind : String) (w : Option World) (vals : List Nat) (s : State) :
    ReadFrame s (logAdd cls kind w vals s) := by
  unfold logAdd logKeep
  dsimp only
  split
  · rfl
  · split <;> rfl

theorem readFrame_violate (w : World) (code : Nat) (s : State) : ReadFrame s (violate w code s) :=
  ReadFrame.trans (t := raise 1491 (bump .worldViolations (worldIx w) 0 s)) rfl (readFrame_logAdd _ _ _ _ _)

/-- An outcome whose state, where it has one, `ReadFrame` relates to the state the body runs on. -/
def OutReads (u : State) : Out → Prop
  | .refuse _ _ => True
  | .done _ t | .pend t | .start t | .reply _ _ _ t => ReadFrame u t

/-- What examining a command does beside its body is the protocol's. -/
theorem readFrame_runCmd {op : Op} {h : Hdr} {w : World} {body : State → Out} {u : State} (hb : OutReads u (body u)) :
    ReadFrame u (runCmd op h w body u) := by
  unfold runCmd
  split_ifs
  · exact (readFrame_violate w op.code u).trans (readFrame_answer _ _ _ _ _ _)
  · exact readFrame_answer _ _ _ _ _ u
  · exact readFrame_answer _ _ _ _ _ u
  · exact readFrame_answer _ _ _ _ _ u
  · cases hbody : body u with rw [hbody] at hb
    | refuse st d => exact readFrame_answer _ _ _ _ _ u
    | done rs t =>
      dsimp only
      split
      · exact ReadFrame.trans hb (readFrame_answer _ _ _ _ _ t)
      · exact readFrame_answer _ _ _ _ _ u
    | pend t => exact ReadFrame.trans hb (readFrame_answer _ _ _ _ _ t)
    | start t => exact ReadFrame.trans hb rfl
    | reply st d rs t => exact ReadFrame.trans hb (readFrame_answer _ _ _ _ _ t)

theorem readFrame_qcp {op : Op} {h : Hdr} {body : State → Out} (hb : ∀ u, OutReads u (body u)) (s : State) :
    ReadFrame s (qcp op h body s) := by
  unfold qcp
  split
  · exact .refl s
  · split
    · exact .refl s
    next w _ =>
      change ReadFrame s (if _ then s else if heldBack h op.code (atFetch op h s) then atFetch op h s
        else runCmd op h w body (atFetch op h s))
      split
      · exact .refl s
      · split
        · exact readFrame_atFetch op h s
        · exact (readFrame_atFetch op h s).trans (readFrame_runCmd (hb _))

/-- A protocol row reads only where its body does. -/
theorem readsOnly_of_body {c : Instr} {h : Hdr} {op : State → Op} {body : State → State → Out}
    (hx : ∀ s, exec c s = within s (.next (qcp (op s) h (body s) s))) (hb : ∀ s u, OutReads u (body s u)) : ReadsOnly c := by
  intro s t ht
  have hq := readFrame_qcp (op := op s) (h := h) (hb s) s
  rw [hx, within_next] at ht
  cases ht
  unfold ReadFrame at hq
  rw [keeping, hq]

@[simp] theorem outReads_refuse (u : State) (st : Status) (d : Option Detail) : OutReads u (.refuse st d) := trivial

@[simp] theorem outReads_badParam (u : State) (off : Nat) : OutReads u (badParam off) := trivial

@[simp] theorem outReads_done_iff (u t : State) (rs : List RField) : OutReads u (.done rs t) ↔ ReadFrame u t := Iff.rfl

@[simp] theorem readFrame_drawn (s : State) : ReadFrame s (drawn s) := rfl

@[simp] theorem readFrame_draws (n : Nat) (s : State) : ReadFrame s (draws n s) := rfl

/-- A further step of the kind does not matter on the right. -/
theorem ReadFrame.iff_of_frame {s t u : State} (h : ReadFrame t u) : ReadFrame s u ↔ ReadFrame s t :=
  ⟨fun hu => hu.trans h.symm, fun ht => ht.trans h⟩

@[simp] theorem readFrame_clearCtr_iff (s t : State) (c : Ctr) (i j : Nat) : ReadFrame s (clearCtr c i j t) ↔ ReadFrame s t :=
  ReadFrame.iff_of_frame rfl

theorem ReadFrame.foldl {α : Type} {f : State → α → State} (hf : ∀ s x, ReadFrame s (f s x)) (l : List α) (s : State) :
    ReadFrame s (l.foldl f s) := by
  induction l generalizing s with
  | nil => exact .refl s
  | cons x l ih => exact (hf s x).trans (ih _)

@[simp] theorem readFrame_clearAll_iff {α : Type} (s t : State) (c : α → Ctr) (i j : α → Nat) (l : List α) :
    ReadFrame s (l.foldl (fun s x => clearCtr (c x) (i x) (j x) s) t) ↔ ReadFrame s t :=
  ReadFrame.iff_of_frame (.foldl (fun s _ => (readFrame_clearCtr_iff s s _ _ _).2 (.refl s)) l t)

theorem readFrame_pmuClear (b : Nat) (s : State) : ReadFrame s (pmuClear b s) := by
  refine ReadFrame.foldl (fun t i => ?_) _ s
  rfl

theorem outReads_of_taskIndexBad {k id : Nat} {o : Out} (u : State) (h : taskIndexBad k id = some o) : OutReads u o := by
  unfold taskIndexBad at h
  split_ifs at h <;> obtain rfl := Option.some.inj h <;> exact outReads_badParam u _

/-- Settles O44: each row's body refuses, or completes on the state as it was, after draws, or with counters cleared; the protocol's
own part of the row stays within the frame (R272, R276, R323). -/
theorem readingCommandsChangeNothingElse : Obligations.ReadingCommandsChangeNothingElse := by
  unfold Obligations.ReadingCommandsChangeNothingElse
  refine ⟨?agentStatus, ?agentCounters, ?bufStatus, ?bufCounters, ?timeStatus, ?timeRead, ?preemptStatus, ?queueShaperGet, ?histRead,
    ?queueCounters, ?fabricCounters, ?fabricStatus, ?flowStatus, ?flowCounters, ?parseCounters, ?hbmStatus, ?hbmFreezeRead,
    ?hbmEccRead, ?macsecStatus, ?macsecCounters, ?modeStatus, ?tabletStatus, ?pmuRead, ?logStatus, ?logRead, ?portStatus,
    ?portCounters, ?laneStatus, ?cartStatus, ?moduleInfo, ?qcpEcho, ?qcpStats, ?ruleRead, ?arrayStatus, ?routeStatus,
    ?excCounters, ?taskRead, ?traceRead, ?ttStatus, ?ttShedRead, ?ttAggRead, ?ucodeStatus, ?ruleVersionStatus, ?worldStatus,
    ?moduleAttest⟩
  case agentStatus | bufStatus | timeStatus | timeRead | preemptStatus | queueShaperGet | fabricStatus | flowStatus | hbmStatus
      | hbmEccRead | macsecStatus | tabletStatus | logRead | portStatus | qcpEcho | arrayStatus | ttStatus | ttShedRead | ttAggRead
      | ucodeStatus | ruleVersionStatus | worldStatus | moduleAttest =>
    intros
    refine readsOnly_of_body (fun _ => rfl) fun s u => ?_
    repeat' split
    all_goals simp
  case hbmFreezeRead | modeStatus | logStatus | laneStatus | cartStatus | moduleInfo | ruleRead | routeStatus | traceRead =>
    intros
    refine readsOnly_of_body (fun _ => rfl) fun s u => ?_
    dsimp only [draw]
    repeat' split
    all_goals simp
  case agentCounters | bufCounters | histRead | queueCounters | fabricCounters | flowCounters | parseCounters | macsecCounters
      | portCounters | qcpStats | excCounters =>
    intros
    refine readsOnly_of_body (fun _ => rfl) fun s u => ?_
    repeat' split
    all_goals simp [maximaClear, bufPortClear, clearKeys, fabricClear, flowClear, portClear, clearStats, excClear]
  case taskRead =>
    refine fun h slice task => readsOnly_of_body (fun _ => rfl) fun s u => ?_
    split
    next o ho => exact outReads_of_taskIndexBad u ho
    next => exact readFrame_draws 4 u
  case pmuRead =>
    refine fun h blocks snapshot clear => readsOnly_of_body (fun _ => rfl) fun s u => ?_
    dsimp only
    split
    · simp
    · split
      · exact .foldl (fun s b => readFrame_pmuClear b s) _ u
      · simp

end Sys2Proof.Machine
end

/-! ## Tablets (R345, R346) -/
section
namespace Sys2Proof.Machine

/-- What `List.find?` answers names the first element the test holds of. -/
theorem tabletConflict_eq_none_iff (a : Activity) (ds : List Domain) (s : State) : tabletConflict a ds s = none ↔
    ∀ t ∈ s.mode.tablets, t.dom ∈ ds → compatible t.act a = true := by
  simp [tabletConflict, List.find?_eq_none]

theorem tabletConflict_eq_some {a : Activity} {ds : List Domain} {s : State} {t : Tablet} (h : tabletConflict a ds s = some t) :
    t.dom ∈ ds ∧ compatible t.act a = false ∧
      ∃ before rest, s.mode.tablets = before ++ t :: rest ∧ ∀ x ∈ before, x.dom ∈ ds → compatible x.act a = true := by
  obtain ⟨hp, before, rest, hl, hbefore⟩ := List.find?_eq_some_iff_append.1 h
  simp only [Bool.and_eq_true, List.contains_iff_mem, Bool.not_eq_true'] at hp
  exact ⟨hp.1, hp.2, before, rest, hl, fun x hx hdom => by simpa [hdom] using hbefore x hx⟩

/-- Settles O9: the table pair by pair, and the conflict by the first tablet that conflicts. -/
theorem tabletsFollowTable17_6 : Obligations.TabletsFollowTable17_6 := by
  unfold Obligations.TabletsFollowTable17_6
  refine ⟨fun a b => ?table, fun a b => ?symmetric, tabletConflict_eq_none_iff, fun a ds s t h => ?holder⟩
  case table => cases a <;> cases b <;> decide
  case symmetric => cases a <;> cases b <;> rfl
  case holder =>
    obtain ⟨hdom, hconf, before, rest, hl, hbefore⟩ := tabletConflict_eq_some h
    exact ⟨by rw [hl]; exact List.mem_append_right _ (List.mem_cons_self ..), hdom, hconf, before, rest, hl, hbefore⟩

end Sys2Proof.Machine
end

/-! ## Claims (R313, R314, R316, R317) -/
section
namespace Sys2Proof.Machine

/-- Nothing is chosen only where there is nothing to choose from. -/
theorem bestSrc_eq_none_iff (s : State) (l : List Nat) : bestSrc s l = none ↔ l = [] := by
  cases l with
  | nil => simp [bestSrc]
  | cons n ns =>
    simp only [bestSrc, reduceCtorEq, iff_false]
    split
    · exact Option.some_ne_none n
    · split <;> exact Option.some_ne_none _

/-- The source chosen is one of the list, of the highest priority and the lowest number among equals. -/
theorem bestSrc_eq_some {s : State} {l : List Nat} {n : Nat} (h : bestSrc s l = some n) :
    n ∈ l ∧ ∀ m ∈ l, prioOf s m < prioOf s n ∨ (prioOf s m = prioOf s n ∧ n ≤ m) := by
  induction l generalizing n with
  | nil => cases h
  | cons x xs ih =>
    rw [bestSrc] at h
    cases hb : bestSrc s xs with
    | none =>
      rw [hb] at h
      obtain rfl := Option.some.inj h
      simp [(bestSrc_eq_none_iff s xs).1 hb]
    | some m =>
      rw [hb] at h
      obtain ⟨hm, hbest⟩ := ih hb
      by_cases hx : prioOf s x > prioOf s m ∨ (prioOf s x = prioOf s m ∧ x < m)
      · obtain rfl : x = n := by simpa [hx] using h
        refine ⟨List.mem_cons_self .., List.forall_mem_cons.2 ⟨.inr ⟨rfl, le_rfl⟩, fun y hy => ?_⟩⟩
        have hy' := hbest y hy
        omega
      · obtain rfl : m = n := by simpa [hx] using h
        refine ⟨List.mem_cons_of_mem _ hm, List.forall_mem_cons.2 ⟨?_, hbest⟩⟩
        omega

theorem mem_evcEligible {s : State} {sp : Bool} {n : Nat} :
    n ∈ evcEligible s sp ↔ n ∈ enabledSrcs s sp ∧ pendingBit s n = true ∧ runPrio s sp < prioOf s n := by
  simp [evcEligible, List.mem_filter]

/-- The host's enables carry no secure source (R314). -/
theorem not_secure_of_enabled_host {s : State} {n : Nat} (h : n ∈ enabledSrcs s false) : isSecureSrc s n = false := by
  simp only [enabledSrcs, Bool.false_eq_true, if_false, List.mem_filter, Bool.not_eq_true'] at h
  exact h.2

/-- Settles O11: the choice by induction on the eligible sources; the claim pushes the source's priority and EOI pops it. The
service processor's enabled sources are log entry 75. -/
theorem claimsTakeTheBestSource : Obligations.ClaimsTakeTheBestSource := by
  unfold Obligations.ClaimsTakeTheBestSource
  refine ⟨fun s l => ⟨bestSrc_eq_none_iff s l, fun n => bestSrc_eq_some⟩, fun s sp n => mem_evcEligible.1,
    fun s n hn => not_secure_of_enabled_host (mem_evcEligible.1 hn).1, fun s sp n hbest hroom => ?_⟩
  have hclaim := claim_of_room hbest hroom
  have hrun : runPrio (claim sp s).2 sp = prioOf s n := by simp only [hclaim, runPrio, tget_tset_self, List.head?_cons, Option.getD_some]
  refine ⟨by rw [hclaim], hrun, fun m hm => ?_, ?_⟩
  · obtain ⟨-, -, hprio⟩ := mem_evcEligible.1 hm
    rw [hrun] at hprio
    rwa [hclaim] at hprio
  · simp only [hclaim, eoi, tget_tset_self]

end Sys2Proof.Machine
end

/-! ## Ring indices (R267, R269, R279, R384) -/
section
namespace Sys2Proof.Machine

theorem ringSize_pos (g : RingSt) : 0 < ringSize g := Nat.two_pow_pos _

/-- What a ring holds, without the wrap. -/
theorem ringHeld_eq {g : RingSt} (h : ringOk g) :
    ringHeld g = if g.cons ≤ g.prod then g.prod - g.cons else g.prod + ringSize g - g.cons := by
  obtain ⟨hprod, hcons⟩ := h
  rw [ringHeld, Nat.mod_eq_of_lt hcons]
  split
  next hle => rw [Nat.sub_add_comm hle, Nat.add_mod_right, Nat.mod_eq_of_lt (by omega)]
  next hlt => exact Nat.mod_eq_of_lt (by omega)

/-- An index moved on by at most a ring's size, without the wrap. -/
theorem wrap_eq {i n m : Nat} (hi : i < m) (hn : n ≤ m) : (i + n) % m = if i + n < m then i + n else i + n - m := by
  split
  next h => exact Nat.mod_eq_of_lt h
  next h => rw [Nat.mod_eq_sub_mod (not_lt.1 h), Nat.mod_eq_of_lt (by omega)]

theorem ringRoom_le (g : RingSt) : ringRoom g ≤ ringSize g - 1 - ringHeld g := by
  unfold ringRoom
  split
  · exact le_rfl
  · exact Nat.zero_le _

theorem ringHeld_lt (g : RingSt) : ringHeld g < ringSize g := Nat.mod_lt _ (ringSize_pos g)

theorem ringOk_advanceProd {g : RingSt} (n : Nat) (h : ringOk g) : ringOk (advanceProd n g) := ⟨Nat.mod_lt _ (ringSize_pos g), h.2⟩

theorem ringOk_advanceCons {g : RingSt} (n : Nat) (h : ringOk g) : ringOk (advanceCons n g) := ⟨h.1, Nat.mod_lt _ (ringSize_pos g)⟩

/-- Writing as many slots as are free raises what a ring holds by them. -/
theorem ringHeld_advanceProd {g : RingSt} {n : Nat} (h : ringOk g) (hn : n ≤ ringRoom g) :
    ringHeld (advanceProd n g) = ringHeld g + n := by
  have hroom := hn.trans (ringRoom_le g)
  have hheld := ringHeld_eq h
  have hlt := ringHeld_lt g
  rw [ringHeld_eq (ringOk_advanceProd n h)]
  obtain ⟨hprod, hcons⟩ := h
  have hsize : ringSize (advanceProd n g) = ringSize g := rfl
  have hc : (advanceProd n g).cons = g.cons := rfl
  have hp : (advanceProd n g).prod = _ := wrap_eq hprod (n := n) (by omega)
  rw [hsize, hc, hp]
  split at hheld <;> split <;> split <;> omega

/-- Fetching slots a ring holds lowers what it holds by them. -/
theorem ringHeld_advanceCons {g : RingSt} {n : Nat} (h : ringOk g) (hn : n ≤ ringHeld g) :
    ringHeld (advanceCons n g) = ringHeld g - n := by
  have hheld := ringHeld_eq h
  have hlt := ringHeld_lt g
  rw [ringHeld_eq (ringOk_advanceCons n h)]
  obtain ⟨hprod, hcons⟩ := h
  have hsize : ringSize (advanceCons n g) = ringSize g := rfl
  have hp : (advanceCons n g).prod = g.prod := rfl
  have hc : (advanceCons n g).cons = _ := wrap_eq hcons (n := n) (by omega)
  rw [hsize, hc, hp]
  split at hheld <;> split <;> split <;> omega

/-! ### The host's index writes -/

@[simp] theorem ringOf_barError (w w' : World) (k : RingKind) (s : State) : ringOf (barError w s) w' k = ringOf s w' k := by
  unfold barError
  split <;> rfl

/-- A refused index write sets DB_ERR of its ring (R384). -/
theorem ringOf_indexRefused (w : World) (k : RingKind) (s : State) :
    ringOf (indexRefused w k s) w k = { ringOf s w k with dbErr := true } := by
  rw [indexRefused, ringOf_barError, ringOf_updRing, if_pos rfl]

theorem doorbell_of_le {w : World} {v : Nat} {s : State} (h : ringSize (ringOf s w .command) ≤ v) :
    doorbell w v s = indexRefused w .command s := if_pos h

theorem headWrite_of_le {w : World} {k : RingKind} {v : Nat} {s : State} (hk : k ≠ .command) (hr : hasRing w k = true)
    (h : ringSize (ringOf s w k) ≤ v) : headWrite w k v s = indexRefused w k s := by
  simp only [headWrite, hk, hr, ge_iff_le, h, Bool.not_true, Bool.false_eq_true, or_self, if_false, if_true]

theorem ringOk_indexRefused {w : World} {k : RingKind} {s : State} (h : ringOk (ringOf s w k)) :
    ringOk (ringOf (indexRefused w k s) w k) := by
  rw [ringOf_indexRefused]
  exact h

theorem ringOk_doorbell {w : World} {s : State} (v : Nat) (h : ringOk (ringOf s w .command)) :
    ringOk (ringOf (doorbell w v s) w .command) := by
  unfold doorbell
  split
  next => exact ringOk_indexRefused h
  next hlt =>
    rw [ringOf_updRing, if_pos rfl]
    exact ⟨not_le.1 hlt, h.2⟩

theorem ringOk_headWrite {w : World} {k : RingKind} {s : State} (v : Nat) (h : ringOk (ringOf s w k)) :
    ringOk (ringOf (headWrite w k v s) w k) := by
  unfold headWrite
  dsimp only
  split
  · exact h
  · split
    · exact ringOk_indexRefused h
    next hlt =>
      split
      · exact ringOk_indexRefused h
      · rw [ringOf_updRing, if_pos rfl]
        exact ⟨h.1, not_le.1 hlt⟩

/-- Settles O43: what a ring holds without the wrap, and each index write by its branches. -/
theorem ringsHoldWhatWasWritten : Obligations.RingsHoldWhatWasWritten := by
  unfold Obligations.RingsHoldWhatWasWritten
  refine ⟨fun g h => ⟨?held, Nat.le_sub_one_of_lt (ringHeld_lt g), ?empty, ?disabled⟩,
    fun g n h hn => ⟨ringOk_advanceProd n h, ringHeld_advanceProd h hn, rfl⟩,
    fun g n h hn => ⟨ringOk_advanceCons n h, ringHeld_advanceCons h hn, rfl⟩, fun w k v s hc hk => ⟨?_, ?_, ?_, ?_⟩⟩
  case held =>
    obtain ⟨hprod, hcons⟩ := h
    rw [ringHeld, Nat.mod_eq_of_lt hcons, Int.natCast_mod, Nat.cast_sub (by omega), Nat.cast_add]
    rw [add_sub_right_comm, Int.add_emod_right]
  case empty =>
    have hheld := ringHeld_eq h
    obtain ⟨hprod, hcons⟩ := h
    split at hheld <;> omega
  case disabled => exact fun hoff => by rw [ringRoom, hoff, if_neg Bool.false_ne_true]
  · exact ringOk_doorbell v hc
  · exact ringOk_headWrite v hk
  · exact fun hv => by rw [doorbell_of_le hv, ringOf_indexRefused]
  · exact fun hne hr hv => by rw [headWrite_of_le hne hr hv, ringOf_indexRefused]

end Sys2Proof.Machine
end

/-! ## Packet numbers of transmit SAs (R255, R258) -/
section
namespace Sys2Proof.Machine

/-- The encoding SA of a channel. -/
def encodingSa (c : ScSt) : Option (Nat × SaSt) := c.enc.bind (fun an => (tfind c.sas an).map (fun a => (an, a)))

theorem encodingSa_eq_some_iff {c : ScSt} {an : Nat} {a : SaSt} :
    encodingSa c = some (an, a) ↔ c.enc = some an ∧ tfind c.sas an = some a := by
  simp only [encodingSa, Option.bind_eq_some_iff, Option.map_eq_some_iff, Prod.mk.injEq]
  constructor
  · rintro ⟨x, hx, y, hy, rfl, rfl⟩
    exact ⟨hx, hy⟩
  · rintro ⟨hx, hy⟩
    exact ⟨an, hx, a, hy, rfl, rfl⟩

theorem saDone_iff (c : ScSt) (a : SaSt) : saDone c a = true ↔ a.done = true ∨ hardOf c a.p.suite < a.next := by
  simp [saDone]

/-- An SA after one frame more (R258). -/
def saAfter (c : ScSt) (a : SaSt) : SaSt :=
  { a with next := a.next + 1, softUp := a.softUp || (a.next == softOf c a.p.suite && !a.softUp), done := a.next == hardOf c a.p.suite }

section
variable {s : State} {p : Nat} {ps : PortSt} (hp : portOf s p = some ps) (hprot : ps.pol.txProtect ≠ .off)
include hp hprot

/-- An exhausted SA sends nothing. -/
theorem protectFrame_of_done {ch an : Nat} {c : ScSt} {a : SaSt} (len : Nat) (hc : txChan s p = some (ch, c))
    (ha : encodingSa c = some (an, a)) (hd : saDone c a = true) :
    protectFrame p len false s = (none, bump .txSaExhaustedDrop p 0 s) := by
  unfold encodingSa at ha
  simp only [protectFrame, hp, hprot, hc, ha, hd, Bool.false_eq_true, or_self, if_false, if_true]

theorem protectFrame_of_ready {ch an : Nat} {c : ScSt} {a : SaSt} (len : Nat) (hc : txChan s p = some (ch, c))
    (ha : encodingSa c = some (an, a)) (hd : saDone c a = false) :
    (protectFrame p len false s).1 = some (len + (if ps.pol.includeSci then 16 else 8) + 16) ∧
    (protectFrame p len false s).2.sec.chans = tset s.sec.chans ch { c with sas := tset c.sas an (saAfter c a) } := by
  unfold encodingSa at ha
  simp only [protectFrame, hp, hprot, hc, ha, hd, Bool.false_eq_true, or_self, if_false]
  split <;> exact ⟨trivial, rfl⟩

/-- A frame that protection yields takes the next number of an encoding SA that is not exhausted. -/
theorem ready_of_protectFrame {len n : Nat} (h : (protectFrame p len false s).1 = some n) :
    ∃ ch c an a, txChan s p = some (ch, c) ∧ encodingSa c = some (an, a) ∧ saDone c a = false := by
  cases hc : txChan s p with
  | none => simp [protectFrame, hp, hprot, hc] at h
  | some x =>
    obtain ⟨ch, c⟩ := x
    cases ha : encodingSa c with
    | none =>
      have ha' := ha
      unfold encodingSa at ha'
      simp [protectFrame, hp, hprot, hc, ha'] at h
    | some y =>
      obtain ⟨an, a⟩ := y
      refine ⟨ch, c, an, a, rfl, ha, Bool.eq_false_iff.2 fun hd => ?_⟩
      rw [protectFrame_of_done hp hprot len hc ha hd] at h
      cases h

end

/-- Settles O52: the frame that is sent takes the next number of an SA not exhausted, and sets it one higher. -/
theorem packetNumbersAreNotReused : Obligations.PacketNumbersAreNotReused := by
  unfold Obligations.PacketNumbersAreNotReused
  refine fun s p len ps hp hprot => ⟨fun n hn => ?sent, fun ch c an a hc henc ha hd => ?exhausted⟩
  case sent =>
    obtain ⟨ch, c, an, a, hc, ha, hd⟩ := ready_of_protectFrame hp hprot hn
    obtain ⟨hlen, hchans⟩ := protectFrame_of_ready hp hprot len hc ha hd
    obtain ⟨henc, hsa⟩ := encodingSa_eq_some_iff.1 ha
    obtain ⟨hopen, hnext⟩ := not_or.1 ((saDone_iff c a).not.1 (Bool.eq_false_iff.1 hd))
    refine ⟨ch, c, an, a, saAfter c a, hc, henc, hsa, Bool.eq_false_iff.2 hopen, not_lt.1 hnext, ?_, rfl, rfl, beq_iff_eq,
      fun x hx => ?_, ?_⟩
    · rw [hchans, tfind_tset_self]
    · rw [tfind_tset, if_neg hx.symm]
    · exact Option.some.inj (hn.symm.trans hlen)
  case exhausted =>
    exact protectFrame_of_done hp hprot len hc (encodingSa_eq_some_iff.2 ⟨henc, ha⟩) ((saDone_iff c a).2 hd)

end Sys2Proof.Machine
end

/-! ## The link-security commands (Table 12-6) -/
section
namespace Sys2Proof.Machine

/-- A CONF_OFFSET that MACSEC_PORT_SET admits passes its check. -/
theorem confOffset_sound {policy : SecPolicy} (h : policy.confOffset = 0 ∨ policy.confOffset = 30 ∨ policy.confOffset = 50) :
    ¬ (policy.confOffset ≠ 0 ∧ policy.confOffset ≠ 30 ∧ policy.confOffset ≠ 50) := by omega

/-- Settles O36: each row's body comes to its effect under the clause's conditions. The channel number that MACSEC_SC_ADD returns is
log entry 13. -/
theorem macsecRowsComplete : Obligations.MacsecRowsComplete := by
  unfold Obligations.MacsecRowsComplete
  refine ⟨?portSet, ?portRefused, ?scAdd, ?scRemove, ?saInstall, ?saSelect, ?saRemove, ?limits, ?status, ?counters⟩
  case portSet =>
    refine fun h port policy ps hoff hreplay => completes_of_done (fun _ => rfl) fun _ u ⟨hp, hclaim⟩ => ?_
    simp only [hp, confOffset_sound hoff, Nat.not_lt.2 hreplay, hclaim, if_false]
  case portRefused =>
    refine fun h port policy ps a hoff hreplay => refuses_of_refuse (fun _ => rfl) fun _ u ⟨hp, hclaim⟩ => ?_
    simp only [hp, confOffset_sound hoff, Nat.not_lt.2 hreplay, hclaim, if_false]
  case scAdd =>
    refine fun h port tx sci c => completes_of_done (fun _ => rfl) fun _ u ⟨hp, hnew, hfree⟩ => ?_
    simp only [Option.isNone_eq_false_iff.2 hp, hnew, hfree, Bool.false_eq_true, if_false]
  case scRemove =>
    refine fun h channel c => completes_of_done (fun _ => rfl) fun _ u ⟨hc, hfree⟩ => ?_
    rcases hfree with hrx | ⟨ps, hp, hoff⟩
    · simp only [hc, hrx, Bool.false_and, Bool.false_eq_true, if_false]
    · simp only [hc, hp, hoff, bne_self_eq_false, Bool.and_false, Bool.false_eq_true, if_false]
  case saInstall =>
    refine fun h channel an sa c han hkey hpn hpn' => completes_of_done (fun _ => rfl) fun _ u ⟨hc, henc, hnew⟩ => ?_
    have hrange : ¬ (sa.nextPn = 0 ∨ sa.nextPn > pnMax sa.suite) := by omega
    simp only [hc, ge_iff_le, Nat.not_le.2 han, hkey, hrange, henc, hnew, ne_eq, not_true_eq_false, Option.isSome_none,
      Bool.false_eq_true, if_false]
  case saSelect =>
    refine fun h channel an c htx han => completes_of_done (fun _ => rfl) fun _ u ⟨hc, hsa⟩ => ?_
    simp only [hc, htx, ge_iff_le, Nat.not_le.2 han, Option.isNone_eq_false_iff.2 (Option.isSome_iff_ne_none.2 hsa), Bool.not_true,
      Bool.false_eq_true, if_false]
  case saRemove =>
    refine fun h channel an c => completes_of_done (fun _ => rfl) fun _ u ⟨hc, hsa, henc⟩ => ?_
    simp only [hc, Option.isNone_eq_false_iff.2 (Option.isSome_iff_ne_none.2 hsa), henc, Bool.false_eq_true, if_false]
  case limits =>
    refine fun h channel soft hard c htx hsoft horder hhard => completes_of_done (fun _ => rfl) fun _ u hc => ?_
    have hrange : ¬ (soft < 1 ∨ soft ≥ hard) := by omega
    simp only [hc, htx, hrange, gt_iff_lt, Nat.not_lt.2 hhard, Bool.not_true, Bool.false_eq_true, if_false]
  case status =>
    refine fun h port ps => completes_of_done (fun _ => rfl) fun _ u hp => ?_
    simp only [hp, id]
  case counters =>
    refine fun h port clear => completes_of_done (fun _ => rfl) fun _ u hp => ?_
    simp only [Option.isNone_eq_false_iff.2 hp, Bool.false_eq_true, if_false]

end Sys2Proof.Machine
end

/-! ## The lookaside commands (Table 12-6) -/
section
namespace Sys2Proof.Machine

/-- A command on a context that its ring holds runs its body on it. -/
theorem withCtx_of_held {h : Hdr} {ctx : Nat} {s : State} {x : LaCtx} (hctx : ctx < 16) (hx : laOf s ctx = some x)
    (hring : x.holder = h.ring) (k : LaCtx → Out) : withCtx h ctx s k = k x := by
  simp only [withCtx, ge_iff_le, Nat.not_le.2 hctx, hx, hring, ne_eq, not_true_eq_false, if_false]

/-- A blob's length is one of the two of Table 12-5. -/
theorem blobLength_sound {blob : List Byte} (h : blob.length = 104 ∨ blob.length = 112) :
    ¬ (blob.length ≠ 104 ∧ blob.length ≠ 112) := by omega

/-- Settles O37: each row's body comes to its effect under the clause's conditions. That AES and GHASH are computed is log entry 29,
the counters log entry 30, the block held back log entry 31, and data as operands log entry 32. -/
theorem lookasideRowsComplete : Obligations.LookasideRowsComplete := by
  unfold Obligations.LookasideRowsComplete
  refine ⟨?opens, ?aad, ?text, ?final, ?saved, ?savedWrapped, ?restored, ?wrapped, ?closed⟩
  case opens =>
    refine fun h ctx mode decrypt key iv hctx hkey => completes_of_done (fun _ => rfl) fun _ u hfree => ?_
    have hlen : ¬ (key.length ≠ 16 ∧ key.length ≠ 32) := by omega
    simp only [ge_iff_le, Nat.not_le.2 hctx, hfree, hlen, if_false]
  case aad =>
    refine fun h ctx data x hctx hlen => completes_of_done (fun _ => rfl) fun _ u ⟨hx, hring, hmode, htext⟩ => ?_
    have haad : ¬ (x.mode ≠ .gcm ∨ x.text > 0) := by simp [hmode, htext]
    simp only [withCtx_of_held hctx hx hring, gt_iff_lt, Nat.not_lt.2 hlen, haad, if_true, if_false]
  case text =>
    refine fun h ctx data x hctx hlen => completes_of_done (fun _ => rfl) fun _ u ⟨hx, hring⟩ => ?_
    simp only [withCtx_of_held hctx hx hring, gt_iff_lt, Nat.not_lt.2 hlen, Bool.false_eq_true, if_false]
  case final =>
    exact fun h ctx tag x hctx => completes_of_done (fun _ => rfl) fun _ u ⟨hx, hring⟩ => withCtx_of_held hctx hx hring _
  case saved =>
    refine fun h ctx x hctx => completes_of_done (fun _ => rfl) fun _ u ⟨hx, hring, hworld⟩ => ?_
    simp only [withCtx_of_held hctx hx hring, hworld, reduceCtorEq, if_false, id]
  case savedWrapped =>
    refine fun h ctx x hctx => completes_of_done (fun _ => rfl) fun _ u ⟨hx, hring, hworld⟩ => ?_
    simp only [withCtx_of_held hctx hx hring, hworld, if_true, id]
  case restored =>
    refine fun h ctx blob x y hctx hlen => completes_of_done (fun _ => rfl) fun _ u ⟨hx, hring, hkind, hy⟩ => ?_
    obtain ⟨bs, hbs, hy⟩ := Option.bind_eq_some_iff.1 hy
    simp only [withCtx_of_held hctx hx hring, blobLength_sound hlen, hkind, hbs, hy, ne_eq, not_true_eq_false, if_false]
  case wrapped =>
    rintro h ctx blob x s w t hctx hs rfl hx hring hworld hlen hfit
    have hw : blobWrapped blob = true := beq_iff_eq.2 hlen
    have hx' : exec (.laRestore h ctx blob) s = execLaRestore h ctx blob s := rfl
    rw [hx', execLaRestore, within_next, qcp_of_starts _ hs, withCtx_of_held hctx hx hring]
    simp only [blobLength_sound (.inr hlen), hw, hworld, blobClear, beq_self_eq_true, ne_eq, not_true_eq_false, if_true, if_false]
    cases keyUnwrap (wrapKey (atFetch { code := 0x0914, world := .owned (laWorld s ctx) } h s)) blob with
    | none => rfl
    | some bs =>
      cases hy : laOfBlob x.holder x.hdr bs with
      | none => simp only [hy]; rfl
      | some y => simp only [hy, hfit, if_true]; rfl
  case closed =>
    exact fun h ctx x hctx => completes_of_done (fun _ => rfl) fun _ u ⟨hx, hring⟩ => withCtx_of_held hctx hx hring _

end Sys2Proof.Machine
end

/-! ## The world, key, life-cycle and firmware rows (chapter 16, R348) -/
section
namespace Sys2Proof.Machine

/-- Settles O38: each row's body comes to its effect, and each completion row acts, under the clause's conditions. That MODULE_ATTEST
needs the identity key is log entry 126, the reset after LIFECYCLE_SET log entry 72, what makes an owner key live log entry 74, and
signatures as operands log entry 90. -/
theorem worldRowsComplete : Obligations.WorldRowsComplete := by
  unfold Obligations.WorldRowsComplete
  refine ⟨?assign, ?lock, ?status, ?keyWrite, ?keyZero, ?life, ?enroll, ?revoke, ?challenge, ?debug, ?debugEnds, ?attest, ?fwWrite,
    ?fwWritten, ?svn, ?switch, ?switchDone, ?switchFailed, ?agentLoad, ?agentLoaded⟩
  case assign =>
    refine fun h kind first count world hrange => completes_of_done (fun _ => rfl) fun _ u hfree => ?_
    have hnone : (if kind = .hbmRegion ∧ world = .secure then (objRange first count).find? (regionInUse u) else none) = none :=
      ite_eq_right_iff.2 fun ⟨hk, hw⟩ => hfree hk hw
    simp only [hrange, hnone, Bool.not_true, Bool.false_eq_true, if_false]
  case lock => exact fun h => completes_of_done (fun _ => rfl) fun _ _ _ => rfl
  case status =>
    refine fun h kind first count hrange => completes_of_done (fun _ => rfl) fun _ u _ => ?_
    simp only [hrange, Bool.not_true, Bool.false_eq_true, if_false, id]
  case keyWrite =>
    refine fun h entry data hentry hlow hhigh => completes_of_done (fun _ => rfl) fun _ u _ => ?_
    have hlen : ¬ (data.length < 1 ∨ data.length > 64) := by omega
    simp only [gt_iff_lt, Nat.not_lt.2 hentry, hlen, if_false]
  case keyZero => exact fun h => completes_of_done (fun _ => rfl) fun _ _ _ => rfl
  case life =>
    refine fun h target auth => completes_of_done (fun _ => rfl) fun _ u hauth => ?_
    simp only [hauth]
  case enroll =>
    refine fun h ecdsa mldsa n => completes_of_done (fun _ => rfl) fun _ u hfree => ?_
    simp only [hfree]
  case revoke =>
    refine fun h slot k hslot => completes_of_done (fun _ => rfl) fun _ u ⟨hk, hother⟩ => ?_
    have hkept : (u.world.lifecycle == .deployed && !k.revoked &&
        !([0, 1, 2, 3].any (fun n => n != slot && ownerLive u n))) = false := by
      simp only [Bool.and_eq_false_imp, Bool.and_eq_true, beq_iff_eq, Bool.not_eq_true', Bool.not_eq_false', and_imp]
      exact hother
    simp only [gt_iff_lt, Nat.not_lt.2 hslot, hk, hkept, Bool.false_eq_true, if_false]
  case challenge => exact fun h => completes_of_done (fun _ => rfl) fun _ _ _ => rfl
  case debug =>
    refine fun h scope token => completes_of_done (fun _ => rfl) fun _ u ⟨hsigner, hanswer⟩ => ?_
    simp only [hsigner, hanswer, bne_self_eq_false, Bool.not_true, Bool.false_eq_true, if_false]
  case debugEnds => exact fun h scope => completes_of_done (fun _ => rfl) fun _ _ _ => rfl
  case attest =>
    refine fun h nonce hlen => completes_of_done (fun _ => rfl) fun _ u _ => ?_
    simp only [hlen, ne_eq, not_true_eq_false, if_false, id]
  case fwWrite =>
    refine fun h slotB img => defers_of_pend (fun _ => rfl) fun _ u ⟨hslot, hsig, hfree⟩ => ?_
    simp only [beq_eq_false_iff_ne.2 hslot, hsig, withTablets_of_free _ hfree, Bool.not_true, Bool.false_eq_true, if_false]
  case fwWritten =>
    refine fun h b img => acts_of_next (fun _ => rfl) fun s hwrite => ?_
    simp only [hwrite]
  case svn => exact fun h => completes_of_done (fun _ => rfl) fun _ _ _ => rfl
  case switch =>
    refine fun h slotB => defers_of_pend (fun _ => rfl) fun _ u ⟨hslot, hvalid, hfree⟩ => ?_
    simp only [beq_eq_false_iff_ne.2 hslot, Option.isNone_eq_false_iff.2 hvalid, withTablets_of_free _ hfree, Bool.false_eq_true,
      if_false]
  case switchDone =>
    refine fun h b => acts_of_next (fun _ => rfl) fun s hswitch => ?_
    simp only [hswitch, if_true]
  case switchFailed =>
    refine fun h b => acts_of_next (fun _ => rfl) fun s hswitch => ?_
    simp only [hswitch, Bool.false_eq_true, if_false]
  case agentLoad =>
    refine fun h slices img hslices hsound => defers_of_pend (fun _ => rfl) fun _ u ⟨hsig, hfree⟩ => ?_
    simp only [hslices, hsig, hsound, withTablets_of_free _ hfree, Bool.not_true, Bool.false_eq_true, if_false]
  case agentLoaded =>
    refine fun l rest => acts_of_next (fun _ => rfl) fun s hload => ?_
    simp only [hload]

end Sys2Proof.Machine
end

/-! ## The agent, task, trace and debug commands (Table 14-11) -/
section
namespace Sys2Proof.Machine

theorem taskIndexBad_of_lt {k id : Nat} (hk : k < 32) (hid : id < 4096) : taskIndexBad k id = none := by
  simp only [taskIndexBad, ge_iff_le, Nat.not_le.2 hk, Nat.not_le.2 hid, if_false]

/-- A READY or PREFETCHED task is cancelled (Table 14-8). -/
theorem cancelTask_status_of_waiting {k id thread : Nat} {host : Bool} {s : State}
    (h : (taskOf s k id).st = .ready ∨ (taskOf s k id).st = .prefetched) : (cancelTask k id host thread s).1 = .ok := by
  rcases h with h | h <;> simp only [cancelTask, h]

/-- A RUNNING task stays, and the attempt is counted and traced (Table 14-8). -/
theorem cancelTask_of_running {k id thread : Nat} {host : Bool} {s : State} (h : (taskOf s k id).st = .running) :
    cancelTask k id host thread s = (.running, traceEvent k 6 host thread id (bump .cancelRefused k 0 s)) := by
  simp only [cancelTask, h]

/-- A stream that another ring does not hold starts or stops. -/
theorem traceStream_completes {h : Hdr} {slice addr entries : Nat} {enable : Bool} (hslice : slice < 32)
    (hsound : (if enable then streamBad addr entries else none) = none) :
    Completes (.traceStream h slice addr entries enable) h (fun _ => { code := 0x0C0A, host := true })
      (fun s => ∀ g a e, (agentOf s slice).stream = some (g, a, e) → g.ring = h.ring) (fun _ => [])
      (streamSet slice (if enable then some (h, addr, entries) else none)) :=
  completes_of_done (fun _ => rfl) fun _ u hring => by
    simp only [ge_iff_le, Nat.not_le.2 hslice, hsound, if_false]
    cases hstream : (agentOf u slice).stream with
    | none => rfl
    | some x =>
      obtain ⟨g, a, e⟩ := x
      exact if_neg (not_not.2 (hring g a e hstream))

/-- A debug command of a thread that exists comes to its body. -/
theorem dbg_completes {c : Instr} {h : Hdr} {code k t : Nat} {reads : Bool} {body : Thread → State → Out} {when_ : State → Prop}
    {rs : State → List RField} {eff : State → State} (hk : k < 32) (ht : t < 8)
    (hx : ∀ s, exec c s = within s (.next (dbgCmd code reads h k t body s)))
    (hb : ∀ u, when_ u → body (threadOf (agentOf u k) t) u = .done (rs u) (eff u)) :
    Completes c h (fun s => { code := code, world := dbgRule s h k t, reads := reads }) when_ rs eff :=
  completes_of_done hx fun _ u hu => by
    simp only [ge_iff_le, Nat.not_le.2 hk, Nat.not_le.2 ht, if_false]
    exact hb u hu

/-- Settles O39: each command's body comes to its effect, and the reset's completion row acts, under the clause's conditions. The lowest
FREE task and a READY beside a cancel are log entry 28, thread codes and DBG_STEP log entry 64, what a stream's stop drops log
entry 66. -/
theorem taskRowsComplete : Obligations.TaskRowsComplete := by
  unfold Obligations.TaskRowsComplete
  refine ⟨?status, ?reset, ?resetOwn, ?resetDone, ?counters, ?create, ?ready, ?cancel, ?cancelRunning, ?read, ?free, ?trace,
    ?streamOn, ?streamOff, ?debug⟩
  case status =>
    refine fun h slice hslice => completes_of_done (fun _ => rfl) fun _ u _ => ?_
    simp only [ge_iff_le, Nat.not_le.2 hslice, if_false, id]
  case reset =>
    refine fun h slice hslice => defers_of_pend (fun _ => rfl) fun _ u hfree => ?_
    simp only [ge_iff_le, Nat.not_le.2 hslice, withTablets_of_free _ hfree, if_false]
  case resetOwn =>
    refine fun slice => acts_of_next (f := fun s => .next (finishReset slice s)) (fun _ => rfl) fun s hreset => ?_
    simp only [finishReset, hreset]
  case resetDone =>
    refine fun slice h => acts_of_next (f := fun s => .next (finishReset slice s)) (fun _ => rfl) fun s hreset => ?_
    simp only [finishReset, hreset]
  case counters =>
    refine fun h slice clear hslice => completes_of_done (fun _ => rfl) fun _ u _ => ?_
    simp only [ge_iff_le, Nat.not_le.2 hslice, if_false]
  case create =>
    refine fun h slice type prio autoFree args id hslice htype hprio hargs => completes_of_done (fun _ => rfl) fun _ u hfree => ?_
    simp only [ge_iff_le, Nat.not_le.2 hslice, gt_iff_lt, Nat.not_lt.2 htype, Nat.not_lt.2 hprio, hargs, hfree, ne_eq,
      not_true_eq_false, if_false]
  case ready =>
    refine fun h slice task hslice htask => completes_of_done (fun _ => rfl) fun _ u ⟨hidle, hfree⟩ => ?_
    simp only [taskIndexBad_of_lt hslice htask, hidle, hfree, Bool.false_eq_true, if_false]
  case cancel =>
    refine fun h slice task hslice htask => completes_of_done (fun _ => rfl) fun _ u hwaits => ?_
    simp only [taskIndexBad_of_lt hslice htask, cancelTask_status_of_waiting hwaits, if_true]
  case cancelRunning =>
    intro h slice task s w hslice htask hs hrun
    refine exec_of_reply (op := fun s => { code := 0x0C06, world := .owned (taskWorld s slice task) }) (fun _ => rfl) hs ?_
    simp only [taskIndexBad_of_lt hslice htask, cancelTask_of_running hrun, reduceCtorEq, if_false]
  case read =>
    refine fun h slice task hslice htask => completes_of_done (fun _ => rfl) fun _ u _ => ?_
    simp only [taskIndexBad_of_lt hslice htask]
  case free =>
    refine fun h slice task hslice htask => completes_of_done (fun _ => rfl) fun _ u hidle => ?_
    simp only [taskIndexBad_of_lt hslice htask, hidle, if_true]
  case trace =>
    refine fun h slice hslice => completes_of_done (fun _ => rfl) fun _ u _ => ?_
    simp only [ge_iff_le, Nat.not_le.2 hslice, if_false]
  case streamOn => exact fun h slice addr entries hslice hsound => traceStream_completes hslice hsound
  case streamOff => exact fun h slice addr entries hslice => traceStream_completes (enable := false) hslice rfl
  case debug =>
    refine fun h k t hk ht => ⟨?halt, ?resume, ?step, ?read, ?write, ?abort⟩
    case halt => exact dbg_completes hk ht (fun _ => rfl) fun u hen => by simp only [hen, Bool.not_true, Bool.false_eq_true, if_false]
    case resume =>
      exact dbg_completes hk ht (fun _ => rfl) fun u hdbg => by simp only [hdbg, Bool.not_true, Bool.false_eq_true, if_false]
    case step =>
      exact dbg_completes hk ht (fun _ => rfl) fun u hdbg => by simp only [hdbg, Bool.not_true, Bool.false_eq_true, if_false]
    case read => exact dbg_completes hk ht (fun _ => rfl) fun u _ => rfl
    case write =>
      refine fun pc flags xs hpc hxs => dbg_completes hk ht (fun _ => rfl) fun u hdbg => ?_
      simp only [ge_iff_le, Nat.not_le.2 hpc, hxs, hdbg, ne_eq, not_true_eq_false, Bool.not_true, Bool.false_eq_true, if_false]
    case abort =>
      refine fun c len ws => dbg_completes hk ht (fun _ => rfl) fun u ⟨hstaged, hdbg⟩ => ?_
      simp only [hstaged, hdbg, if_true]

end Sys2Proof.Machine
end

/-! ## The words of a table agent (Table 14-3) -/
section
namespace Sys2Proof.Machine

/-- A row that names the word that issues runs it, the issue noted (R292). -/
theorem issueRow_of_issues {s : State} {k t cls : Nat} {w : BitVec 256} {is : BitVec 256 → Bool}
    (run : Nat → BitVec 256 → State → State) (h : Issues s k t w cls) (his : mwClass w = cls → is w = true) :
    issueRow k is run s = run t w (noteIssue k t s) := by
  obtain ⟨hpick, htrap, hcls⟩ := h
  simp only [issueRow, hpick, htrap, his hcls, Option.isNone_none, Bool.and_self, if_true]

/-- A row acts by what it runs for the word that issues. -/
theorem acts_of_issueRow {c : Instr} {k t cls : Nat} {w : BitVec 256} {is : BitVec 256 → Bool}
    {run : Nat → BitVec 256 → State → State} {when_ : State → Prop} {f : State → State}
    (hx : ∀ s, exec c s = within s (.next (issueRow k is run s))) (his : mwClass w = cls → is w = true)
    (hi : ∀ s, when_ s → Issues s k t w cls) (hr : ∀ s, when_ s → run t w (noteIssue k t s) = f s) : Acts c when_ f :=
  acts_of_next hx fun s hs => by rw [issueRow_of_issues run (hi s hs) his, hr s hs]

/-- The row of a class completes a word of that class whose effect comes to `done`. -/
theorem acts_of_effect {c : Instr} {k t cls : Nat} {w : BitVec 256} {eff : Nat → Nat → BitVec 256 → State → WordOut}
    {when_ : State → Prop} {f : State → State} (hx : ∀ s, exec c s = within s (.next (effectRow k cls eff s)))
    (hi : ∀ s, when_ s → Issues s k t w cls) (he : ∀ s, when_ s → eff k t w (noteIssue k t s) = .done (f s)) :
    Acts c when_ (fun s => completeWord k t w (f s)) :=
  acts_of_issueRow hx beq_iff_eq.2 hi fun s hs => by rw [he s hs, settleWord]

theorem taskRow_of_done {s u : State} {k t sub : Nat} {w : BitVec 256} {eff : Nat → Nat → BitVec 256 → State → WordOut}
    (hi : Issues s k t w 7) (hsub : taskSubop w = sub) (he : eff k t w (noteIssue k t s) = .done u) :
    taskRow k sub eff s = completeWord k t w u := by
  rw [taskRow, issueRow_of_issues _ hi fun hcls => by rw [hcls, hsub, beq_self_eq_true, beq_self_eq_true, Bool.and_self], he, settleWord]

/-- The row of a TASK word completes one whose effect comes to `done`. -/
theorem acts_of_taskEffect {c : Instr} {k t sub : Nat} {w : BitVec 256} {eff : Nat → Nat → BitVec 256 → State → WordOut}
    {when_ : State → Prop} {f : State → State} (hsub : taskSubop w = sub)
    (hx : ∀ s, exec c s = within s (.next (taskRow k sub eff s)))
    (he : ∀ s, when_ s → eff k t w (noteIssue k t s) = .done (f s)) :
    Acts c (fun s => Issues s k t w 7 ∧ when_ s) (fun s => completeWord k t w (f s)) :=
  acts_of_next hx fun s ⟨hi, hs⟩ => by rw [taskRow_of_done hi hsub (he s hs)]

/-- Settles O40: each class's effect comes to `done` under the clause's conditions, and its row completes the word. Sub-operations and
results are log entry 61, K on TASK READY and a second TAKE log entry 28, an IMM outside a timer's range log entry 98, a second HBM
request log entry 63. -/
theorem agentWordsComplete : Obligations.AgentWordsComplete := by
  unfold Obligations.AgentWordsComplete
  refine ⟨?nop, ?alu, ?memLoad, ?memStore, ?rowLoad, ?rowStore, ?occLoad, ?occStore, ?sendFirst, ?sendNext, ?recv, ?wait, ?timer,
    ?take, ?taken, ?done, ?ready, ?cancel, ?resume, ?hbm, ?ring, ?flag, ?halt⟩
  case nop => exact fun k t w => acts_of_effect (fun _ => rfl) (fun _ hi => hi) fun _ _ => rfl
  case alu => exact fun k t w => acts_of_effect (fun _ => rfl) (fun _ hi => hi) fun _ _ => rfl
  case memLoad =>
    refine fun k t w => acts_of_effect (fun _ => rfl) (fun _ h => h.1) fun s ⟨_, hkind, hworld⟩ => ?_
    simp only [effMem, hkind, memData, hworld, Bool.false_eq_true, if_false]
  case memStore =>
    refine fun k t w => acts_of_effect (fun _ => rfl) (fun _ h => h.1) fun s ⟨_, hkind, hworld⟩ => ?_
    simp only [effMem, hkind, memData, hworld, Bool.false_eq_true, if_false, if_true]
  case rowLoad =>
    refine fun k t w => acts_of_effect (fun _ => rfl) (fun _ h => h.1) fun s ⟨_, hkind, hworld⟩ => ?_
    simp only [effMem, hkind, memRow, hworld, ne_eq, not_true_eq_false, Bool.false_eq_true, if_false]
  case rowStore =>
    refine fun k t w => acts_of_effect (fun _ => rfl) (fun _ h => h.1) fun s ⟨_, hkind, hworld⟩ => ?_
    simp only [effMem, hkind, memRow, hworld, ne_eq, not_true_eq_false, if_false, if_true]
  case occLoad => exact fun k t w => acts_of_effect (fun _ => rfl) (fun _ h => h.1) fun s ⟨_, hkind⟩ => by simp only [effMem, hkind]
  case occStore => exact fun k t w => acts_of_effect (fun _ => rfl) (fun _ h => h.1) fun s ⟨_, hkind⟩ => by simp only [effMem, hkind]
  case sendFirst =>
    refine fun k t w hfirst => acts_of_effect (fun _ => rfl) (fun _ h => h.1) fun s ⟨_, hworld, hstaged, hfree⟩ => ?_
    simp only [effSend, hworld, hfirst, hstaged, hfree, ne_eq, not_true_eq_false, Option.isSome_none, Bool.false_eq_true, if_false,
      if_true]
  case sendNext =>
    refine fun k t w len ws hfirst => acts_of_effect (fun _ => rfl) (fun _ h => h.1) fun s ⟨_, hworld, hstaged⟩ => ?_
    simp only [effSend, hworld, hfirst, hstaged, ne_eq, not_true_eq_false, Bool.false_eq_true, if_false, if_true]
  case recv =>
    refine fun k t w m hlen => acts_of_effect (fun _ => rfl) (fun _ h => h.1) fun s ⟨_, hworld, hmsg⟩ => ?_
    simp only [effRecv, hworld, hmsg, gt_iff_lt, Nat.not_lt.2 hlen, ne_eq, not_true_eq_false, if_false]
  case wait =>
    exact fun k t w => acts_of_issueRow (fun _ => rfl) beq_iff_eq.2 (fun _ h => h.1)
      fun s ⟨_, hworld⟩ => if_neg fun ⟨hchan, hforeign⟩ => hforeign (hworld hchan)
  case timer => exact fun k t w => acts_of_effect (fun _ => rfl) (fun _ hi => hi) fun _ _ => rfl
  case take => exact fun k => acts_of_next (fun _ => rfl) fun _ _ => rfl
  case taken =>
    intro k t w id s hsub hdst hi hslot
    refine taskRow_of_done hi hsub ?_
    simp only [effTake, gt_iff_lt, Nat.not_lt.2 hdst, hslot, if_false]
  case done => exact fun k t w id hsub => acts_of_taskEffect hsub (fun _ => rfl) fun s hrun => by simp only [effDone, hrun]
  case ready =>
    refine fun k t w hsub => acts_of_taskEffect hsub (fun _ => rfl) fun s hown => ?_
    simp only [effReady, hown, Bool.false_eq_true, if_false]
  case cancel =>
    refine fun k t w hsub => acts_of_taskEffect hsub (fun _ => rfl) fun s hown => ?_
    simp only [effCancel, hown, Bool.false_eq_true, if_false]
  case resume =>
    refine fun k t w d x => acts_of_issueRow (fun _ => rfl) beq_iff_eq.2 (fun _ h => h.1) fun s ⟨_, hdepth, hsave⟩ => ?_
    simp only [resumeThread, hdepth, hsave]
  case hbm =>
    refine fun k t w => acts_of_effect (fun _ => rfl) (fun _ h => h.1) fun s ⟨_, hworld⟩ => ?_
    simp only [effHbm, hworld, ne_eq, not_true_eq_false, if_false]
  case ring =>
    refine fun k t w => acts_of_effect (fun _ => rfl) (fun _ h => h.1) fun s ⟨_, hread, hexport⟩ => ?_
    cases hr : Config.ringReads (mwSubop w) with
    | true => simp only [effRing, hr, hread hr, Bool.false_eq_true, if_false, if_true]
    | false => simp only [effRing, hr, ge_iff_le, Nat.not_le.2 (hexport hr), Bool.false_eq_true, if_false]
  case flag => exact fun k t w => acts_of_effect (fun _ => rfl) (fun _ hi => hi) fun _ _ => rfl
  case halt => exact fun k t w => acts_of_issueRow (fun _ => rfl) beq_iff_eq.2 (fun _ hi => hi) fun _ _ => rfl

end Sys2Proof.Machine
end

/-! ## Waits, traps, deadlocks, scrubs, prefetches and trace entries of a table agent (chapter 14) -/
section
namespace Sys2Proof.Machine

/-- A wait is over where its condition is true or the timer has set T. -/
theorem waitOver_of_wait {s : State} {k t : Nat} {x : WaitSt} (hx : (threadOf (agentOf s k) t).wait = some x) :
    waitOver s k t = (waitTrue s k t x || (threadOf (agentOf s k) t).flags.getLsbD flagT) := by
  simp only [waitOver, hx, Option.any_some]

theorem endWait_of_running {s : State} {k t : Nat} (hruns : agentRuns s k = true) (hdbg : (threadOf (agentOf s k) t).dbg = false) :
    endWait k t s = evalWait k t s := by
  simp only [endWait, waitRuns, hruns, hdbg, Bool.not_false, Bool.and_self, if_true]

section
variable {s : State} {k t : Nat} {x : WaitSt} (hx : (threadOf (agentOf s k) t).wait = some x)
include hx

/-- A condition that is true ends its wait first (R296). -/
theorem evalWait_of_true (htrue : waitTrue s k t x = true) :
    evalWait k t s =
      if x.stall then settleWord k t (wordOf s k t) (stallEffect k t (wordOf s k t) (leaveWait k t true s)) (leaveWait k t true s)
      else completeWord k t (wordOf s k t) (leaveWait k t true s) := by
  simp only [evalWait, hx, htrue, if_true]

/-- T ends the wait of a WAIT word whose condition is not true (R296). -/
theorem evalWait_of_timer (hfalse : waitTrue s k t x = false) (htimer : (threadOf (agentOf s k) t).flags.getLsbD flagT = true)
    (hwait : x.stall = false) : evalWait k t s = completeWord k t (wordOf s k t) (leaveWait k t false s) := by
  simp only [evalWait, hx, hfalse, htimer, hwait, Bool.false_eq_true, if_false, if_true]

/-- A bound that has passed traps where neither has ended the wait (R296). -/
theorem evalWait_of_bound (hfalse : waitTrue s k t x = false) (htimer : (threadOf (agentOf s k) t).flags.getLsbD flagT = false)
    (hbound : x.bound ≠ 0) (hpassed : x.since + x.bound ≤ s.time.now) :
    evalWait k t s = takeTrap k t 1 (x.cond + x.bound * 256) (threadOf (agentOf s k) t).pc (noteIssue k t s) := by
  simp only [evalWait, hx, hfalse, htimer, hbound, hpassed, ne_eq, not_false_eq_true, and_self, Bool.false_eq_true, if_false,
    if_true]

end

/-- AGENT_WAIT_END evaluates a wait of a running agent that is over. -/
theorem waitEnd_of_over {s : State} {k t : Nat} (hruns : agentRuns s k = true) (hdbg : (threadOf (agentOf s k) t).dbg = false)
    (hover : waitOver s k t = true) : exec (.agentWaitEnd k t) s = .next (keeping s (evalWait k t s)) := by
  have hexec : exec (.agentWaitEnd k t) s = execAgentWaitEnd k t s := rfl
  rw [hexec, execAgentWaitEnd, if_pos hover, endWait_of_running hruns hdbg, within_next]

/-- Settles O41: each row acts, and each act left to the cycle's end comes to its effect, under the clause's conditions. The issue counted
with a deadline's trap is log entry 63, the scrub's two rows log entry 65, the dispatcher's visit of all threads log entry 27. -/
theorem agentEventsAct : Obligations.AgentEventsAct := by
  unfold Obligations.AgentEventsAct
  refine ⟨?waitEnds, ?stallEnds, ?timerEnds, ?boundWaits, ?boundTraps, ?fires, ?prefetchWaits, ?prefetches, ?traps, ?overflows,
    ?deadlockTraps, ?deadlockHalts, ?rewritten, ?found, ?corrected, ?streamed, ?dropped, ?discarded⟩
  case waitEnds =>
    intro k t x hstall s ⟨hruns, hdbg, hx, htrue⟩
    rw [waitEnd_of_over hruns hdbg (by rw [waitOver_of_wait hx, htrue, Bool.true_or]), evalWait_of_true hx htrue, hstall,
      if_neg Bool.false_ne_true]
  case stallEnds =>
    intro k t x hstall s ⟨hruns, hdbg, hx, htrue⟩
    rw [waitEnd_of_over hruns hdbg (by rw [waitOver_of_wait hx, htrue, Bool.true_or]), evalWait_of_true hx htrue, if_pos hstall]
  case timerEnds =>
    intro k t x hstall s ⟨hruns, hdbg, hx, hfalse, htimer⟩
    rw [waitEnd_of_over hruns hdbg (by rw [waitOver_of_wait hx, htimer, Bool.or_true]), evalWait_of_timer hx hfalse htimer hstall]
  case boundWaits =>
    intro k t x s ⟨hx, hfalse, htimer⟩
    have hexec : exec (.agentWaitEnd k t) s = execAgentWaitEnd k t s := rfl
    rw [hexec, execAgentWaitEnd, waitOver_of_wait hx, hfalse, htimer, Bool.or_self, if_neg Bool.false_ne_true, within_next]
  case boundTraps =>
    intro k t x s hbound hruns hdbg hx hfalse htimer hpassed
    exact (endWait_of_running hruns hdbg).trans (evalWait_of_bound hx hfalse htimer hbound hpassed)
  case fires =>
    refine fun k t c => acts_of_next (fun _ => rfl) fun s ⟨htimer, hruns, hmet⟩ => ?_
    simp only [htimer, hruns, hmet, Bool.and_self, if_true]
  case prefetchWaits => exact fun k => acts_of_next (fun _ => rfl) fun _ _ => rfl
  case prefetches => exact fun k s hruns => if_pos hruns
  case traps =>
    refine fun k t w c => acts_of_next (fun _ => rfl) fun s ⟨hpick, htrap⟩ => ?_
    simp only [hpick, htrap]
  case overflows => exact fun k t cause info saved s hover => if_pos hover
  case deadlockTraps =>
    refine fun k => acts_of_next (f := fun s => .next (deadlockNow k s)) (fun _ => rfl) fun s ⟨hdue, hroutine⟩ => ?_
    simp only [deadlockNow, hdue, hroutine, if_true]
  case deadlockHalts =>
    refine fun k => acts_of_next (f := fun s => .next (deadlockNow k s)) (fun _ => rfl) fun s ⟨hdue, hroutine⟩ => ?_
    simp only [deadlockNow, hdue, hroutine, Bool.false_eq_true, if_false, if_true]
  case rewritten =>
    refine fun k word u hk hword => acts_of_next (fun _ => rfl) fun s ⟨himage, hbad⟩ => ?_
    simp only [ge_iff_le, Nat.not_le.2 hk, Nat.not_le.2 hword, Option.isNone_eq_false_iff.2 himage, hbad, Bool.false_eq_true, or_self,
      if_false, if_true]
  case found =>
    refine fun k word hk hword => acts_of_next (fun _ => rfl) fun s ⟨himage, hgood⟩ => ?_
    simp only [ge_iff_le, Nat.not_le.2 hk, Nat.not_le.2 hword, Option.isNone_eq_false_iff.2 himage, hgood, Bool.false_eq_true, or_self,
      if_false, if_true]
  case corrected =>
    refine fun k word hk hword => acts_of_next (fun _ => rfl) fun s ⟨himage, hgood⟩ => ?_
    simp only [ge_iff_le, Nat.not_le.2 hk, Nat.not_le.2 hword, Option.isNone_eq_false_iff.2 himage, hgood, Bool.false_eq_true, or_self,
      if_false]
  case streamed =>
    refine fun k g a n e rest => acts_of_next (fun _ => rfl) fun s ⟨hstream, hpend, hperst, hroom⟩ => ?_
    simp only [hstream, hpend, hperst, hroom, Bool.false_eq_true, if_false]
  case dropped =>
    refine fun k g a n e rest => acts_of_next (fun _ => rfl) fun s ⟨hstream, hpend, hperst, hfull⟩ => ?_
    simp only [hstream, hpend, hperst, hfull, Bool.false_eq_true, if_false, if_true]
  case discarded =>
    refine fun k g a n e rest => acts_of_next (fun _ => rfl) fun s ⟨hstream, hpend, hperst⟩ => ?_
    simp only [hstream, hpend, hperst, if_true]

end Sys2Proof.Machine
end

/-! ## Modes, DRAIN, HALT and SANITIZE (chapter 17) -/
section
namespace Sys2Proof.Machine

/-- Where DRAIN is not at DARK no final reply of MODE_SET DRAIN is due. -/
theorem darkReply_of_mode {s : State} (h : s.mode.mode ≠ .drain) : darkReply s = s := by
  unfold darkReply
  split
  · rfl
  · exact if_neg fun hd => h hd.1

/-- MODE_SET comes to what its body answers at step 8, and then to the final reply of a DRAIN that is dark. -/
theorem exec_modeSet {h : Hdr} {target : Mode} {ms : Nat} {s : State} {w : World}
    (hs : starts { code := 0x0111, world := .secure, modeOk := reachable s target,
                   lifeOk := lifePermits s.world.lifecycle target } h w s = true) :
    exec (.modeSet h target ms) s = .next (keeping s (darkReply (
      match modeSet h target ms (atFetch { code := 0x0111 } h s) with
      | .refuse st d => answer h 0x0111 st d [] (atFetch { code := 0x0111 } h s)
      | .done rs u =>
        if replyFits (atFetch { code := 0x0111 } h s) h.ring none rs then answer h 0x0111 .ok none rs u
        else answer h 0x0111 .badLength none [] (atFetch { code := 0x0111 } h s)
      | .pend u => answer h 0x0111 .pending none [] u
      | .start u => markStarted h 0x0111 u
      | .reply st d rs u => answer h 0x0111 st d rs u))) := by
  have hx : exec (.modeSet h target ms) s = execModeSet h target ms s := rfl
  rw [hx, execModeSet, within_next, qcp_of_starts _ hs]
  rfl

/-- A command that starts passed its row's check of the mode. -/
theorem modeOk_of_starts {op : Op} {h : Hdr} {w : World} {s : State} (hs : starts op h w s = true) : op.modeOk = true := by
  simp only [starts, modeAllows, Bool.and_eq_true] at hs
  obtain ⟨⟨⟨-, hmode, -⟩, -⟩, -⟩ := hs
  exact hmode

/-- From CALIBRATE, SERVICE is in reach (Table 17-2). -/
theorem reachable_service {s : State} (h : (s.mode.mode == .calibrate) = true) :
    (s.mode.mode == .calibrate) = reachable s .service := by
  simp only [reachable, h, Bool.true_or]

/-- Settles O19: each command's body comes to its effect, and each happening acts, under the clause's conditions. That DRAIN_WIPE_DONE is
accepted from DARK is log entry 70, the reset left to the orbit boundary log entry 72, what counts as empty log entry 124. -/
theorem modeRowsComplete : Obligations.ModeRowsComplete := by
  unfold Obligations.ModeRowsComplete
  refine ⟨?status, ?tablets, ?calibrate, ?service, ?drain, ?halt, ?reset, ?calibrated, ?emptying, ?dark, ?wiped, ?wipedDark,
    ?poweredOff, ?sliceHalt, ?faultHalt, ?boots, ?held, ?decommissioned, ?readBack, ?zeroed⟩
  case status => exact fun h => completes_of_done (fun _ => rfl) fun _ _ _ => rfl
  case tablets =>
    refine fun h first count ds => completes_of_done (fun _ => rfl) fun _ u hds => ?_
    simp only [hds, id]
  case calibrate =>
    intro h ms s w hs hzeroed
    rw [exec_modeSet (target := .calibrate) hs, modeSet, if_neg (by simp [hzeroed]), replied]
    refine congrArg (fun u => Host.Outcome.next (keeping s u)) (darkReply_of_mode ?_)
    simp [enterCalibrate, enterMode]
  case service =>
    intro h ms s w hs hmode hcalib hactive hfit
    rw [reachable_service (modeOk_of_starts hs)] at hs
    rw [exec_modeSet hs]
    simp only [modeSet, hmode, hcalib, Option.isNone_eq_false_iff.2 hactive, hfit, reduceCtorEq, false_and, Option.isSome_none,
      Bool.false_eq_true, if_false, if_true, replied]
    refine congrArg (fun u => Host.Outcome.next (keeping s u)) (darkReply_of_mode ?_)
    simp
  case drain =>
    intro h ms s w hs hzeroed hms
    have hready : ¬ ((atFetch { code := 0x0111 } h s).mode.mode = .boot ∧ (!(atFetch { code := 0x0111 } h s).mode.zeroed) = true) :=
      fun ⟨hboot, hno⟩ => by simp [hzeroed hboot] at hno
    rw [exec_modeSet hs, modeSet, if_neg hready]
    simp only [gt_iff_lt, Nat.not_lt.2 hms, if_false]
  case halt =>
    intro h ms s w hs hzeroed hfit
    have hready : ¬ ((atFetch { code := 0x0111 } h s).mode.mode = .boot ∧ (!(atFetch { code := 0x0111 } h s).mode.zeroed) = true) :=
      fun ⟨hboot, hno⟩ => by simp [hzeroed hboot] at hno
    rw [exec_modeSet (target := .halt) hs]
    simp only [modeSet, if_neg hready, hfit, if_true]
  case reset => exact fun h => completes_of_done (fun _ => rfl) fun _ _ _ => rfl
  case calibrated =>
    refine fun failed h => acts_of_next (fun _ => rfl) fun s hcalib => ?_
    simp only [hcalib]
  case emptying =>
    exact acts_of_next (f := fun s => .next (beginEmptying s)) (fun _ => rfl) fun s h => congrArg _ (if_pos h)
  case dark =>
    exact acts_of_next (f := fun s => .next (beginDark s)) (fun _ => rfl) fun s h => congrArg _ (if_pos h)
  case wiped =>
    refine acts_of_next (fun _ => rfl) fun s ⟨hmode, hreplied, hphase⟩ => ?_
    simp only [hmode, hreplied, hphase, Option.isNone_none, reduceCtorEq, or_true, and_self, if_true, if_false]
  case wipedDark =>
    refine acts_of_next (fun _ => rfl) fun s ⟨hmode, hreplied, hphase⟩ => ?_
    simp only [hmode, hreplied, hphase, Option.isNone_none, true_or, and_self, if_true]
  case poweredOff => exact acts_of_guard (fun _ h => h) fun _ => rfl
  case sliceHalt =>
    refine fun k => acts_of_next (fun _ => rfl) fun s ⟨hk, hlive, hstandby, hsanitize⟩ => ?_
    simp only [ge_iff_le, Nat.not_le.2 hk, hlive, hstandby, hsanitize, Bool.false_eq_true, or_self, if_false]
  case faultHalt => exact acts_of_guard (fun _ h => h) fun _ => rfl
  case boots =>
    refine acts_of_next (fun _ => rfl) fun s ⟨hmode, hphase, hlife, hreset⟩ => ?_
    simp only [hmode, hphase, hlife, hreset, ne_eq, not_true_eq_false, or_self, Bool.not_true, Bool.false_eq_true, if_false]
  case held =>
    refine acts_of_next (fun _ => rfl) fun s ⟨hmode, hphase, hlife, hreset⟩ => ?_
    simp only [hmode, hphase, hlife, hreset, ne_eq, not_true_eq_false, or_self, Bool.not_true, Bool.false_eq_true, if_false, if_true]
  case decommissioned =>
    refine acts_of_next (fun _ => rfl) fun s ⟨hmode, hphase, hlife⟩ => ?_
    simp only [hmode, hphase, hlife, ne_eq, not_true_eq_false, or_self, Bool.not_true, Bool.false_eq_true, if_false, if_true]
  case readBack =>
    refine acts_of_next (fun _ => rfl) fun s ⟨hmode, hphase⟩ => ?_
    simp only [hmode, hphase, ne_eq, not_true_eq_false, or_self, Bool.not_false, if_false, if_true]
  case zeroed =>
    refine fun failed => acts_of_next (fun _ => rfl) fun s ⟨hzeroed, hmode⟩ => ?_
    simp only [hzeroed, hmode, Bool.false_eq_true, or_self, if_false]

end Sys2Proof.Machine
end

/-! ## The rear connector and the management bus (chapter 19) -/
section
namespace Sys2Proof.Machine

/-- A running controller latches an alarm (Table 19-3). -/
theorem latch_of_running (bits : BitVec 8) {s : State} (h : s.mmc.running = true) :
    latch bits s = { s with mmc := { s.mmc with latched := s.mmc.latched ||| bits } } := if_pos h

/-- PWR_EN has been low for 100 ms from 160,000,000 cycles after its fall on (R373, R375). -/
theorem lowLong_of_le {s : State} {t : Nat} (hlow : s.mmc.lowAt = some t) (hlong : t + 160000000 ≤ s.time.now) : lowLong s = true := by
  simp only [lowLong, hlow, Option.any_some, decide_eq_true_eq]
  omega

theorem lowLong_of_lt {s : State} (hshort : ∀ t, s.mmc.lowAt = some t → s.time.now < t + 160000000) : lowLong s = false := by
  cases hlow : s.mmc.lowAt with
  | none => simp only [lowLong, hlow, Option.any_none]
  | some t =>
    have hlt := hshort t hlow
    simp only [lowLong, hlow, Option.any_some, decide_eq_false_iff_not]
    omega

/-- A rise of PWR_EN acts with the wait for a fall as it leaves it. -/
theorem acts_pwrEnRise {p : State → Prop} {m : State → MmcSt}
    (hm : ∀ s, p s → { s.mmc with pwrEn := true, coolBad := false, needFall := s.mmc.needFall && !lowLong s, lowAt := none } = m s) :
    Acts .pwrEnRise p fun s => tryStart { s with mmc := m s } :=
  acts_of_next (f := fun s => .next (tryStart { s with mmc := { s.mmc with
      pwrEn := true, coolBad := false, needFall := s.mmc.needFall && !lowLong s, lowAt := none } }))
    (fun _ => rfl) fun s hs => by rw [hm s hs]

/-- A row that latches alarms acts on a running controller with them latched. -/
theorem acts_of_latch {c : Instr} {bits : BitVec 8} {g : State → State}
    (hx : ∀ s, exec c s = within s (.next (g (latch bits s)))) :
    Acts c (fun s => s.mmc.running = true) fun s => g { s with mmc := { s.mmc with latched := s.mmc.latched ||| bits } } :=
  acts_of_next hx fun _ hrun => by rw [latch_of_running _ hrun]

/-- A reset pin that is low already stays so. -/
theorem lowReset_eq {s : State} (h : s.mmc.resetLow = true) : { s with mmc := { s.mmc with resetLow := true } } = s := by
  rw [← h]

theorem exec_modResetLRise (s : State) : exec .modResetLRise s = within s (
    if s.mode.mode = .sanitize ∧ s.mode.resetHeld then .next (enterBoot { s with mmc := { s.mmc with resetLow := false } })
    else .next { s with mmc := { s.mmc with resetLow := false } }) := rfl

/-- Settles O20: each happening acts under the clause's conditions. What a rise of PWR_EN does before and after 160,000,000 cycles is
log entry 80, POWER_OFF and MOD_RESET log entry 73. -/
theorem powerRowsComplete : Obligations.PowerRowsComplete := by
  unfold Obligations.PowerRowsComplete
  refine ⟨?contact, ?ready, ?seated, ?riseLong, ?riseShort, ?good, ?startFails, ?fall, ?reset, ?resetStandby, ?resetAgain, ?releaseHeld,
    ?release, ?removal, ?absent, ?inputLow, ?powerFault, ?stbyLow, ?stbyRemoved, ?latchOpen, ?latchClose, ?coolantWarn,
    ?coolantFault, ?leak, ?thermalWarn, ?thermalTrip, ?exhausted, ?returns⟩
  case contact => exact acts_of_next (fun _ => rfl) fun s hoff => by simp only [hoff, Bool.false_eq_true, if_false]
  case ready =>
    refine acts_of_next (fun _ => rfl) fun s ⟨hrun, hready⟩ => ?_
    simp only [hrun, hready, Bool.not_false, and_self, if_true]
  case seated => exact acts_of_next (fun _ => rfl) fun s hout => by simp only [hout, Bool.false_eq_true, if_false]
  case riseLong =>
    refine acts_pwrEnRise fun s ⟨t, hlow, hlong⟩ => ?_
    simp only [lowLong_of_le hlow hlong, Bool.not_true, Bool.and_false]
  case riseShort =>
    refine acts_pwrEnRise fun s hshort => ?_
    simp only [lowLong_of_lt hshort, Bool.not_false, Bool.and_true]
  case good => exact acts_of_guard (fun _ h => h) fun _ => rfl
  case startFails => exact acts_of_guard (fun _ h => h) fun _ => rfl
  case fall => exact acts_of_next (fun _ => rfl) fun _ _ => rfl
  case reset =>
    refine acts_of_next (fun _ => rfl) fun s ⟨hmode, hhigh⟩ => ?_
    simp only [hhigh, hmode, Bool.false_eq_true, if_false]
  case resetStandby =>
    refine acts_of_next (fun _ => rfl) fun s hmode => ?_
    cases hlow : s.mmc.resetLow with
    | true => rw [if_pos rfl, lowReset_eq hlow]
    | false => simp only [hmode, Bool.false_eq_true, if_false, if_true]
  case resetAgain => exact acts_of_next (fun _ => rfl) fun s hlow => if_pos hlow
  case releaseHeld => exact acts_of_next exec_modResetLRise fun _ hheld => if_pos hheld
  case release => exact acts_of_next exec_modResetLRise fun _ hfree => if_neg hfree
  case removal => exact fun prsnt => acts_of_next (fun _ => rfl) fun _ _ => rfl
  case absent => exact acts_of_next (fun _ => rfl) fun _ _ => rfl
  case inputLow => exact acts_of_latch fun _ => rfl
  case powerFault => exact acts_of_latch fun _ => rfl
  case stbyLow => exact acts_of_next (fun _ => rfl) fun _ _ => rfl
  case stbyRemoved => exact acts_of_guard (fun _ h => h) fun _ => rfl
  case latchOpen => exact acts_of_next (fun _ => rfl) fun _ _ => rfl
  case latchClose => exact acts_of_next (fun _ => rfl) fun _ _ => rfl
  case coolantWarn => exact acts_of_latch fun _ => rfl
  case coolantFault =>
    refine acts_of_next (fun _ => rfl) fun s ⟨hrun, hmode, hen⟩ => ?_
    rw [if_pos ⟨hmode, hen⟩, latch_of_running (s := { s with mmc := { s.mmc with softStart := false, coolBad := true } }) _ hrun]
  case leak => exact acts_of_latch fun _ => rfl
  case thermalWarn => exact acts_of_latch fun _ => rfl
  case thermalTrip => exact acts_of_latch fun _ => rfl
  case exhausted => exact acts_of_guard (fun _ h => h) fun _ => rfl
  case returns => exact acts_of_guard (fun _ h => h) fun _ => rfl

/-- A bus command of a controller that is READY runs. -/
theorem acts_of_onBus {c : Instr} {f eff : State → State} {when_ : State → Prop}
    (hx : ∀ s, exec c s = within s (.next (onBus f s))) (hready : ∀ s, when_ s → s.mmc.ready = true)
    (hf : ∀ s, when_ s → f s = eff s) : Acts c when_ eff :=
  acts_of_next hx fun s hs => by rw [onBus, if_pos (hready s hs), hf s hs]

/-- Settles O21: each bus command runs where the controller answers. That a log record's 64 bytes are the digits of `recWord` is log
entry 85. -/
theorem busRowsComplete : Obligations.BusRowsComplete := by
  unfold Obligations.BusRowsComplete
  refine ⟨?statusRead, ?statusWrite, ?identity, ?sensors, ?logRead, ?recoveryWrite, ?recoveryBoot, ?address⟩
  case statusRead => exact acts_of_onBus (fun _ => rfl) (fun _ h => h) fun _ _ => rfl
  case statusWrite => exact fun value => acts_of_onBus (fun _ => rfl) (fun _ h => h) fun _ _ => rfl
  case identity => exact acts_of_onBus (fun _ => rfl) (fun _ h => h) fun _ _ => rfl
  case sensors => exact acts_of_onBus (fun _ => rfl) (fun _ h => h) fun _ _ => rfl
  case logRead =>
    refine fun cls index r => acts_of_onBus (fun _ => rfl) (fun _ h => h.1) fun s ⟨_, hr⟩ => ?_
    simp only [hr, busAnswer]
  case recoveryWrite =>
    refine fun slotB offset data hlen => acts_of_onBus (fun _ => rfl) (fun _ h => h.1) fun s ⟨_, hnone⟩ => ?_
    simp only [gt_iff_lt, Nat.not_lt.2 hlen, hnone, Bool.not_true, Bool.false_eq_true, if_false, busAnswer]
  case recoveryBoot =>
    refine acts_of_onBus (fun _ => rfl) (fun _ h => h.1) fun s ⟨_, hnone⟩ => ?_
    simp only [hnone, Bool.not_true, Bool.false_eq_true, if_false]
  case address => exact acts_of_onBus (fun _ => rfl) (fun _ h => h) fun _ _ => rfl

end Sys2Proof.Machine
end

/-! ## Performance counters and the service log (chapter 18) -/
section
namespace Sys2Proof.Machine

/-- The state a note leaves: its record, and the cycle after it as its world's last. -/
def noted (w : World) (note : List Byte) (u : State) : State :=
  { logAdd .notes "NOTE" (some w) (note.map (fun b => b.toNat)) u with
    log := { (logAdd .notes "NOTE" (some w) (note.map (fun b => b.toNat)) u).log with
      noteAt := tset (logAdd .notes "NOTE" (some w) (note.map (fun b => b.toNat)) u).log.noteAt w
        ((logAdd .notes "NOTE" (some w) (note.map (fun b => b.toNat)) u).time.now + 1) } }

/-- A note of 1 to 32 bytes of a world that is not held back completes (R362). -/
theorem logAnnotate_completes (h : Hdr) (note : List Byte) (w : World) :
    Completes (.logAnnotate h note) h (fun _ => { code := 0x0D03 })
      (fun s => ringWorld s h.ring = some w ∧ noteBusy s w = false ∧ 1 ≤ note.length ∧ note.length ≤ 32)
      (fun s => [fld "RECORD" (logRecords s .notes).length]) (noted w note) := by
  refine completes_of_done (fun _ => rfl) fun _ u ⟨hring, hfree, hlow, hhigh⟩ => ?_
  simp only [hring, Option.getD_some, hfree, Bool.false_eq_true, if_false]
  exact if_neg (by omega)

/-- Settles O24: each command's body comes to its effect under the clause's conditions. That LOG_READ returns `recWord` is log entry 85,
the snapshot kept per block log entry 97. -/
theorem counterAndLogRowsComplete : Obligations.CounterAndLogRowsComplete := by
  unfold Obligations.CounterAndLogRowsComplete
  refine ⟨?config, ?read, ?snapshot, ?user, ?status, ?records, ?note, ?hourly⟩
  case config =>
    refine fun h block words zero => completes_of_done (fun _ => rfl) fun _ u ⟨hblock, hcounters, hwords⟩ => ?_
    simp only [ge_iff_le, Nat.not_le.2 hblock, hcounters, hwords, Bool.false_eq_true, if_false]
    rfl
  case read =>
    refine fun h blocks snapshot clear => completes_of_done (fun _ => rfl) fun _ u hlatched => ?_
    simp only [hlatched, Bool.false_eq_true, if_false]
    rfl
  case snapshot => exact fun h blocks => begins_of_start (fun _ => rfl) fun _ _ _ => rfl
  case user => exact fun h enable => completes_of_done (fun _ => rfl) fun _ _ _ => rfl
  case status => exact fun h => completes_of_done (fun _ => rfl) fun _ _ _ => rfl
  case records =>
    refine fun h cls first count => completes_of_done (fun _ => rfl) fun _ u ⟨hlow, hhigh⟩ => ?_
    exact if_neg (by omega)
  case note => exact logAnnotate_completes
  case hourly =>
    exact acts_of_next (f := fun s => .next (hourlyCommit s)) (fun _ => rfl) fun s hhour => congrArg _ (if_pos hhour)

/-! ### Notes -/

@[simp] theorem pmcCount_blackout (b c q n : Nat) (s : State) : (pmcCount b c q n s).qcp.blackout = s.qcp.blackout := by
  unfold pmcCount
  split <;> rfl

/-- A command that starts stands outside a firmware switch's blackout, and its fetch does not begin one. -/
theorem noBlackout_of_starts {op : Op} {h : Hdr} {w : World} {s : State} (hs : starts op h w s = true) :
    (atFetch op h s).qcp.blackout = none := by
  have hfetch : (atFetch op h s).qcp.blackout = s.qcp.blackout := by
    simp only [atFetch]
    split
    · rfl
    · simp only [fetchCmd, pmcCount_blackout, bump, bumpBy_qcp, maxCtr]
  rw [hfetch]
  simp only [starts, protocolRuns, Bool.and_eq_true, Option.isNone_iff_eq_none] at hs
  obtain ⟨⟨⟨⟨⟨⟨⟨⟨⟨⟨-, hnone⟩, -⟩, -⟩, -⟩, -⟩, -⟩, -⟩, -⟩, -⟩, -⟩ := hs
  exact hnone

/-- A record kept is the log's last. -/
theorem logKeep_getLast (r : LogRec) (s : State) : (logKeep r s).log.recs.getLast? = some r := by
  unfold logKeep
  split <;> exact List.getLast?_concat

/-- Adding a record leaves the clock and when each world last added a note. -/
theorem logAdd_keeps (cls : LogClass) (kind : String) (w : Option World) (vals : List Nat) (s : State) :
    (logAdd cls kind w vals s).time = s.time ∧ (logAdd cls kind w vals s).log.noteAt = s.log.noteAt := by
  unfold logAdd logKeep
  repeat' split
  all_goals exact ⟨rfl, rfl⟩

/-- A world is held back exactly less than one second after its last note. -/
theorem noteBusy_iff (s : State) (w : World) :
    noteBusy s w = true ↔ tget s.log.noteAt w 0 ≠ 0 ∧ s.time.now + 1 < tget s.log.noteAt w 0 + 1600000000 := by
  simp only [noteBusy, Bool.and_eq_true, bne_iff_ne, decide_eq_true_eq]

/-- After a note its world is held back, and the other is as it was. -/
theorem noteBusy_noted (w w' : World) (note : List Byte) (u : State) :
    noteBusy (noted w note u) w' = if w' = w then true else noteBusy u w' := by
  obtain ⟨htime, hnote⟩ := logAdd_keeps .notes "NOTE" (some w) (note.map fun b => b.toNat) u
  by_cases hsame : w' = w
  · simp only [hsame, noteBusy, noted, htime, hnote, tget_tset_self, if_true, Bool.and_eq_true, bne_iff_ne, decide_eq_true_eq]
    omega
  · simp only [noteBusy, noted, htime, hnote, tget_tset, Ne.symm hsame, hsame, if_false]

/-- A note's record is the log's last, where no blackout buffers it. -/
theorem noted_getLast {u : State} (h : u.qcp.blackout = none) (w : World) (note : List Byte) :
    (noted w note u).log.recs.getLast? = some ⟨.notes, "NOTE", some w, u.time.orbit, note.map (fun b => b.toNat)⟩ := by
  simp only [noted, logAdd, h, Option.isSome_none, Bool.false_eq_true, if_false, logKeep_getLast]

/-- A second note of a world within a second is refused (R362). -/
theorem logAnnotate_refuses_busy (h : Hdr) (note : List Byte) (w : World) :
    Refuses (.logAnnotate h note) h (fun _ => { code := 0x0D03 })
      (fun s => ringWorld s h.ring = some w ∧ noteBusy s w = true) .busy (fun _ => none) := by
  refine refuses_of_refuse (fun _ => rfl) fun _ u ⟨hring, hbusy⟩ => ?_
  simp only [hring, Option.getD_some, hbusy, if_true]

/-- A note of no byte or of more than 32 is refused (R362). -/
theorem logAnnotate_refuses_length (h : Hdr) (note : List Byte) (w : World) :
    Refuses (.logAnnotate h note) h (fun _ => { code := 0x0D03 })
      (fun s => ringWorld s h.ring = some w ∧ noteBusy s w = false ∧ (note.length = 0 ∨ 32 < note.length))
      .badParam (fun _ => some (.param (po 0))) := by
  refine refuses_of_refuse (fun _ => rfl) fun _ u ⟨hring, hfree, hlength⟩ => ?_
  simp only [hring, Option.getD_some, hfree, Bool.false_eq_true, if_false]
  exact if_pos (by omega)

/-- Settles O48: LOG_ANNOTATE completes or refuses as its world's last note says, and a note holds back its own world only. -/
theorem notesFollowR362 : Obligations.NotesFollowR362 := by
  intro h note s w hs hring u last
  have hidle : last = 0 ∨ last + 1600000000 ≤ u.time.now + 1 → noteBusy u w = false := fun hlast =>
    Bool.eq_false_iff.2 fun hbusy => by
      obtain ⟨hnonzero, hrecent⟩ := (noteBusy_iff u w).1 hbusy
      omega
  refine ⟨fun hlast hlow hhigh hfits => ⟨noted w note u, ?completes, ?record, ?held, fun w' hother => ?free⟩,
    fun hnonzero hrecent => ?busy, fun hlast hlength => ?length⟩
  case completes => exact logAnnotate_completes h note w s w hs ⟨hring, hidle hlast, hlow, hhigh⟩ hfits
  case record => exact noted_getLast (noBlackout_of_starts hs) w note
  case held => rw [noteBusy_noted, if_pos rfl]
  case free => rw [noteBusy_noted, if_neg hother]
  case busy => exact logAnnotate_refuses_busy h note w s w hs ⟨hring, (noteBusy_iff u w).2 ⟨hnonzero, hrecent⟩⟩
  case length => exact logAnnotate_refuses_length h note w s w hs ⟨hring, hidle hlast, hlength⟩

end Sys2Proof.Machine
end

/-! ## Counting events (R353, R354) -/
section
namespace Sys2Proof.Machine

/-- An occurrence is noted where a counter of its block selects it. -/
theorem pmcCount_eq (block code qual n : Nat) (s : State) :
    pmcCount block code qual n s = (if (List.range 8).any (fun i => pmcMatches (tget s.pmu.ctl (block, i) 0) code qual) = true
      then { s with pmu := { s.pmu with now := s.pmu.now ++ [(block, code, qual, n)] } } else s) := by
  have hselect : (pmcsOf s block code qual).isEmpty = true ↔
      ¬(List.range 8).any (fun i => pmcMatches (tget s.pmu.ctl (block, i) 0) code qual) = true := by
    simp only [pmcsOf, List.isEmpty_iff, List.filter_eq_nil_iff, List.any_eq_true, not_exists, not_and]
  simp only [pmcCount, hselect, ite_not]

theorem pmcMatches_iff (ctl : BitVec 64) (code qual : Nat) : pmcMatches ctl code qual = true ↔
    ctl.getLsbD 10 = true ∧ (ctl.getLsbD 11 = true ↔ code % 256 ≥ 128) ∧ field ctl 0 10 = code ∧
      (ctl.getLsbD 30 = true ∨ field ctl 16 14 = qual) := by
  have hkind : (ctl.getLsbD 11 == decide (code % 256 ≥ 128)) = true ↔ (ctl.getLsbD 11 = true ↔ code % 256 ≥ 128) := by
    rw [beq_iff_eq, Bool.eq_iff_iff, decide_eq_true_iff]
  simp only [pmcMatches, Bool.and_eq_true, Bool.or_eq_true, hkind, beq_iff_eq, and_assoc]

/-- A counter wraps modulo 2^48. -/
theorem pmcAdvance_value (ctl : BitVec 64) (v n : Nat) : (pmcAdvance ctl v n).2 = (v + n) % 2 ^ 48 := by
  unfold pmcAdvance
  split
  case isTrue hlt => exact (Nat.mod_eq_of_lt hlt).symm
  case isFalse => rfl

/-- OVF is set where a counter wraps. -/
theorem pmcAdvance_control (ctl : BitVec 64) (v n : Nat) :
    (pmcAdvance ctl v n).1 = if v + n < 2 ^ 48 then ctl else ctl ||| BitVec.ofNat 64 (2 ^ 12) := by
  unfold pmcAdvance
  split <;> rfl

theorem pmcAdd_pmc (k k' : Nat × Nat) (n : Nat) (s : State) : tget (pmcAdd k n s).pmu.pmc k' 0 =
    if k = k' then (tget s.pmu.pmc k 0 + n) % 2 ^ 48 else tget s.pmu.pmc k' 0 := by
  simp only [pmcAdd, tget_tset, pmcAdvance_value]

theorem pmcAdd_ctl (k k' : Nat × Nat) (n : Nat) (s : State) : tget (pmcAdd k n s).pmu.ctl k' 0 =
    if k = k' then (if tget s.pmu.pmc k 0 + n < 2 ^ 48 then tget s.pmu.ctl k 0
      else tget s.pmu.ctl k 0 ||| BitVec.ofNat 64 (2 ^ 12)) else tget s.pmu.ctl k' 0 := by
  simp only [pmcAdd, tget_tset, pmcAdvance_control]

/-! ### The cycle's end -/

/-- One counter's turn at the cycle's end, under the gains `g`. -/
def pmcTurn (g : Nat × Nat → Nat) (t : State) (k : Nat × Nat) : State := if g k = 0 then t else pmcAdd k (g k) t

/-- A counter's turn leaves the others. -/
theorem pmcTurn_other (g : Nat × Nat → Nat) {k k' : Nat × Nat} (h : k' ≠ k) (t : State) :
    tget (pmcTurn g t k').pmu.pmc k 0 = tget t.pmu.pmc k 0 := by
  unfold pmcTurn
  split
  · rfl
  · rw [pmcAdd_pmc, if_neg h]

/-- A counter's turn adds its gain modulo 2^48. -/
theorem pmcTurn_self (g : Nat × Nat → Nat) (k : Nat × Nat) {t : State} (hwide : tget t.pmu.pmc k 0 < 2 ^ 48) :
    tget (pmcTurn g t k).pmu.pmc k 0 = (tget t.pmu.pmc k 0 + g k) % 2 ^ 48 := by
  unfold pmcTurn
  split
  case isTrue hzero => rw [hzero, Nat.add_zero, Nat.mod_eq_of_lt hwide]
  case isFalse => rw [pmcAdd_pmc, if_pos rfl]

theorem pmcTurns_other (g : Nat × Nat → Nat) {k : Nat × Nat} {keys : List (Nat × Nat)} (h : k ∉ keys) (t : State) :
    tget (keys.foldl (pmcTurn g) t).pmu.pmc k 0 = tget t.pmu.pmc k 0 := by
  induction keys generalizing t with
  | nil => rfl
  | cons k' keys ih =>
    obtain ⟨hne, hrest⟩ := not_or.1 (mt List.mem_cons.2 h)
    rw [List.foldl_cons, ih hrest, pmcTurn_other g (Ne.symm hne)]

/-- Of distinct counters, each takes its gain once. -/
theorem pmcTurns_mem (g : Nat × Nat → Nat) {k : Nat × Nat} {keys : List (Nat × Nat)} (hnodup : keys.Nodup) (hk : k ∈ keys)
    {t : State} (hwide : tget t.pmu.pmc k 0 < 2 ^ 48) :
    tget (keys.foldl (pmcTurn g) t).pmu.pmc k 0 = (tget t.pmu.pmc k 0 + g k) % 2 ^ 48 := by
  induction keys generalizing t with
  | nil => cases hk
  | cons k' keys ih =>
    obtain ⟨hfirst, hrest⟩ := List.nodup_cons.1 hnodup
    rw [List.foldl_cons]
    by_cases hsame : k' = k
    · subst hsame
      rw [pmcTurns_other g hfirst, pmcTurn_self g k' hwide]
    · have hother := pmcTurn_other g hsame t
      rw [ih hrest (List.mem_of_ne_of_mem (Ne.symm hsame) hk) (hother ▸ hwide), hother]

/-- What PMU_CONFIG wrote to other counters leaves this one. -/
theorem pmcWrites_other {k : Nat × Nat} {cfg : List ((Nat × Nat) × BitVec 64 × Bool)} (h : ∀ x ∈ cfg, x.1 ≠ k) (t : State) :
    tget (cfg.foldl (fun t x => pmcWrite x.1 x.2.1 x.2.2 t) t).pmu.pmc k 0 = tget t.pmu.pmc k 0 := by
  induction cfg generalizing t with
  | nil => rfl
  | cons x cfg ih =>
    obtain ⟨hx, hrest⟩ := List.forall_mem_cons.1 h
    rw [List.foldl_cons, ih hrest]
    unfold pmcWrite
    split
    · rw [tget_tset, if_neg hx]
    · rfl

/-- A listed counter that PMU_CONFIG did not write has its gain added at the cycle's end. -/
theorem pmcEnd_pmc {s : State} {k : Nat × Nat} (hnodup : (s.pmu.ctl.map (fun e => e.1)).Nodup) (hk : k ∈ s.pmu.ctl.map (fun e => e.1))
    (hcfg : ∀ x ∈ s.pmu.cfg, x.1 ≠ k) (hwide : tget s.pmu.pmc k 0 < 2 ^ 48) :
    tget (pmcEnd s).pmu.pmc k 0 = (tget s.pmu.pmc k 0 + pmcGain s k) % 2 ^ 48 := by
  have hkept : k ∈ (s.pmu.ctl.map (fun e => e.1)).filter (fun k => !(s.pmu.cfg.any (fun x => x.1 == k))) := by
    refine List.mem_filter.2 ⟨hk, ?_⟩
    rw [Bool.not_eq_true', List.any_eq_false]
    exact fun x hx => by simpa only [beq_iff_eq] using hcfg x hx
  exact (pmcWrites_other hcfg _).trans (pmcTurns_mem (pmcGain s) (hnodup.filter _) hkept hwide)

/-- Settles O53: an occurrence is noted where it is selected, and the cycle's end adds each counter's gain once. -/
theorem eventsCountWhereSelected : Obligations.EventsCountWhereSelected := by
  intro s block code qual n
  refine ⟨pmcCount_eq block code qual n s, fun k => ⟨?value, ?control, fun k' hk' => ⟨?otherValue, ?otherControl⟩, ?frame⟩,
    fun k hnodup hk hcfg hwide => ⟨pmcEnd_pmc hnodup hk hcfg hwide, rfl, rfl⟩, fun ctl => pmcMatches_iff ctl code qual⟩
  case value => rw [pmcAdd_pmc, if_pos rfl]
  case control => rw [pmcAdd_ctl, if_pos rfl]
  case otherValue => rw [pmcAdd_pmc, if_neg (Ne.symm hk')]
  case otherControl => rw [pmcAdd_ctl, if_neg (Ne.symm hk')]
  case frame => rfl

end Sys2Proof.Machine
end
